-- ==== Sys2Proof/Word.lean ====
section
/-! DEFINITION. The words of the K5: 64-bit scalars, bytes, and their plainest arithmetic (spec 03 R65, 02 R63). -/

namespace Sys2Proof

/-- A 64-bit scalar word (R65). -/
abbrev Word := BitVec 64

/-- A byte. -/
abbrev Byte := BitVec 8

/-- A 32-bit instruction word (R36). -/
abbrev IWord := BitVec 32

end Sys2Proof
end

