-- ==== Sys2Proof/Config.lean ====
section
/-! DEFINITION. What one K5 implementation fixes, the names of outside agents and kinds that event rows carry, and the free values the spec leaves open (opaque: nothing can be proved about them). -/

namespace Sys2Proof

/-- Access kinds of a walk or a check (R149, R260; KACC of R205: 0 fetch, 1 load, 2 store, 3 atomic). -/
inductive Access where
  | fetch | load | store | atomic
  deriving DecidableEq, Repr

/-- How a PCIe AtomicOp completes (R357). -/
inductive CplStatus where
  /-- Successful completion. -/
  | ok
  /-- Unsupported Request or Completer Abort. -/
  | unsupported
  /-- Any other error status. -/
  | error
  deriving DecidableEq, Repr

/-- Agents that write or read at a home without an L1 (R124): an engine, a host agent, a zeroing operation. -/
inductive HomeAgent where
  /-- A cluster copy engine (n below 320) or package copy engine (1000 + e). -/
  | engine (n : Nat)
  /-- A host agent H0, H1, X0, X1 (0 to 3, R136) with its incarnation number (R182). It names its bytes by a 64-bit effective address (R86),
  which stands in the place of the key; a paged address is translated under this tenant and address space (log 83). -/
  | host (n : Nat) (inc : BitVec 16) (ten asid : Nat)
  /-- A zeroing operation of the K5. -/
  | zeroing
  deriving DecidableEq, Repr

/-- The address of a host's request: a 64-bit effective address (R86), and the tenant and address space under which a paged one is translated
(log 83). -/
structure HostAddr where
  ea : Word
  ten : Nat
  asid : Nat
  deriving DecidableEq, Repr

/-- A host agent's hold on a 64-byte half (R136). -/
inductive HostHold where
  | i | s | e | m
  deriving DecidableEq, Repr

/-- AtomicOps the K5 completes or requests (R141, R328). -/
inductive HostAtomic where
  | fetchAdd | swap | cas
  deriving DecidableEq, Repr

/-- What another module asks of this one (R87, R328). -/
inductive RemoteKind where
  | load | store
  /-- The checks of a store that its core has not retired yet (R259, R260). -/
  | check
  | atomicSwap | atomicAdd | atomicAnd | atomicOr | atomicMax | atomicMaxu
  | atomicCas (comparand : Word)
  deriving DecidableEq, Repr

/-- A host agent's answer to a recall: its incarnation number (R182), and the data of a half it held dirty (R139). -/
structure HostAnswer where
  inc : BitVec 16
  data : Option (BitVec 512)
  deriving DecidableEq, Repr

/-- How another module answers (R87, R149). -/
inductive RemoteStatus where
  /-- Performed, or the checks of a store passed. -/
  | ok
  /-- Performed, and the page lets a mirror replica of the line be made: MRO = 1, W = 0, LPDDR-backed (R143). -/
  | mirror
  /-- The walk faulted. -/
  | page
  /-- Any other refusal. -/
  | access
  deriving DecidableEq, Repr

/-- What another module's answer says beside its data, with the link peer's incarnation number (R182). -/
structure RemoteAnswer where
  inc : BitVec 16
  status : RemoteStatus
  deriving DecidableEq, Repr

/-- The single faults of R245, each with where it strikes. -/
inductive FaultKind where
  /-- One wrong bit in an SRAM (or LPDDR) word that is read: masked. -/
  | singleBit (lpddr : Bool)
  /-- Two wrong bits in the 8-byte word that holds the byte at this key. -/
  | doubleBit (lpddr : Bool) (key : Nat)
  /-- A parity error in an LLC line's timestamps. -/
  | timestamp (line : Nat)
  /-- A parity error in an L1 line's timestamps. -/
  | l1Timestamp (core line : Nat)
  /-- A parity error in a slice's EMARK. -/
  | emark (slice : Nat)
  /-- A parity error in the directory entry covering this line. -/
  | directory (line : Nat)
  /-- A bit in the entry of a core's TLB that translates this address of a tenant's address space: the entry is dropped. -/
  | tlb (core ten asid va : Nat)
  /-- A bit in such an entry of a cluster's TLB. -/
  | clusterTlb (cluster ten asid va : Nat)
  /-- Two wrong bits in a word of a copy engine's buffers. -/
  | engineWord (engine : Nat)
  /-- Two wrong bits in a word of a sweep engine's buffers. -/
  | sweepWord (cluster : Nat)
  /-- A matrix row's mod-3 residue: the next matrix row computed in this cluster fails. -/
  | matrixRow (cluster row : Nat)
  /-- A residue mismatch in a core's arithmetic. -/
  | coreArithmetic (core : Nat)
  /-- A residue mismatch in a sweep lane. -/
  | sweepLane (cluster lane : Nat)
  /-- A control or state register of a core. -/
  | coreState (core : Nat)
  /-- A control or state register of a copy engine. -/
  | engineState (engine : Nat)
  /-- A control or state register of a cluster's sweep engine. -/
  | sweepState (cluster : Nat)
  /-- A control or state register of a router: every message and barrier update that it held is lost; it held the messages of these sources to
  these destinations and the updates on their way to these cores. -/
  | routerState (cluster : Nat) (msgs : List (Nat × Nat)) (updates : List Nat)
  /-- A bit of an L1 instruction entry of a core: the entry is dropped and refilled. -/
  | instruction (core : Nat)
  /-- Two wrong bits in a word of accumulator memory: element `j` of row `row` of tile `tile`. -/
  | accumulator (cluster tile row j : Nat)
  /-- Two wrong bits in a word of a message that a router holds. -/
  | routerWord (src dst word : Nat)
  /-- A bit in a configuration table (0 slot, 1 partition, 2 pairing, 3 decode tables). -/
  | config (table : Nat)
  deriving DecidableEq, Repr

/-- What a patrol scrub finds when it reads a line or word (R245, R247). -/
inductive ScrubKind where
  /-- The word is good. -/
  | good (key : Nat)
  /-- One wrong bit, written back corrected. -/
  | corrected (lpddr : Bool) (key : Nat)
  /-- Uncorrectable: poisoned and counted. -/
  | uncorrectable (lpddr : Bool) (key : Nat)
  /-- Bad timestamps of an LLC line. -/
  | timestamps (line : Nat)
  /-- A bad directory entry covering a line. -/
  | directory (line : Nat)
  deriving DecidableEq, Repr

namespace Config

/-- Free bit `n`: whether an open two-way outcome takes its first choice (R48, R200, R357; log 9). -/
opaque freeBit : Nat → Bool

/-- Free word `n`: a value the spec does not state (log 9). -/
opaque freeWord : Nat → BitVec 64

/-- What field `k` of a fault record written in cycle `t` holds when its unit has no value for it (R205; log 9). -/
opaque openField : Nat → Nat → BitVec 64

/-- The command copy of a record written in cycle `t` for a unit that holds no command (R205; log 9). -/
opaque openCopy : Nat → BitVec 512

/-- Which of the 512 sets of a cluster TLB holds the entry of a page: tenant, ASID, first address and size (R150 gives the sets and no index; log 8). -/
opaque tlbSet : Nat → Nat → Nat → Nat → Nat

/-- SM3 of a list of bytes (R10, R225, R231): the spec names the digest and gives no values (log 11). -/
opaque sm3 : List Byte → BitVec 256

/-- The SM2 signature that the K5 makes over a digest (R10, R229; log 11). -/
opaque sm2Sign : BitVec 256 → BitVec 512

/-- Does an SM2 signature over these bytes verify (R231, R373)? (log 11). -/
opaque sm2Verifies : List Byte → List Byte → Bool

/-- The server kernel's entry address (R78 gives no value; DESIGN CHOICE, log 2). It lies outside every range of R88. -/
def serverEntry : Nat := 0x3E800000000

/-- The bytes of server-kernel text a supervisor fetch may read (R268 gives no bounds; DESIGN CHOICE, log 2). -/
def serverTextSize : Nat := 0x100000000

/-- The clusters of the default server mask (R8). -/
def serverClusters : List Nat := [0, 10, 160, 170]

/-- The generation of the K5's firmware images (R373). -/
def generation : Nat := 5

/-- Clusters, cores and matrix tile shape of the module (R1, R5, R6). -/
def clusters : Nat := 320
def coresPerCluster : Nat := 16
def cores : Nat := 5120

/-- Izrin Link ports of the module (R1, R5). -/
def linkPorts : Nat := 36

/-- Modules a domain can hold (R1, R86). -/
def modules : Nat := 2304

end Config

end Sys2Proof
end

