-- ==== Sys2Proof/Syntax.lean ====
section
/-! DEFINITION. The syntax of the K5: one constructor for every row of the opcode table. An instruction's operands are the fields of its word as the table names them (R42 to R44, R249); an event row (a step of the machine that has no word) carries which unit, line or command it concerns. -/

namespace Sys2Proof

/-- One step of the machine: an instruction word's fields, or an event (95_what_each_step_holds.md). -/
inductive Instr where
  | lui (rd : BitVec 5) (imm : BitVec 20)
  | auipc (rd : BitVec 5) (imm : BitVec 20)
  | jal (rd : BitVec 5) (imm : BitVec 20)
  | jalr (rd rs1 : BitVec 5) (imm : BitVec 12)
  | beq (rs1 rs2 : BitVec 5) (immHi : BitVec 7) (immLo : BitVec 5)
  | bne (rs1 rs2 : BitVec 5) (immHi : BitVec 7) (immLo : BitVec 5)
  | blt (rs1 rs2 : BitVec 5) (immHi : BitVec 7) (immLo : BitVec 5)
  | bge (rs1 rs2 : BitVec 5) (immHi : BitVec 7) (immLo : BitVec 5)
  | bltu (rs1 rs2 : BitVec 5) (immHi : BitVec 7) (immLo : BitVec 5)
  | bgeu (rs1 rs2 : BitVec 5) (immHi : BitVec 7) (immLo : BitVec 5)
  | lb (rd rs1 : BitVec 5) (imm : BitVec 12)
  | lh (rd rs1 : BitVec 5) (imm : BitVec 12)
  | lw (rd rs1 : BitVec 5) (imm : BitVec 12)
  | ld (rd rs1 : BitVec 5) (imm : BitVec 12)
  | lbu (rd rs1 : BitVec 5) (imm : BitVec 12)
  | lhu (rd rs1 : BitVec 5) (imm : BitVec 12)
  | lwu (rd rs1 : BitVec 5) (imm : BitVec 12)
  | sb (rs1 rs2 : BitVec 5) (immHi : BitVec 7) (immLo : BitVec 5)
  | sh (rs1 rs2 : BitVec 5) (immHi : BitVec 7) (immLo : BitVec 5)
  | sw (rs1 rs2 : BitVec 5) (immHi : BitVec 7) (immLo : BitVec 5)
  | sd (rs1 rs2 : BitVec 5) (immHi : BitVec 7) (immLo : BitVec 5)
  | addi (rd rs1 : BitVec 5) (imm : BitVec 12)
  | slti (rd rs1 : BitVec 5) (imm : BitVec 12)
  | sltiu (rd rs1 : BitVec 5) (imm : BitVec 12)
  | xori (rd rs1 : BitVec 5) (imm : BitVec 12)
  | ori (rd rs1 : BitVec 5) (imm : BitVec 12)
  | andi (rd rs1 : BitVec 5) (imm : BitVec 12)
  | slli (rd rs1 : BitVec 5) (sh : BitVec 6)
  | srli (rd rs1 : BitVec 5) (sh : BitVec 6)
  | srai (rd rs1 : BitVec 5) (sh : BitVec 6)
  | add (rd rs1 rs2 : BitVec 5)
  | sub (rd rs1 rs2 : BitVec 5)
  | sll (rd rs1 rs2 : BitVec 5)
  | slt (rd rs1 rs2 : BitVec 5)
  | sltu (rd rs1 rs2 : BitVec 5)
  | xor (rd rs1 rs2 : BitVec 5)
  | srl (rd rs1 rs2 : BitVec 5)
  | sra (rd rs1 rs2 : BitVec 5)
  | or (rd rs1 rs2 : BitVec 5)
  | and (rd rs1 rs2 : BitVec 5)
  | addiw (rd rs1 : BitVec 5) (imm : BitVec 12)
  | slliw (rd rs1 sh : BitVec 5)
  | srliw (rd rs1 sh : BitVec 5)
  | sraiw (rd rs1 sh : BitVec 5)
  | addw (rd rs1 rs2 : BitVec 5)
  | subw (rd rs1 rs2 : BitVec 5)
  | sllw (rd rs1 rs2 : BitVec 5)
  | srlw (rd rs1 rs2 : BitVec 5)
  | sraw (rd rs1 rs2 : BitVec 5)
  | mul (rd rs1 rs2 : BitVec 5)
  | mulh (rd rs1 rs2 : BitVec 5)
  | mulhsu (rd rs1 rs2 : BitVec 5)
  | mulhu (rd rs1 rs2 : BitVec 5)
  | div (rd rs1 rs2 : BitVec 5)
  | divu (rd rs1 rs2 : BitVec 5)
  | rem (rd rs1 rs2 : BitVec 5)
  | remu (rd rs1 rs2 : BitVec 5)
  | mulw (rd rs1 rs2 : BitVec 5)
  | divw (rd rs1 rs2 : BitVec 5)
  | divuw (rd rs1 rs2 : BitVec 5)
  | remw (rd rs1 rs2 : BitVec 5)
  | remuw (rd rs1 rs2 : BitVec 5)
  | fence (rd rs1 : BitVec 5) (fm pred succ : BitVec 4)
  | csrrw (rd rs1 : BitVec 5) (csr : BitVec 12)
  | csrrs (rd rs1 : BitVec 5) (csr : BitVec 12)
  | csrrc (rd rs1 : BitVec 5) (csr : BitVec 12)
  | csrrwi (rd : BitVec 5) (csr : BitVec 12) (uimm : BitVec 5)
  | csrrsi (rd : BitVec 5) (csr : BitVec 12) (uimm : BitVec 5)
  | csrrci (rd : BitVec 5) (csr : BitVec 12) (uimm : BitVec 5)
  | ecall
  | ebreak
  | sret
  | wfi
  | vaddI32 (rd rs1 rs2 : BitVec 5) (stall : BitVec 3)
  | vsubI32 (rd rs1 rs2 : BitVec 5) (stall : BitVec 3)
  | vmulI32 (rd rs1 rs2 : BitVec 5) (stall : BitVec 3)
  | vmulhI32 (rd rs1 rs2 : BitVec 5) (stall : BitVec 3)
  | vminI32 (rd rs1 rs2 : BitVec 5) (stall : BitVec 3)
  | vmaxI32 (rd rs1 rs2 : BitVec 5) (stall : BitVec 3)
  | vminuI32 (rd rs1 rs2 : BitVec 5) (stall : BitVec 3)
  | vmaxuI32 (rd rs1 rs2 : BitVec 5) (stall : BitVec 3)
  | vand (rd rs1 rs2 : BitVec 5) (stall : BitVec 3)
  | vor (rd rs1 rs2 : BitVec 5) (stall : BitVec 3)
  | vxor (rd rs1 rs2 : BitVec 5) (stall : BitVec 3)
  | vsllI32 (rd rs1 rs2 : BitVec 5) (stall : BitVec 3)
  | vsrlI32 (rd rs1 rs2 : BitVec 5) (stall : BitVec 3)
  | vsraI32 (rd rs1 rs2 : BitVec 5) (stall : BitVec 3)
  | vaddsI32 (rd rs1 rs2 : BitVec 5) (stall : BitVec 3)
  | vmacI32 (rd rs1 rs2 : BitVec 5) (stall : BitVec 3)
  | vaddI16 (rd rs1 rs2 : BitVec 5) (stall : BitVec 3)
  | vsubI16 (rd rs1 rs2 : BitVec 5) (stall : BitVec 3)
  | vaddsI16 (rd rs1 rs2 : BitVec 5) (stall : BitVec 3)
  | vsubsI16 (rd rs1 rs2 : BitVec 5) (stall : BitVec 3)
  | vaddusI16 (rd rs1 rs2 : BitVec 5) (stall : BitVec 3)
  | vminI16 (rd rs1 rs2 : BitVec 5) (stall : BitVec 3)
  | vmaxI16 (rd rs1 rs2 : BitVec 5) (stall : BitVec 3)
  | vmulI16 (rd rs1 rs2 : BitVec 5) (stall : BitVec 3)
  | vaddI8 (rd rs1 rs2 : BitVec 5) (stall : BitVec 3)
  | vsubI8 (rd rs1 rs2 : BitVec 5) (stall : BitVec 3)
  | vaddsI8 (rd rs1 rs2 : BitVec 5) (stall : BitVec 3)
  | vsubsI8 (rd rs1 rs2 : BitVec 5) (stall : BitVec 3)
  | vaddusI8 (rd rs1 rs2 : BitVec 5) (stall : BitVec 3)
  | vminI8 (rd rs1 rs2 : BitVec 5) (stall : BitVec 3)
  | vmaxI8 (rd rs1 rs2 : BitVec 5) (stall : BitVec 3)
  | vmulI8 (rd rs1 rs2 : BitVec 5) (stall : BitVec 3)
  | vfaddF32 (rd rs1 rs2 : BitVec 5) (stall : BitVec 3)
  | vfsubF32 (rd rs1 rs2 : BitVec 5) (stall : BitVec 3)
  | vfmulF32 (rd rs1 rs2 : BitVec 5) (stall : BitVec 3)
  | vfminF32 (rd rs1 rs2 : BitVec 5) (stall : BitVec 3)
  | vfmaxF32 (rd rs1 rs2 : BitVec 5) (stall : BitVec 3)
  | vfmaF32 (rd rs1 rs2 : BitVec 5) (stall : BitVec 3)
  | vfmsF32 (rd rs1 rs2 : BitVec 5) (stall : BitVec 3)
  | vfabsF32 (rd rs1 : BitVec 5) (stall : BitVec 3)
  | vfnegF32 (rd rs1 : BitVec 5) (stall : BitVec 3)
  | vfaddBf16 (rd rs1 rs2 : BitVec 5) (stall : BitVec 3)
  | vfsubBf16 (rd rs1 rs2 : BitVec 5) (stall : BitVec 3)
  | vfmulBf16 (rd rs1 rs2 : BitVec 5) (stall : BitVec 3)
  | vfminBf16 (rd rs1 rs2 : BitVec 5) (stall : BitVec 3)
  | vfmaxBf16 (rd rs1 rs2 : BitVec 5) (stall : BitVec 3)
  | vfmaBf16 (rd rs1 rs2 : BitVec 5) (stall : BitVec 3)
  | vdotBf16 (rd rs1 rs2 : BitVec 5) (stall : BitVec 3)
  | vfaddF16 (rd rs1 rs2 : BitVec 5) (stall : BitVec 3)
  | vfsubF16 (rd rs1 rs2 : BitVec 5) (stall : BitVec 3)
  | vfmulF16 (rd rs1 rs2 : BitVec 5) (stall : BitVec 3)
  | vfminF16 (rd rs1 rs2 : BitVec 5) (stall : BitVec 3)
  | vfmaxF16 (rd rs1 rs2 : BitVec 5) (stall : BitVec 3)
  | vfmaF16 (rd rs1 rs2 : BitVec 5) (stall : BitVec 3)
  | vdotF16 (rd rs1 rs2 : BitVec 5) (stall : BitVec 3)
  | vcmpeqI32 (rd rs1 rs2 : BitVec 5) (stall : BitVec 3)
  | vcmpltI32 (rd rs1 rs2 : BitVec 5) (stall : BitVec 3)
  | vcmpltuI32 (rd rs1 rs2 : BitVec 5) (stall : BitVec 3)
  | vfcmpeqF32 (rd rs1 rs2 : BitVec 5) (stall : BitVec 3)
  | vfcmpltF32 (rd rs1 rs2 : BitVec 5) (stall : BitVec 3)
  | vfcmpleF32 (rd rs1 rs2 : BitVec 5) (stall : BitVec 3)
  | vfclassF32 (rd rs1 set : BitVec 5) (stall : BitVec 3)
  | mand (rd rs1 rs2 : BitVec 5) (stall : BitVec 3)
  | mor (rd rs1 rs2 : BitVec 5) (stall : BitVec 3)
  | mxor (rd rs1 rs2 : BitVec 5) (stall : BitVec 3)
  | mandn (rd rs1 rs2 : BitVec 5) (stall : BitVec 3)
  | vperm (rd rs1 rs2 : BitVec 5) (stall : BitVec 3)
  | vrot (rd rs1 n : BitVec 5) (stall : BitVec 3)
  | vmerge (rd rs1 rs2 : BitVec 5) (stall : BitVec 3)
  | vbcast (rd rs1 n : BitVec 5) (stall : BitVec 3)
  | vredsumI32 (rd rs1 : BitVec 5) (stall : BitVec 3)
  | vredmaxI32 (rd rs1 : BitVec 5) (stall : BitVec 3)
  | vredminI32 (rd rs1 : BitVec 5) (stall : BitVec 3)
  | vredsumF32 (rd rs1 : BitVec 5) (stall : BitVec 3)
  | vredmaxF32 (rd rs1 : BitVec 5) (stall : BitVec 3)
  | vredminF32 (rd rs1 : BitVec 5) (stall : BitVec 3)
  | vscanI32 (rd rs1 : BitVec 5) (stall : BitVec 3)
  | vscanF32 (rd rs1 : BitVec 5) (stall : BitVec 3)
  | vcvtBf16F32 (rd rs1 : BitVec 5) (part : BitVec 2) (em stall : BitVec 3)
  | vcvtF16F32 (rd rs1 : BitVec 5) (part : BitVec 2) (em stall : BitVec 3)
  | vcvtE4m3F32 (rd rs1 : BitVec 5) (part : BitVec 2) (em stall : BitVec 3)
  | vcvtE5m2F32 (rd rs1 : BitVec 5) (part : BitVec 2) (em stall : BitVec 3)
  | vcvtI8F32 (rd rs1 : BitVec 5) (part : BitVec 2) (em stall : BitVec 3)
  | vcvtI32F32 (rd rs1 : BitVec 5) (part : BitVec 2) (em stall : BitVec 3)
  | vcvtI8I32 (rd rs1 : BitVec 5) (part : BitVec 2) (em stall : BitVec 3)
  | vcvtF32I32 (rd rs1 : BitVec 5) (part : BitVec 2) (em stall : BitVec 3)
  | vcvtF32Bf16 (rd rs1 : BitVec 5) (part : BitVec 2) (em stall : BitVec 3)
  | vcvtF32F16 (rd rs1 : BitVec 5) (part : BitVec 2) (em stall : BitVec 3)
  | vcvtF32E4m3 (rd rs1 : BitVec 5) (part : BitVec 2) (em stall : BitVec 3)
  | vcvtF32E5m2 (rd rs1 : BitVec 5) (part : BitVec 2) (em stall : BitVec 3)
  | vcvtI32I8 (rd rs1 : BitVec 5) (part : BitVec 2) (em stall : BitVec 3)
  | vrep (rs1 len : BitVec 5) (stp : BitVec 2) (smask stall : BitVec 3)
  | vzero (rd : BitVec 5) (stall : BitVec 3)
  | vid (rd : BitVec 5) (stall : BitVec 3)
  | vld (rd rs1 : BitVec 5) (imm : BitVec 8)
  | vldBc (rd rs1 : BitVec 5) (imm : BitVec 8)
  | vst (rd rs1 : BitVec 5) (imm : BitVec 8)
  | vgather (rd rs1 rs2 : BitVec 5) (aux : BitVec 2)
  | vscatter (rd rs1 rs2 : BitVec 5) (aux : BitVec 2)
  | vlsl (rd rs1 : BitVec 5) (imm : BitVec 8)
  | vsls (rd rs1 : BitVec 5) (imm : BitVec 8)
  | vlslx (rd rs1 rs2 : BitVec 5)
  | vslsx (rd rs1 rs2 : BitVec 5)
  | vldMh (rd rs1 : BitVec 5) (imm : BitVec 8)
  | prefL1 (rs1 : BitVec 5) (imm : BitVec 8)
  | prefLlc (rs1 : BitVec 5) (imm : BitVec 8)
  | rsdKeep (rs1 : BitVec 5) (imm : BitVec 8)
  | rsdDrop (rs1 : BitVec 5) (imm : BitVec 8)
  | vext (rd rs1 lane : BitVec 5)
  | vins (rd rs1 lane : BitVec 5)
  | vsplat (rd rs1 : BitVec 5)
  | mtox (rd rs1 : BitVec 5)
  | xtom (rd rs1 : BitVec 5)
  | mpopc (rd rs1 : BitVec 5)
  | wcfg (rs1 win : BitVec 5)
  | wrd (rd win : BitVec 5)
  | mlease (rd : BitVec 5)
  | mleaseTry (rd : BitVec 5)
  | mrel
  | mma (rs1 rs2 : BitVec 5) (ka : BitVec 1) (fmt acc : BitVec 3) (km1 : BitVec 5)
  | maccSt (rs1 rs2 : BitVec 5) (sfmt : BitVec 1) (dfmt acc : BitVec 3)
  | maccClr (acc : BitVec 3)
  | maccLd (rs1 rs2 : BitVec 5) (acc : BitVec 3)
  | rcfg (rd rs1 rs2 : BitVec 5)
  | rrel (rd : BitVec 5)
  | rstat (rd rs1 : BitVec 5)
  | rpeek (rd rs1 rs2 : BitVec 5)
  | rpop (rs1 : BitVec 5)
  | mstat (rd : BitVec 5) (acc : BitVec 3)
  | mstatClr (rd : BitVec 5) (acc : BitVec 3)
  | mprog (rd : BitVec 5) (acc : BitVec 3)
  | mprogClr (acc : BitVec 3)
  | gredF32 (rs1 : BitVec 5) (acc : BitVec 3)
  | gredI32 (rs1 : BitVec 5) (acc : BitVec 3)
  | amoSwapD (rd rs1 rs2 : BitVec 5) (so : BitVec 3)
  | amoAddD (rd rs1 rs2 : BitVec 5) (so : BitVec 3)
  | amoAndD (rd rs1 rs2 : BitVec 5) (so : BitVec 3)
  | amoOrD (rd rs1 rs2 : BitVec 5) (so : BitVec 3)
  | amoMaxD (rd rs1 rs2 : BitVec 5) (so : BitVec 3)
  | amoMaxuD (rd rs1 rs2 : BitVec 5) (so : BitVec 3)
  | amoCasD (rd rs1 rs2 : BitVec 5) (so : BitVec 3)
  | amoAggaddD (rd rs1 rs2 : BitVec 5) (so : BitVec 3)
  | amoSwapW (rd rs1 rs2 : BitVec 5) (so : BitVec 3)
  | amoAddW (rd rs1 rs2 : BitVec 5) (so : BitVec 3)
  | amoAndW (rd rs1 rs2 : BitVec 5) (so : BitVec 3)
  | amoOrW (rd rs1 rs2 : BitVec 5) (so : BitVec 3)
  | amoMaxW (rd rs1 rs2 : BitVec 5) (so : BitVec 3)
  | amoMaxuW (rd rs1 rs2 : BitVec 5) (so : BitVec 3)
  | amoCasW (rd rs1 rs2 : BitVec 5) (so : BitVec 3)
  | amoAggaddW (rd rs1 rs2 : BitVec 5) (so : BitVec 3)
  | fenceR (scope : BitVec 3)
  | fenceA (scope : BitVec 3)
  | fenceS (scope : BitVec 3)
  | fenceOwn
  | fenceFar (rs1 rs2 : BitVec 5)
  | waitaEqW (rd rs1 rs2 : BitVec 5)
  | waitaNeW (rd rs1 rs2 : BitVec 5)
  | waitaEqD (rd rs1 rs2 : BitVec 5)
  | waitaNeD (rd rs1 rs2 : BitVec 5)
  | wfe
  | sev (rs1 : BitVec 5)
  | rbcfg (rs1 num : BitVec 5)
  | msgSend (rs1 rs2 : BitVec 5)
  | msgWait (rd rs1 num : BitVec 5)
  | bcfg (rs1 : BitVec 5) (bar : BitVec 7)
  | barrTeam (rd : BitVec 5) (bar : BitVec 7)
  | barrField (rd : BitVec 5) (bar : BitVec 7)
  | bwait (rs1 : BitVec 5) (bar : BitVec 7)
  | bstat (rd : BitVec 5) (bar : BitVec 7)
  | epush (rs1 eng : BitVec 5)
  | epop (rd rs1 : BitVec 5)
  | spush (rs1 : BitVec 5)
  | spop (rd rs1 : BitVec 5)
  | seal (rd rs1 rs2 : BitVec 5)
  | unseal (rs1 : BitVec 5)
  | sealrd (rd rs1 : BitVec 5)
  | sweep (rd rs1 : BitVec 5)
  | swake (rs1 rs2 : BitVec 5)
  | cld (rd fld : BitVec 5)
  | nld (rd fld : BitVec 5)
  | cst (rs1 fld : BitVec 5)
  | semit (rs1 : BitVec 5)
  | swaitStep
  | swaitNb
  | swaitCnt (rs1 : BitVec 5)
  | swaitKey (rs1 : BitVec 5)
  | sdone
  | ckptStep
  | yieldSlot (rs1 : BitVec 5)
  | rebuild (rd rs1 : BitVec 5)
  | wsw (rs1 : BitVec 5)
  | dsw (rs1 : BitVec 5)
  | follow (rs1 rs2 : BitVec 5)
  | dbgStepdrain (rs1 rs2 : BitVec 5)
  | voteAnd (rd rs1 : BitVec 5)
  | voteOr (rd rs1 : BitVec 5)
  | voteMax (rd rs1 : BitVec 5)
  | voteSum (rd rs1 : BitVec 5)
  | voteAndP (rd rs1 : BitVec 5)
  | voteOrP (rd rs1 : BitVec 5)
  | voteMaxP (rd rs1 : BitVec 5)
  | voteSumP (rd rs1 : BitVec 5)
  | launchLanding (slot : Nat) (seq : BitVec 8)
  | launchParse
  | launchCompletion (jseq : Nat)
  | fieldPlacement (jseq stage : Nat)
  | taskLoad (core : Nat)
  | powerGate (cluster : Nat)
  | clusterWake (cluster : Nat)
  | selfTick
  | rebase
  | slotEdge
  | drainEnd
  | slotOverrun
  | checkpointEnd (ten : Nat) (good : Bool)
  | quiescence (ten : Nat)
  | leaseRevocation (cluster : Nat)
  | watchdogFreeze (core : Nat)
  | directoryMerge (base sz : Nat)
  | atomicopCompletion (core : Nat) (status : CplStatus)
  | atomicopTimeout (core : Nat)
  | patrolPass (llc : Bool)
  | throttle (cycles : Nat)
  | moduleReset
  | homeRequest (core line : Nat)
  | ownershipRequest (core line : Nat)
  | ownerRecall (line : Nat)
  | ownerRecallAnswer (line core inc : Nat)
  | storePerform (core : Nat)
  | evictionWriteBackRequest (core line : Nat)
  | writeBackGrant (core line : Nat)
  | writeBackData (core line inc : Nat)
  | cleanOwnedNotice (core line : Nat)
  | homeWrite (agent : HomeAgent) (key : Nat) (data : List Byte)
  | engineHomeRead (agent : HomeAgent) (key n : Nat)
  | waiterWake (line : Nat)
  | hostRequest (agent : Nat) (line : HostAddr) (half : Nat) (want : HostHold)
  | hostAtomicop (key : HostAddr) (n : Nat) (op : HostAtomic) (operand comparand : Word)
  | pageWalk (core : Nat) (va : Word) (kind : Access)
  | translationInvalidateRange
  | translationInvalidateTenant
  | setGranuleOwner
  | checkpointRestore
  | checkpointTake
  | firmwareUpdate
  | decodeTableInstall
  | decodeTableRemove
  | capsuleInstall
  | capsuleDelete
  | capsuleRebuild
  | firstUseRebuild (core : Nat)
  | rebuildEnd (caps : Nat)
  | slotTableShadowWrite (entry : Nat) (value : BitVec 32)
  | slotControlWrite (value : Word)
  | partitionWrite (ten off n : Nat) (value : Word)
  | pairingWrite (core : Nat) (value : Word)
  | lctlResume (core : Nat)
  | lctlTrapResume (core : Nat)
  | lctlStep (core : Nat)
  | lctlEndTask (core : Nat)
  | lctlFreeze (core : Nat)
  | lensWrite (core off n : Nat) (value : Word)
  | faultQueueHeadWrite (ten : Nat) (value : Word)
  | errorCounterClear (index : Nat)
  | portCommandPush (engine : Nat) (cmd : BitVec 512)
  | portResultPop (engine n : Nat)
  | portResultLatchRead (engine : Nat)
  | registerWrite (off n : Nat) (value : Word)
  | sectorComplete (engine : Nat)
  | sectorFault (engine : Nat)
  | engineByteReport (core : Nat)
  | barrierArrival (core : Nat)
  | messageLanding (src dst : Nat)
  | sweepPassStart (cluster : Nat)
  | groupCommit (cluster : Nat)
  | interrupt (core : Nat)
  | agentDeclaredDead (agent : Nat)
  | linkFlitCrcFail (port : Nat) (replay : Bool)
  | illegalInstruction (word : IWord)
  | singleFault (what : FaultKind)
  | patrolScrubRead (what : ScrubKind)
  | waitaReread (core : Nat)
  | hostRecallAnswer (agent line half : Nat) (answer : HostAnswer)
  | cxlTransactionCompletion (core : Nat) (good : Bool)
  | remoteModuleRequest (ten asid : Nat) (ea : Word) (kind : RemoteKind) (n : Nat) (value : Word)
  | remoteModuleReply (agent : Nat) (data : List Byte) (answer : RemoteAnswer)
  deriving DecidableEq, Repr

end Sys2Proof
end

