-- ==== Sys2Proof/WellFormed.lean ====
section
/-! DEFINITION. Which instructions are well formed: every field that names a register class or has a limit of its entry holds a value in range (R45, R275). None of these checks depends on data. -/

namespace Sys2Proof

/-- A field that names a mask m0 to m7 (R45). -/
def isMask (r : BitVec 5) : Bool := decide (r.toNat < 8)

/-- A field that names a ring q0 to q15, a window, a message counter or a receive buffer (R45, R98, R336, R338), or a lane 0 to 15 (R283, R299). -/
def isSixteen (r : BitVec 5) : Bool := decide (r.toNat < 16)

/-- The engine-queue values of R197: 0 and 4 to 7. -/
def isEngine (r : BitVec 5) : Bool := decide (r.toNat = 0) || (decide (4 ≤ r.toNat) && decide (r.toNat < 8))

/-- Is the instruction well formed? Events always are. -/
def Instr.wf : Instr → Bool
  | .vcmpeqI32 rd _ _ _ | .vcmpltI32 rd _ _ _ | .vcmpltuI32 rd _ _ _ | .vfcmpeqF32 rd _ _ _ | .vfcmpltF32 rd _ _ _
  | .vfcmpleF32 rd _ _ _ | .vfclassF32 rd _ _ _ => isMask rd
  | .mand rd rs1 rs2 _ | .mor rd rs1 rs2 _ | .mxor rd rs1 rs2 _ | .mandn rd rs1 rs2 _ => isMask rd && isMask rs1 && isMask rs2
  | .vrot _ _ n _ | .vbcast _ _ n _ => isSixteen n
  | .vcvtBf16F32 _ _ part _ _ | .vcvtF16F32 _ _ part _ _ | .vcvtF32Bf16 _ _ part _ _ | .vcvtF32F16 _ _ part _ _ => decide (part.toNat < 2)
  | .vcvtI32F32 _ _ part _ _ | .vcvtF32I32 _ _ part _ _ => decide (part.toNat = 0)
  | .vrep _ len _ _ _ => decide (len.toNat < 15)
  | .vext _ _ lane | .vins _ _ lane => isSixteen lane
  | .mtox _ rs1 | .mpopc _ rs1 => isMask rs1
  | .xtom rd _ => isMask rd
  | .wcfg _ win | .wrd _ win => isSixteen win
  | .mma rs1 rs2 _ fmt _ _ => decide (fmt.toNat < 6) && isSixteen rs1 && isSixteen rs2
  | .maccSt _ _ _ dfmt _ => decide (dfmt.toNat < 7)
  | .rcfg rd _ _ | .rrel rd => isSixteen rd
  | .rstat _ rs1 | .rpeek _ rs1 _ | .rpop rs1 => isSixteen rs1
  | .fenceR scope | .fenceA scope | .fenceS scope => decide (scope.toNat < 6)
  | .rbcfg _ num | .msgWait _ _ num => isSixteen num
  | .epush _ eng => isEngine eng
  | .cld _ fld => decide (fld.toNat < 6)
  | .nld _ fld | .cst _ fld => decide (fld.toNat < 3)
  | _ => true

end Sys2Proof
end

