-- ==== Sys2Proof/Decode.lean ====
section
/-! DEFINITION. The decoder and the encoder: words to instructions under the Shexus map and under a decode table (R36 to R54), and back. -/

namespace Sys2Proof

/-- Why a word is not an instruction (R40). -/
inductive DecodeError where
  /-- Bits 1:0 are not 11. -/
  | lowBits
  /-- The major opcode is not one of R39. -/
  | majorOpcode
  /-- The group does not list the op, funct7 or funct3 value. -/
  | operation
  /-- A reserved field is not zero. -/
  | reservedField
  /-- A register-class or limited field holds a value outside its range (R45, R275). -/
  | fieldRange
  /-- The decode table does not map the index (R51). -/
  | unmapped
  /-- Fewer than four bytes. -/
  | tooShort
  deriving DecidableEq, Repr

/-- The pieces of a word that the formats of R42 and R43 are made of. -/
structure Fields where
  a3 : BitVec 3
  b1 : BitVec 1
  c3 : BitVec 3
  rs2 : BitVec 5
  rs1 : BitVec 5
  f3 : BitVec 3
  rd : BitVec 5
  op : BitVec 7
  deriving DecidableEq, Repr

/-- Cut a word into its pieces. -/
def Fields.split (w : IWord) : Fields :=
  ⟨w.extractLsb' 29 3, w.extractLsb' 28 1, w.extractLsb' 25 3, w.extractLsb' 20 5, w.extractLsb' 15 5,
    w.extractLsb' 12 3, w.extractLsb' 7 5, w.extractLsb' 0 7⟩

/-- The word made of the pieces. -/
def Fields.join (f : Fields) : IWord :=
  f.a3 ++ f.b1 ++ f.c3 ++ f.rs2 ++ f.rs1 ++ f.f3 ++ f.rd ++ f.op

/-- An instruction whose reserved fields are zero, else the refusal R40 gives. -/
def need (zero : Prop) [Decidable zero] (i : Instr) : Except DecodeError Instr :=
  if zero then .ok i else .error .reservedField

/-- Major opcode 0000011, funct3 000 (R258). -/
def Group.load0 (f : Fields) : Except DecodeError Instr :=
  .ok (.lb f.rd f.rs1 (f.a3 ++ f.b1 ++ f.c3 ++ f.rs2))

/-- Major opcode 0000011, funct3 001 (R258). -/
def Group.load1 (f : Fields) : Except DecodeError Instr :=
  .ok (.lh f.rd f.rs1 (f.a3 ++ f.b1 ++ f.c3 ++ f.rs2))

/-- Major opcode 0000011, funct3 010 (R258). -/
def Group.load2 (f : Fields) : Except DecodeError Instr :=
  .ok (.lw f.rd f.rs1 (f.a3 ++ f.b1 ++ f.c3 ++ f.rs2))

/-- Major opcode 0000011, funct3 011 (R258). -/
def Group.load3 (f : Fields) : Except DecodeError Instr :=
  .ok (.ld f.rd f.rs1 (f.a3 ++ f.b1 ++ f.c3 ++ f.rs2))

/-- Major opcode 0000011, funct3 100 (R258). -/
def Group.load4 (f : Fields) : Except DecodeError Instr :=
  .ok (.lbu f.rd f.rs1 (f.a3 ++ f.b1 ++ f.c3 ++ f.rs2))

/-- Major opcode 0000011, funct3 101 (R258). -/
def Group.load5 (f : Fields) : Except DecodeError Instr :=
  .ok (.lhu f.rd f.rs1 (f.a3 ++ f.b1 ++ f.c3 ++ f.rs2))

/-- Major opcode 0000011, funct3 110 (R258). -/
def Group.load6 (f : Fields) : Except DecodeError Instr :=
  .ok (.lwu f.rd f.rs1 (f.a3 ++ f.b1 ++ f.c3 ++ f.rs2))

/-- Major opcode 0000011 (R39): the group that funct3 selects. -/
def Major.load (f : Fields) : Except DecodeError Instr :=
  if f.f3 = 0#3 then Group.load0 f
  else if f.f3 = 1#3 then Group.load1 f
  else if f.f3 = 2#3 then Group.load2 f
  else if f.f3 = 3#3 then Group.load3 f
  else if f.f3 = 4#3 then Group.load4 f
  else if f.f3 = 5#3 then Group.load5 f
  else if f.f3 = 6#3 then Group.load6 f
  else .error .operation

/-- Major opcode 0001011, funct3 000 (R278). -/
def Group.custom00 (f : Fields) : Except DecodeError Instr :=
  if f.b1 = 0#1 ∧ f.c3 = 0#3 then .ok (.vaddI32 f.rd f.rs1 f.rs2 f.a3)
  else if f.b1 = 0#1 ∧ f.c3 = 1#3 then .ok (.vsubI32 f.rd f.rs1 f.rs2 f.a3)
  else if f.b1 = 0#1 ∧ f.c3 = 2#3 then .ok (.vmulI32 f.rd f.rs1 f.rs2 f.a3)
  else if f.b1 = 0#1 ∧ f.c3 = 3#3 then .ok (.vmulhI32 f.rd f.rs1 f.rs2 f.a3)
  else if f.b1 = 0#1 ∧ f.c3 = 4#3 then .ok (.vminI32 f.rd f.rs1 f.rs2 f.a3)
  else if f.b1 = 0#1 ∧ f.c3 = 5#3 then .ok (.vmaxI32 f.rd f.rs1 f.rs2 f.a3)
  else if f.b1 = 0#1 ∧ f.c3 = 6#3 then .ok (.vminuI32 f.rd f.rs1 f.rs2 f.a3)
  else if f.b1 = 0#1 ∧ f.c3 = 7#3 then .ok (.vmaxuI32 f.rd f.rs1 f.rs2 f.a3)
  else if f.b1 = 1#1 ∧ f.c3 = 0#3 then .ok (.vand f.rd f.rs1 f.rs2 f.a3)
  else if f.b1 = 1#1 ∧ f.c3 = 1#3 then .ok (.vor f.rd f.rs1 f.rs2 f.a3)
  else if f.b1 = 1#1 ∧ f.c3 = 2#3 then .ok (.vxor f.rd f.rs1 f.rs2 f.a3)
  else if f.b1 = 1#1 ∧ f.c3 = 3#3 then .ok (.vsllI32 f.rd f.rs1 f.rs2 f.a3)
  else if f.b1 = 1#1 ∧ f.c3 = 4#3 then .ok (.vsrlI32 f.rd f.rs1 f.rs2 f.a3)
  else if f.b1 = 1#1 ∧ f.c3 = 5#3 then .ok (.vsraI32 f.rd f.rs1 f.rs2 f.a3)
  else if f.b1 = 1#1 ∧ f.c3 = 6#3 then .ok (.vaddsI32 f.rd f.rs1 f.rs2 f.a3)
  else if f.b1 = 1#1 ∧ f.c3 = 7#3 then .ok (.vmacI32 f.rd f.rs1 f.rs2 f.a3)
  else .error .operation

/-- Major opcode 0001011, funct3 001 (R279). -/
def Group.custom01 (f : Fields) : Except DecodeError Instr :=
  if f.b1 = 0#1 ∧ f.c3 = 0#3 then .ok (.vaddI16 f.rd f.rs1 f.rs2 f.a3)
  else if f.b1 = 0#1 ∧ f.c3 = 1#3 then .ok (.vsubI16 f.rd f.rs1 f.rs2 f.a3)
  else if f.b1 = 0#1 ∧ f.c3 = 2#3 then .ok (.vaddsI16 f.rd f.rs1 f.rs2 f.a3)
  else if f.b1 = 0#1 ∧ f.c3 = 3#3 then .ok (.vsubsI16 f.rd f.rs1 f.rs2 f.a3)
  else if f.b1 = 0#1 ∧ f.c3 = 4#3 then .ok (.vaddusI16 f.rd f.rs1 f.rs2 f.a3)
  else if f.b1 = 0#1 ∧ f.c3 = 5#3 then .ok (.vminI16 f.rd f.rs1 f.rs2 f.a3)
  else if f.b1 = 0#1 ∧ f.c3 = 6#3 then .ok (.vmaxI16 f.rd f.rs1 f.rs2 f.a3)
  else if f.b1 = 0#1 ∧ f.c3 = 7#3 then .ok (.vmulI16 f.rd f.rs1 f.rs2 f.a3)
  else if f.b1 = 1#1 ∧ f.c3 = 0#3 then .ok (.vaddI8 f.rd f.rs1 f.rs2 f.a3)
  else if f.b1 = 1#1 ∧ f.c3 = 1#3 then .ok (.vsubI8 f.rd f.rs1 f.rs2 f.a3)
  else if f.b1 = 1#1 ∧ f.c3 = 2#3 then .ok (.vaddsI8 f.rd f.rs1 f.rs2 f.a3)
  else if f.b1 = 1#1 ∧ f.c3 = 3#3 then .ok (.vsubsI8 f.rd f.rs1 f.rs2 f.a3)
  else if f.b1 = 1#1 ∧ f.c3 = 4#3 then .ok (.vaddusI8 f.rd f.rs1 f.rs2 f.a3)
  else if f.b1 = 1#1 ∧ f.c3 = 5#3 then .ok (.vminI8 f.rd f.rs1 f.rs2 f.a3)
  else if f.b1 = 1#1 ∧ f.c3 = 6#3 then .ok (.vmaxI8 f.rd f.rs1 f.rs2 f.a3)
  else if f.b1 = 1#1 ∧ f.c3 = 7#3 then .ok (.vmulI8 f.rd f.rs1 f.rs2 f.a3)
  else .error .operation

/-- Major opcode 0001011, funct3 010 (R280). -/
def Group.custom02 (f : Fields) : Except DecodeError Instr :=
  if f.b1 = 0#1 ∧ f.c3 = 0#3 then .ok (.vfaddF32 f.rd f.rs1 f.rs2 f.a3)
  else if f.b1 = 0#1 ∧ f.c3 = 1#3 then .ok (.vfsubF32 f.rd f.rs1 f.rs2 f.a3)
  else if f.b1 = 0#1 ∧ f.c3 = 2#3 then .ok (.vfmulF32 f.rd f.rs1 f.rs2 f.a3)
  else if f.b1 = 0#1 ∧ f.c3 = 3#3 then .ok (.vfminF32 f.rd f.rs1 f.rs2 f.a3)
  else if f.b1 = 0#1 ∧ f.c3 = 4#3 then .ok (.vfmaxF32 f.rd f.rs1 f.rs2 f.a3)
  else if f.b1 = 0#1 ∧ f.c3 = 6#3 then .ok (.vfmaF32 f.rd f.rs1 f.rs2 f.a3)
  else if f.b1 = 0#1 ∧ f.c3 = 7#3 then .ok (.vfmsF32 f.rd f.rs1 f.rs2 f.a3)
  else if f.b1 = 1#1 ∧ f.c3 = 0#3 then need (f.rs2 = 0#5) (.vfabsF32 f.rd f.rs1 f.a3)
  else if f.b1 = 1#1 ∧ f.c3 = 1#3 then need (f.rs2 = 0#5) (.vfnegF32 f.rd f.rs1 f.a3)
  else .error .operation

/-- Major opcode 0001011, funct3 011 (R281). -/
def Group.custom03 (f : Fields) : Except DecodeError Instr :=
  if f.b1 = 0#1 ∧ f.c3 = 0#3 then .ok (.vfaddBf16 f.rd f.rs1 f.rs2 f.a3)
  else if f.b1 = 0#1 ∧ f.c3 = 1#3 then .ok (.vfsubBf16 f.rd f.rs1 f.rs2 f.a3)
  else if f.b1 = 0#1 ∧ f.c3 = 2#3 then .ok (.vfmulBf16 f.rd f.rs1 f.rs2 f.a3)
  else if f.b1 = 0#1 ∧ f.c3 = 3#3 then .ok (.vfminBf16 f.rd f.rs1 f.rs2 f.a3)
  else if f.b1 = 0#1 ∧ f.c3 = 4#3 then .ok (.vfmaxBf16 f.rd f.rs1 f.rs2 f.a3)
  else if f.b1 = 0#1 ∧ f.c3 = 5#3 then .ok (.vfmaBf16 f.rd f.rs1 f.rs2 f.a3)
  else if f.b1 = 0#1 ∧ f.c3 = 6#3 then .ok (.vdotBf16 f.rd f.rs1 f.rs2 f.a3)
  else if f.b1 = 1#1 ∧ f.c3 = 0#3 then .ok (.vfaddF16 f.rd f.rs1 f.rs2 f.a3)
  else if f.b1 = 1#1 ∧ f.c3 = 1#3 then .ok (.vfsubF16 f.rd f.rs1 f.rs2 f.a3)
  else if f.b1 = 1#1 ∧ f.c3 = 2#3 then .ok (.vfmulF16 f.rd f.rs1 f.rs2 f.a3)
  else if f.b1 = 1#1 ∧ f.c3 = 3#3 then .ok (.vfminF16 f.rd f.rs1 f.rs2 f.a3)
  else if f.b1 = 1#1 ∧ f.c3 = 4#3 then .ok (.vfmaxF16 f.rd f.rs1 f.rs2 f.a3)
  else if f.b1 = 1#1 ∧ f.c3 = 5#3 then .ok (.vfmaF16 f.rd f.rs1 f.rs2 f.a3)
  else if f.b1 = 1#1 ∧ f.c3 = 6#3 then .ok (.vdotF16 f.rd f.rs1 f.rs2 f.a3)
  else .error .operation

/-- Major opcode 0001011, funct3 100 (R282). -/
def Group.custom04 (f : Fields) : Except DecodeError Instr :=
  if f.b1 = 0#1 ∧ f.c3 = 0#3 then .ok (.vcmpeqI32 f.rd f.rs1 f.rs2 f.a3)
  else if f.b1 = 0#1 ∧ f.c3 = 1#3 then .ok (.vcmpltI32 f.rd f.rs1 f.rs2 f.a3)
  else if f.b1 = 0#1 ∧ f.c3 = 2#3 then .ok (.vcmpltuI32 f.rd f.rs1 f.rs2 f.a3)
  else if f.b1 = 0#1 ∧ f.c3 = 3#3 then .ok (.vfcmpeqF32 f.rd f.rs1 f.rs2 f.a3)
  else if f.b1 = 0#1 ∧ f.c3 = 4#3 then .ok (.vfcmpltF32 f.rd f.rs1 f.rs2 f.a3)
  else if f.b1 = 0#1 ∧ f.c3 = 5#3 then .ok (.vfcmpleF32 f.rd f.rs1 f.rs2 f.a3)
  else if f.b1 = 0#1 ∧ f.c3 = 6#3 then .ok (.vfclassF32 f.rd f.rs1 f.rs2 f.a3)
  else if f.b1 = 1#1 ∧ f.c3 = 0#3 then .ok (.mand f.rd f.rs1 f.rs2 f.a3)
  else if f.b1 = 1#1 ∧ f.c3 = 1#3 then .ok (.mor f.rd f.rs1 f.rs2 f.a3)
  else if f.b1 = 1#1 ∧ f.c3 = 2#3 then .ok (.mxor f.rd f.rs1 f.rs2 f.a3)
  else if f.b1 = 1#1 ∧ f.c3 = 3#3 then .ok (.mandn f.rd f.rs1 f.rs2 f.a3)
  else .error .operation

/-- Major opcode 0001011, funct3 101 (R283, R284, R285). -/
def Group.custom05 (f : Fields) : Except DecodeError Instr :=
  if f.b1 = 0#1 ∧ f.c3 = 0#3 then .ok (.vperm f.rd f.rs1 f.rs2 f.a3)
  else if f.b1 = 0#1 ∧ f.c3 = 1#3 then .ok (.vrot f.rd f.rs1 f.rs2 f.a3)
  else if f.b1 = 0#1 ∧ f.c3 = 2#3 then .ok (.vmerge f.rd f.rs1 f.rs2 f.a3)
  else if f.b1 = 0#1 ∧ f.c3 = 3#3 then .ok (.vbcast f.rd f.rs1 f.rs2 f.a3)
  else if f.b1 = 0#1 ∧ f.c3 = 4#3 then need (f.rs2 = 0#5) (.vredsumI32 f.rd f.rs1 f.a3)
  else if f.b1 = 0#1 ∧ f.c3 = 5#3 then need (f.rs2 = 0#5) (.vredmaxI32 f.rd f.rs1 f.a3)
  else if f.b1 = 0#1 ∧ f.c3 = 6#3 then need (f.rs2 = 0#5) (.vredminI32 f.rd f.rs1 f.a3)
  else if f.b1 = 0#1 ∧ f.c3 = 7#3 then need (f.rs2 = 0#5) (.vredsumF32 f.rd f.rs1 f.a3)
  else if f.b1 = 1#1 ∧ f.c3 = 0#3 then need (f.rs2 = 0#5) (.vredmaxF32 f.rd f.rs1 f.a3)
  else if f.b1 = 1#1 ∧ f.c3 = 1#3 then need (f.rs2 = 0#5) (.vredminF32 f.rd f.rs1 f.a3)
  else if f.b1 = 1#1 ∧ f.c3 = 2#3 then need (f.rs2 = 0#5) (.vscanI32 f.rd f.rs1 f.a3)
  else if f.b1 = 1#1 ∧ f.c3 = 3#3 then need (f.rs2 = 0#5) (.vscanF32 f.rd f.rs1 f.a3)
  else .error .operation

/-- Major opcode 0001011, funct3 110 (R287). -/
def Group.custom06 (f : Fields) : Except DecodeError Instr :=
  if f.b1 = 0#1 ∧ f.c3 = 0#3 then .ok (.vcvtBf16F32 f.rd f.rs1 (f.rs2.extractLsb' 3 2) (f.rs2.extractLsb' 0 3) f.a3)
  else if f.b1 = 0#1 ∧ f.c3 = 1#3 then .ok (.vcvtF16F32 f.rd f.rs1 (f.rs2.extractLsb' 3 2) (f.rs2.extractLsb' 0 3) f.a3)
  else if f.b1 = 0#1 ∧ f.c3 = 2#3 then .ok (.vcvtE4m3F32 f.rd f.rs1 (f.rs2.extractLsb' 3 2) (f.rs2.extractLsb' 0 3) f.a3)
  else if f.b1 = 0#1 ∧ f.c3 = 3#3 then .ok (.vcvtE5m2F32 f.rd f.rs1 (f.rs2.extractLsb' 3 2) (f.rs2.extractLsb' 0 3) f.a3)
  else if f.b1 = 0#1 ∧ f.c3 = 4#3 then .ok (.vcvtI8F32 f.rd f.rs1 (f.rs2.extractLsb' 3 2) (f.rs2.extractLsb' 0 3) f.a3)
  else if f.b1 = 0#1 ∧ f.c3 = 5#3 then .ok (.vcvtI32F32 f.rd f.rs1 (f.rs2.extractLsb' 3 2) (f.rs2.extractLsb' 0 3) f.a3)
  else if f.b1 = 0#1 ∧ f.c3 = 6#3 then .ok (.vcvtI8I32 f.rd f.rs1 (f.rs2.extractLsb' 3 2) (f.rs2.extractLsb' 0 3) f.a3)
  else if f.b1 = 0#1 ∧ f.c3 = 7#3 then .ok (.vcvtF32I32 f.rd f.rs1 (f.rs2.extractLsb' 3 2) (f.rs2.extractLsb' 0 3) f.a3)
  else if f.b1 = 1#1 ∧ f.c3 = 0#3 then .ok (.vcvtF32Bf16 f.rd f.rs1 (f.rs2.extractLsb' 3 2) (f.rs2.extractLsb' 0 3) f.a3)
  else if f.b1 = 1#1 ∧ f.c3 = 1#3 then .ok (.vcvtF32F16 f.rd f.rs1 (f.rs2.extractLsb' 3 2) (f.rs2.extractLsb' 0 3) f.a3)
  else if f.b1 = 1#1 ∧ f.c3 = 2#3 then .ok (.vcvtF32E4m3 f.rd f.rs1 (f.rs2.extractLsb' 3 2) (f.rs2.extractLsb' 0 3) f.a3)
  else if f.b1 = 1#1 ∧ f.c3 = 3#3 then .ok (.vcvtF32E5m2 f.rd f.rs1 (f.rs2.extractLsb' 3 2) (f.rs2.extractLsb' 0 3) f.a3)
  else if f.b1 = 1#1 ∧ f.c3 = 4#3 then .ok (.vcvtI32I8 f.rd f.rs1 (f.rs2.extractLsb' 3 2) (f.rs2.extractLsb' 0 3) f.a3)
  else .error .operation

/-- Major opcode 0001011, funct3 111 (R288, R289). -/
def Group.custom07 (f : Fields) : Except DecodeError Instr :=
  if f.b1 = 0#1 ∧ f.c3 = 0#3 then .ok (.vrep f.rs1 f.rs2 (f.rd.extractLsb' 3 2) (f.rd.extractLsb' 0 3) f.a3)
  else if f.b1 = 0#1 ∧ f.c3 = 1#3 then need (f.rs2 = 0#5 ∧ f.rs1 = 0#5) (.vzero f.rd f.a3)
  else if f.b1 = 0#1 ∧ f.c3 = 2#3 then need (f.rs2 = 0#5 ∧ f.rs1 = 0#5) (.vid f.rd f.a3)
  else .error .operation

/-- Major opcode 0001011 (R39): the group that funct3 selects. -/
def Major.custom0 (f : Fields) : Except DecodeError Instr :=
  if f.f3 = 0#3 then Group.custom00 f
  else if f.f3 = 1#3 then Group.custom01 f
  else if f.f3 = 2#3 then Group.custom02 f
  else if f.f3 = 3#3 then Group.custom03 f
  else if f.f3 = 4#3 then Group.custom04 f
  else if f.f3 = 5#3 then Group.custom05 f
  else if f.f3 = 6#3 then Group.custom06 f
  else if f.f3 = 7#3 then Group.custom07 f
  else .error .operation

/-- Major opcode 0001111, funct3 000 (R262). -/
def Group.miscMem0 (f : Fields) : Except DecodeError Instr :=
  .ok (.fence f.rd f.rs1 (f.a3 ++ f.b1) (f.c3 ++ f.rs2.extractLsb' 4 1) (f.rs2.extractLsb' 0 4))

/-- Major opcode 0001111 (R39): the group that funct3 selects. -/
def Major.miscMem (f : Fields) : Except DecodeError Instr :=
  if f.f3 = 0#3 then Group.miscMem0 f
  else .error .operation

/-- Major opcode 0010011, funct3 000 (R254). -/
def Group.opImm0 (f : Fields) : Except DecodeError Instr :=
  .ok (.addi f.rd f.rs1 (f.a3 ++ f.b1 ++ f.c3 ++ f.rs2))

/-- Major opcode 0010011, funct3 001 (R254). -/
def Group.opImm1 (f : Fields) : Except DecodeError Instr :=
  if f.a3 = 0#3 ∧ f.b1 = 0#1 ∧ f.c3.extractLsb' 1 2 = 0#2 then .ok (.slli f.rd f.rs1 (f.c3.extractLsb' 0 1 ++ f.rs2))
  else .error .operation

/-- Major opcode 0010011, funct3 010 (R254). -/
def Group.opImm2 (f : Fields) : Except DecodeError Instr :=
  .ok (.slti f.rd f.rs1 (f.a3 ++ f.b1 ++ f.c3 ++ f.rs2))

/-- Major opcode 0010011, funct3 011 (R254). -/
def Group.opImm3 (f : Fields) : Except DecodeError Instr :=
  .ok (.sltiu f.rd f.rs1 (f.a3 ++ f.b1 ++ f.c3 ++ f.rs2))

/-- Major opcode 0010011, funct3 100 (R254). -/
def Group.opImm4 (f : Fields) : Except DecodeError Instr :=
  .ok (.xori f.rd f.rs1 (f.a3 ++ f.b1 ++ f.c3 ++ f.rs2))

/-- Major opcode 0010011, funct3 101 (R254). -/
def Group.opImm5 (f : Fields) : Except DecodeError Instr :=
  if f.a3 = 0#3 ∧ f.b1 = 0#1 ∧ f.c3.extractLsb' 1 2 = 0#2 then .ok (.srli f.rd f.rs1 (f.c3.extractLsb' 0 1 ++ f.rs2))
  else if f.a3 = 2#3 ∧ f.b1 = 0#1 ∧ f.c3.extractLsb' 1 2 = 0#2 then .ok (.srai f.rd f.rs1 (f.c3.extractLsb' 0 1 ++ f.rs2))
  else .error .operation

/-- Major opcode 0010011, funct3 110 (R254). -/
def Group.opImm6 (f : Fields) : Except DecodeError Instr :=
  .ok (.ori f.rd f.rs1 (f.a3 ++ f.b1 ++ f.c3 ++ f.rs2))

/-- Major opcode 0010011, funct3 111 (R254). -/
def Group.opImm7 (f : Fields) : Except DecodeError Instr :=
  .ok (.andi f.rd f.rs1 (f.a3 ++ f.b1 ++ f.c3 ++ f.rs2))

/-- Major opcode 0010011 (R39): the group that funct3 selects. -/
def Major.opImm (f : Fields) : Except DecodeError Instr :=
  if f.f3 = 0#3 then Group.opImm0 f
  else if f.f3 = 1#3 then Group.opImm1 f
  else if f.f3 = 2#3 then Group.opImm2 f
  else if f.f3 = 3#3 then Group.opImm3 f
  else if f.f3 = 4#3 then Group.opImm4 f
  else if f.f3 = 5#3 then Group.opImm5 f
  else if f.f3 = 6#3 then Group.opImm6 f
  else if f.f3 = 7#3 then Group.opImm7 f
  else .error .operation

/-- Major opcode 0010111 (R251). -/
def Group.auipc (f : Fields) : Except DecodeError Instr :=
  .ok (.auipc f.rd (f.a3 ++ f.b1 ++ f.c3 ++ f.rs2 ++ f.rs1 ++ f.f3))

/-- Major opcode 0011011, funct3 000 (R255). -/
def Group.opImm320 (f : Fields) : Except DecodeError Instr :=
  .ok (.addiw f.rd f.rs1 (f.a3 ++ f.b1 ++ f.c3 ++ f.rs2))

/-- Major opcode 0011011, funct3 001 (R255). -/
def Group.opImm321 (f : Fields) : Except DecodeError Instr :=
  if f.a3 = 0#3 ∧ f.b1 = 0#1 ∧ f.c3 = 0#3 then .ok (.slliw f.rd f.rs1 f.rs2)
  else .error .operation

/-- Major opcode 0011011, funct3 101 (R255). -/
def Group.opImm325 (f : Fields) : Except DecodeError Instr :=
  if f.a3 = 0#3 ∧ f.b1 = 0#1 ∧ f.c3 = 0#3 then .ok (.srliw f.rd f.rs1 f.rs2)
  else if f.a3 = 2#3 ∧ f.b1 = 0#1 ∧ f.c3 = 0#3 then .ok (.sraiw f.rd f.rs1 f.rs2)
  else .error .operation

/-- Major opcode 0011011 (R39): the group that funct3 selects. -/
def Major.opImm32 (f : Fields) : Except DecodeError Instr :=
  if f.f3 = 0#3 then Group.opImm320 f
  else if f.f3 = 1#3 then Group.opImm321 f
  else if f.f3 = 5#3 then Group.opImm325 f
  else .error .operation

/-- Major opcode 0100011, funct3 000 (R259). -/
def Group.store0 (f : Fields) : Except DecodeError Instr :=
  .ok (.sb f.rs1 f.rs2 (f.a3 ++ f.b1 ++ f.c3) f.rd)

/-- Major opcode 0100011, funct3 001 (R259). -/
def Group.store1 (f : Fields) : Except DecodeError Instr :=
  .ok (.sh f.rs1 f.rs2 (f.a3 ++ f.b1 ++ f.c3) f.rd)

/-- Major opcode 0100011, funct3 010 (R259). -/
def Group.store2 (f : Fields) : Except DecodeError Instr :=
  .ok (.sw f.rs1 f.rs2 (f.a3 ++ f.b1 ++ f.c3) f.rd)

/-- Major opcode 0100011, funct3 011 (R259). -/
def Group.store3 (f : Fields) : Except DecodeError Instr :=
  .ok (.sd f.rs1 f.rs2 (f.a3 ++ f.b1 ++ f.c3) f.rd)

/-- Major opcode 0100011 (R39): the group that funct3 selects. -/
def Major.store (f : Fields) : Except DecodeError Instr :=
  if f.f3 = 0#3 then Group.store0 f
  else if f.f3 = 1#3 then Group.store1 f
  else if f.f3 = 2#3 then Group.store2 f
  else if f.f3 = 3#3 then Group.store3 f
  else .error .operation

/-- Major opcode 0101011, funct3 000 (R294). -/
def Group.custom10 (f : Fields) : Except DecodeError Instr :=
  if f.a3 = 0#3 ∧ f.b1 = 0#1 then .ok (.vld f.rd f.rs1 (f.c3 ++ f.rs2))
  else if f.a3 = 0#3 ∧ f.b1 = 1#1 then .ok (.vldBc f.rd f.rs1 (f.c3 ++ f.rs2))
  else .error .operation

/-- Major opcode 0101011, funct3 001 (R294). -/
def Group.custom11 (f : Fields) : Except DecodeError Instr :=
  if f.a3 = 0#3 ∧ f.b1 = 0#1 then .ok (.vst f.rd f.rs1 (f.c3 ++ f.rs2))
  else .error .operation

/-- Major opcode 0101011, funct3 010 (R296). -/
def Group.custom12 (f : Fields) : Except DecodeError Instr :=
  if f.a3 = 4#3 ∧ f.b1 = 0#1 ∧ f.c3.extractLsb' 2 1 = 0#1 then .ok (.vgather f.rd f.rs1 f.rs2 (f.c3.extractLsb' 0 2))
  else .error .operation

/-- Major opcode 0101011, funct3 011 (R296). -/
def Group.custom13 (f : Fields) : Except DecodeError Instr :=
  if f.a3 = 4#3 ∧ f.b1 = 0#1 ∧ f.c3.extractLsb' 2 1 = 0#1 then .ok (.vscatter f.rd f.rs1 f.rs2 (f.c3.extractLsb' 0 2))
  else .error .operation

/-- Major opcode 0101011, funct3 100 (R297). -/
def Group.custom14 (f : Fields) : Except DecodeError Instr :=
  if f.a3 = 0#3 ∧ f.b1 = 0#1 then .ok (.vlsl f.rd f.rs1 (f.c3 ++ f.rs2))
  else if f.a3 = 0#3 ∧ f.b1 = 1#1 then .ok (.vsls f.rd f.rs1 (f.c3 ++ f.rs2))
  else if f.a3 = 4#3 ∧ f.b1 = 0#1 ∧ f.c3 = 0#3 then .ok (.vlslx f.rd f.rs1 f.rs2)
  else if f.a3 = 4#3 ∧ f.b1 = 1#1 ∧ f.c3 = 0#3 then .ok (.vslsx f.rd f.rs1 f.rs2)
  else .error .operation

/-- Major opcode 0101011, funct3 101 (R298). -/
def Group.custom15 (f : Fields) : Except DecodeError Instr :=
  if f.a3 = 0#3 ∧ f.b1 = 0#1 then .ok (.vldMh f.rd f.rs1 (f.c3 ++ f.rs2))
  else if f.a3 = 0#3 ∧ f.b1 = 1#1 then need (f.rd = 0#5) (.prefL1 f.rs1 (f.c3 ++ f.rs2))
  else if f.a3 = 1#3 ∧ f.b1 = 0#1 then need (f.rd = 0#5) (.prefLlc f.rs1 (f.c3 ++ f.rs2))
  else if f.a3 = 1#3 ∧ f.b1 = 1#1 then need (f.rd = 0#5) (.rsdKeep f.rs1 (f.c3 ++ f.rs2))
  else if f.a3 = 2#3 ∧ f.b1 = 0#1 then need (f.rd = 0#5) (.rsdDrop f.rs1 (f.c3 ++ f.rs2))
  else .error .operation

/-- Major opcode 0101011, funct3 110 (R299). -/
def Group.custom16 (f : Fields) : Except DecodeError Instr :=
  if f.a3 = 4#3 ∧ f.b1 = 0#1 ∧ f.c3 = 0#3 then .ok (.vext f.rd f.rs1 f.rs2)
  else if f.a3 = 4#3 ∧ f.b1 = 1#1 ∧ f.c3 = 0#3 then .ok (.vins f.rd f.rs1 f.rs2)
  else if f.a3 = 5#3 ∧ f.b1 = 0#1 ∧ f.c3 = 0#3 then need (f.rs2 = 0#5) (.vsplat f.rd f.rs1)
  else if f.a3 = 5#3 ∧ f.b1 = 1#1 ∧ f.c3 = 0#3 then need (f.rs2 = 0#5) (.mtox f.rd f.rs1)
  else if f.a3 = 6#3 ∧ f.b1 = 0#1 ∧ f.c3 = 0#3 then need (f.rs2 = 0#5) (.xtom f.rd f.rs1)
  else if f.a3 = 6#3 ∧ f.b1 = 1#1 ∧ f.c3 = 0#3 then need (f.rs2 = 0#5) (.mpopc f.rd f.rs1)
  else .error .operation

/-- Major opcode 0101011, funct3 111 (R98). -/
def Group.custom17 (f : Fields) : Except DecodeError Instr :=
  if f.a3 = 4#3 ∧ f.b1 = 0#1 ∧ f.c3 = 0#3 then need (f.rs2 = 0#5) (.wcfg f.rs1 f.rd)
  else if f.a3 = 4#3 ∧ f.b1 = 1#1 ∧ f.c3 = 0#3 then need (f.rs2 = 0#5) (.wrd f.rd f.rs1)
  else .error .operation

/-- Major opcode 0101011 (R39): the group that funct3 selects. -/
def Major.custom1 (f : Fields) : Except DecodeError Instr :=
  if f.f3 = 0#3 then Group.custom10 f
  else if f.f3 = 1#3 then Group.custom11 f
  else if f.f3 = 2#3 then Group.custom12 f
  else if f.f3 = 3#3 then Group.custom13 f
  else if f.f3 = 4#3 then Group.custom14 f
  else if f.f3 = 5#3 then Group.custom15 f
  else if f.f3 = 6#3 then Group.custom16 f
  else if f.f3 = 7#3 then Group.custom17 f
  else .error .operation

/-- Major opcode 0110011, funct3 000 (R254, R256). -/
def Group.op0 (f : Fields) : Except DecodeError Instr :=
  if f.a3 = 0#3 ∧ f.b1 = 0#1 ∧ f.c3 = 0#3 then .ok (.add f.rd f.rs1 f.rs2)
  else if f.a3 = 2#3 ∧ f.b1 = 0#1 ∧ f.c3 = 0#3 then .ok (.sub f.rd f.rs1 f.rs2)
  else if f.a3 = 0#3 ∧ f.b1 = 0#1 ∧ f.c3 = 1#3 then .ok (.mul f.rd f.rs1 f.rs2)
  else .error .operation

/-- Major opcode 0110011, funct3 001 (R254, R256). -/
def Group.op1 (f : Fields) : Except DecodeError Instr :=
  if f.a3 = 0#3 ∧ f.b1 = 0#1 ∧ f.c3 = 0#3 then .ok (.sll f.rd f.rs1 f.rs2)
  else if f.a3 = 0#3 ∧ f.b1 = 0#1 ∧ f.c3 = 1#3 then .ok (.mulh f.rd f.rs1 f.rs2)
  else .error .operation

/-- Major opcode 0110011, funct3 010 (R254, R256). -/
def Group.op2 (f : Fields) : Except DecodeError Instr :=
  if f.a3 = 0#3 ∧ f.b1 = 0#1 ∧ f.c3 = 0#3 then .ok (.slt f.rd f.rs1 f.rs2)
  else if f.a3 = 0#3 ∧ f.b1 = 0#1 ∧ f.c3 = 1#3 then .ok (.mulhsu f.rd f.rs1 f.rs2)
  else .error .operation

/-- Major opcode 0110011, funct3 011 (R254, R256). -/
def Group.op3 (f : Fields) : Except DecodeError Instr :=
  if f.a3 = 0#3 ∧ f.b1 = 0#1 ∧ f.c3 = 0#3 then .ok (.sltu f.rd f.rs1 f.rs2)
  else if f.a3 = 0#3 ∧ f.b1 = 0#1 ∧ f.c3 = 1#3 then .ok (.mulhu f.rd f.rs1 f.rs2)
  else .error .operation

/-- Major opcode 0110011, funct3 100 (R254, R256). -/
def Group.op4 (f : Fields) : Except DecodeError Instr :=
  if f.a3 = 0#3 ∧ f.b1 = 0#1 ∧ f.c3 = 0#3 then .ok (.xor f.rd f.rs1 f.rs2)
  else if f.a3 = 0#3 ∧ f.b1 = 0#1 ∧ f.c3 = 1#3 then .ok (.div f.rd f.rs1 f.rs2)
  else .error .operation

/-- Major opcode 0110011, funct3 101 (R254, R256). -/
def Group.op5 (f : Fields) : Except DecodeError Instr :=
  if f.a3 = 0#3 ∧ f.b1 = 0#1 ∧ f.c3 = 0#3 then .ok (.srl f.rd f.rs1 f.rs2)
  else if f.a3 = 2#3 ∧ f.b1 = 0#1 ∧ f.c3 = 0#3 then .ok (.sra f.rd f.rs1 f.rs2)
  else if f.a3 = 0#3 ∧ f.b1 = 0#1 ∧ f.c3 = 1#3 then .ok (.divu f.rd f.rs1 f.rs2)
  else .error .operation

/-- Major opcode 0110011, funct3 110 (R254, R256). -/
def Group.op6 (f : Fields) : Except DecodeError Instr :=
  if f.a3 = 0#3 ∧ f.b1 = 0#1 ∧ f.c3 = 0#3 then .ok (.or f.rd f.rs1 f.rs2)
  else if f.a3 = 0#3 ∧ f.b1 = 0#1 ∧ f.c3 = 1#3 then .ok (.rem f.rd f.rs1 f.rs2)
  else .error .operation

/-- Major opcode 0110011, funct3 111 (R254, R256). -/
def Group.op7 (f : Fields) : Except DecodeError Instr :=
  if f.a3 = 0#3 ∧ f.b1 = 0#1 ∧ f.c3 = 0#3 then .ok (.and f.rd f.rs1 f.rs2)
  else if f.a3 = 0#3 ∧ f.b1 = 0#1 ∧ f.c3 = 1#3 then .ok (.remu f.rd f.rs1 f.rs2)
  else .error .operation

/-- Major opcode 0110011 (R39): the group that funct3 selects. -/
def Major.op (f : Fields) : Except DecodeError Instr :=
  if f.f3 = 0#3 then Group.op0 f
  else if f.f3 = 1#3 then Group.op1 f
  else if f.f3 = 2#3 then Group.op2 f
  else if f.f3 = 3#3 then Group.op3 f
  else if f.f3 = 4#3 then Group.op4 f
  else if f.f3 = 5#3 then Group.op5 f
  else if f.f3 = 6#3 then Group.op6 f
  else if f.f3 = 7#3 then Group.op7 f
  else .error .operation

/-- Major opcode 0110111 (R251). -/
def Group.lui (f : Fields) : Except DecodeError Instr :=
  .ok (.lui f.rd (f.a3 ++ f.b1 ++ f.c3 ++ f.rs2 ++ f.rs1 ++ f.f3))

/-- Major opcode 0111011, funct3 000 (R255, R256). -/
def Group.op320 (f : Fields) : Except DecodeError Instr :=
  if f.a3 = 0#3 ∧ f.b1 = 0#1 ∧ f.c3 = 0#3 then .ok (.addw f.rd f.rs1 f.rs2)
  else if f.a3 = 2#3 ∧ f.b1 = 0#1 ∧ f.c3 = 0#3 then .ok (.subw f.rd f.rs1 f.rs2)
  else if f.a3 = 0#3 ∧ f.b1 = 0#1 ∧ f.c3 = 1#3 then .ok (.mulw f.rd f.rs1 f.rs2)
  else .error .operation

/-- Major opcode 0111011, funct3 001 (R255). -/
def Group.op321 (f : Fields) : Except DecodeError Instr :=
  if f.a3 = 0#3 ∧ f.b1 = 0#1 ∧ f.c3 = 0#3 then .ok (.sllw f.rd f.rs1 f.rs2)
  else .error .operation

/-- Major opcode 0111011, funct3 100 (R256). -/
def Group.op324 (f : Fields) : Except DecodeError Instr :=
  if f.a3 = 0#3 ∧ f.b1 = 0#1 ∧ f.c3 = 1#3 then .ok (.divw f.rd f.rs1 f.rs2)
  else .error .operation

/-- Major opcode 0111011, funct3 101 (R255, R256). -/
def Group.op325 (f : Fields) : Except DecodeError Instr :=
  if f.a3 = 0#3 ∧ f.b1 = 0#1 ∧ f.c3 = 0#3 then .ok (.srlw f.rd f.rs1 f.rs2)
  else if f.a3 = 2#3 ∧ f.b1 = 0#1 ∧ f.c3 = 0#3 then .ok (.sraw f.rd f.rs1 f.rs2)
  else if f.a3 = 0#3 ∧ f.b1 = 0#1 ∧ f.c3 = 1#3 then .ok (.divuw f.rd f.rs1 f.rs2)
  else .error .operation

/-- Major opcode 0111011, funct3 110 (R256). -/
def Group.op326 (f : Fields) : Except DecodeError Instr :=
  if f.a3 = 0#3 ∧ f.b1 = 0#1 ∧ f.c3 = 1#3 then .ok (.remw f.rd f.rs1 f.rs2)
  else .error .operation

/-- Major opcode 0111011, funct3 111 (R256). -/
def Group.op327 (f : Fields) : Except DecodeError Instr :=
  if f.a3 = 0#3 ∧ f.b1 = 0#1 ∧ f.c3 = 1#3 then .ok (.remuw f.rd f.rs1 f.rs2)
  else .error .operation

/-- Major opcode 0111011 (R39): the group that funct3 selects. -/
def Major.op32 (f : Fields) : Except DecodeError Instr :=
  if f.f3 = 0#3 then Group.op320 f
  else if f.f3 = 1#3 then Group.op321 f
  else if f.f3 = 4#3 then Group.op324 f
  else if f.f3 = 5#3 then Group.op325 f
  else if f.f3 = 6#3 then Group.op326 f
  else if f.f3 = 7#3 then Group.op327 f
  else .error .operation

/-- Major opcode 1011011, funct3 000 (R306, R307). -/
def Group.custom20 (f : Fields) : Except DecodeError Instr :=
  if f.a3 = 0#3 ∧ f.b1 = 0#1 ∧ f.c3 = 0#3 then need (f.rs2 = 0#5 ∧ f.rs1 = 0#5) (.mlease f.rd)
  else if f.a3 = 0#3 ∧ f.b1 = 1#1 ∧ f.c3 = 0#3 then need (f.rs2 = 0#5 ∧ f.rs1 = 0#5) (.mleaseTry f.rd)
  else if f.a3 = 1#3 ∧ f.b1 = 0#1 ∧ f.c3 = 0#3 then need (f.rs2 = 0#5 ∧ f.rs1 = 0#5 ∧ f.rd = 0#5) .mrel
  else .error .operation

/-- Major opcode 1011011, funct3 001 (R315). -/
def Group.custom21 (f : Fields) : Except DecodeError Instr :=
  .ok (.mma f.rs1 f.rs2 (f.a3.extractLsb' 2 1) (f.a3.extractLsb' 0 2 ++ f.b1) f.c3 f.rd)

/-- Major opcode 1011011, funct3 010 (R317, R318, R319). -/
def Group.custom22 (f : Fields) : Except DecodeError Instr :=
  if f.a3 = 3#3 ∧ f.b1 = 1#1 then need (f.rs2 = 0#5 ∧ f.rs1 = 0#5 ∧ f.rd = 0#5) (.maccClr f.c3)
  else if f.a3 = 7#3 ∧ f.b1 = 1#1 then need (f.rd = 0#5) (.maccLd f.rs1 f.rs2 f.c3)
  else need (f.rd = 0#5) (.maccSt f.rs1 f.rs2 (f.a3.extractLsb' 2 1) (f.a3.extractLsb' 0 2 ++ f.b1) f.c3)

/-- Major opcode 1011011, funct3 011 (R312, R313). -/
def Group.custom23 (f : Fields) : Except DecodeError Instr :=
  if f.a3 = 0#3 ∧ f.b1 = 0#1 ∧ f.c3 = 0#3 then .ok (.rcfg f.rd f.rs1 f.rs2)
  else if f.a3 = 0#3 ∧ f.b1 = 1#1 ∧ f.c3 = 0#3 then need (f.rs2 = 0#5 ∧ f.rs1 = 0#5) (.rrel f.rd)
  else if f.a3 = 1#3 ∧ f.b1 = 0#1 ∧ f.c3 = 0#3 then need (f.rs2 = 0#5) (.rstat f.rd f.rs1)
  else if f.a3 = 1#3 ∧ f.b1 = 1#1 ∧ f.c3 = 0#3 then .ok (.rpeek f.rd f.rs1 f.rs2)
  else if f.a3 = 2#3 ∧ f.b1 = 0#1 ∧ f.c3 = 0#3 then need (f.rs2 = 0#5 ∧ f.rd = 0#5) (.rpop f.rs1)
  else .error .operation

/-- Major opcode 1011011, funct3 100 (R320). -/
def Group.custom24 (f : Fields) : Except DecodeError Instr :=
  if f.a3 = 0#3 ∧ f.b1 = 0#1 then need (f.rs2 = 0#5 ∧ f.rs1 = 0#5) (.mstat f.rd f.c3)
  else if f.a3 = 0#3 ∧ f.b1 = 1#1 then need (f.rs2 = 0#5 ∧ f.rs1 = 0#5) (.mstatClr f.rd f.c3)
  else if f.a3 = 1#3 ∧ f.b1 = 0#1 then need (f.rs2 = 0#5 ∧ f.rs1 = 0#5) (.mprog f.rd f.c3)
  else if f.a3 = 1#3 ∧ f.b1 = 1#1 then need (f.rs2 = 0#5 ∧ f.rs1 = 0#5 ∧ f.rd = 0#5) (.mprogClr f.c3)
  else .error .operation

/-- Major opcode 1011011, funct3 101 (R323). -/
def Group.custom25 (f : Fields) : Except DecodeError Instr :=
  if f.a3 = 0#3 ∧ f.b1 = 0#1 then need (f.rs2 = 0#5 ∧ f.rd = 0#5) (.gredF32 f.rs1 f.c3)
  else if f.a3 = 0#3 ∧ f.b1 = 1#1 then need (f.rs2 = 0#5 ∧ f.rd = 0#5) (.gredI32 f.rs1 f.c3)
  else .error .operation

/-- Major opcode 1011011 (R39): the group that funct3 selects. -/
def Major.custom2 (f : Fields) : Except DecodeError Instr :=
  if f.f3 = 0#3 then Group.custom20 f
  else if f.f3 = 1#3 then Group.custom21 f
  else if f.f3 = 2#3 then Group.custom22 f
  else if f.f3 = 3#3 then Group.custom23 f
  else if f.f3 = 4#3 then Group.custom24 f
  else if f.f3 = 5#3 then Group.custom25 f
  else .error .operation

/-- Major opcode 1100011, funct3 000 (R253). -/
def Group.branch0 (f : Fields) : Except DecodeError Instr :=
  .ok (.beq f.rs1 f.rs2 (f.a3 ++ f.b1 ++ f.c3) f.rd)

/-- Major opcode 1100011, funct3 001 (R253). -/
def Group.branch1 (f : Fields) : Except DecodeError Instr :=
  .ok (.bne f.rs1 f.rs2 (f.a3 ++ f.b1 ++ f.c3) f.rd)

/-- Major opcode 1100011, funct3 100 (R253). -/
def Group.branch4 (f : Fields) : Except DecodeError Instr :=
  .ok (.blt f.rs1 f.rs2 (f.a3 ++ f.b1 ++ f.c3) f.rd)

/-- Major opcode 1100011, funct3 101 (R253). -/
def Group.branch5 (f : Fields) : Except DecodeError Instr :=
  .ok (.bge f.rs1 f.rs2 (f.a3 ++ f.b1 ++ f.c3) f.rd)

/-- Major opcode 1100011, funct3 110 (R253). -/
def Group.branch6 (f : Fields) : Except DecodeError Instr :=
  .ok (.bltu f.rs1 f.rs2 (f.a3 ++ f.b1 ++ f.c3) f.rd)

/-- Major opcode 1100011, funct3 111 (R253). -/
def Group.branch7 (f : Fields) : Except DecodeError Instr :=
  .ok (.bgeu f.rs1 f.rs2 (f.a3 ++ f.b1 ++ f.c3) f.rd)

/-- Major opcode 1100011 (R39): the group that funct3 selects. -/
def Major.branch (f : Fields) : Except DecodeError Instr :=
  if f.f3 = 0#3 then Group.branch0 f
  else if f.f3 = 1#3 then Group.branch1 f
  else if f.f3 = 4#3 then Group.branch4 f
  else if f.f3 = 5#3 then Group.branch5 f
  else if f.f3 = 6#3 then Group.branch6 f
  else if f.f3 = 7#3 then Group.branch7 f
  else .error .operation

/-- Major opcode 1100111, funct3 000 (R252). -/
def Group.jalr0 (f : Fields) : Except DecodeError Instr :=
  .ok (.jalr f.rd f.rs1 (f.a3 ++ f.b1 ++ f.c3 ++ f.rs2))

/-- Major opcode 1100111 (R39): the group that funct3 selects. -/
def Major.jalr (f : Fields) : Except DecodeError Instr :=
  if f.f3 = 0#3 then Group.jalr0 f
  else .error .operation

/-- Major opcode 1101111 (R252). -/
def Group.jal (f : Fields) : Except DecodeError Instr :=
  .ok (.jal f.rd (f.a3 ++ f.b1 ++ f.c3 ++ f.rs2 ++ f.rs1 ++ f.f3))

/-- Major opcode 1110011, funct3 000 (R265, R266, R267). -/
def Group.system0 (f : Fields) : Except DecodeError Instr :=
  if f.a3 = 0#3 ∧ f.b1 = 0#1 ∧ f.c3 = 0#3 ∧ f.rs2 = 0#5 ∧ f.rs1 = 0#5 ∧ f.rd = 0#5 then .ok .ecall
  else if f.a3 = 0#3 ∧ f.b1 = 0#1 ∧ f.c3 = 0#3 ∧ f.rs2 = 1#5 ∧ f.rs1 = 0#5 ∧ f.rd = 0#5 then .ok .ebreak
  else if f.a3 = 0#3 ∧ f.b1 = 1#1 ∧ f.c3 = 0#3 ∧ f.rs2 = 2#5 ∧ f.rs1 = 0#5 ∧ f.rd = 0#5 then .ok .sret
  else if f.a3 = 0#3 ∧ f.b1 = 1#1 ∧ f.c3 = 0#3 ∧ f.rs2 = 5#5 ∧ f.rs1 = 0#5 ∧ f.rd = 0#5 then .ok .wfi
  else .error .operation

/-- Major opcode 1110011, funct3 001 (R263). -/
def Group.system1 (f : Fields) : Except DecodeError Instr :=
  .ok (.csrrw f.rd f.rs1 (f.a3 ++ f.b1 ++ f.c3 ++ f.rs2))

/-- Major opcode 1110011, funct3 010 (R263). -/
def Group.system2 (f : Fields) : Except DecodeError Instr :=
  .ok (.csrrs f.rd f.rs1 (f.a3 ++ f.b1 ++ f.c3 ++ f.rs2))

/-- Major opcode 1110011, funct3 011 (R263). -/
def Group.system3 (f : Fields) : Except DecodeError Instr :=
  .ok (.csrrc f.rd f.rs1 (f.a3 ++ f.b1 ++ f.c3 ++ f.rs2))

/-- Major opcode 1110011, funct3 101 (R263). -/
def Group.system5 (f : Fields) : Except DecodeError Instr :=
  .ok (.csrrwi f.rd (f.a3 ++ f.b1 ++ f.c3 ++ f.rs2) f.rs1)

/-- Major opcode 1110011, funct3 110 (R263). -/
def Group.system6 (f : Fields) : Except DecodeError Instr :=
  .ok (.csrrsi f.rd (f.a3 ++ f.b1 ++ f.c3 ++ f.rs2) f.rs1)

/-- Major opcode 1110011, funct3 111 (R263). -/
def Group.system7 (f : Fields) : Except DecodeError Instr :=
  .ok (.csrrci f.rd (f.a3 ++ f.b1 ++ f.c3 ++ f.rs2) f.rs1)

/-- Major opcode 1110011 (R39): the group that funct3 selects. -/
def Major.system (f : Fields) : Except DecodeError Instr :=
  if f.f3 = 0#3 then Group.system0 f
  else if f.f3 = 1#3 then Group.system1 f
  else if f.f3 = 2#3 then Group.system2 f
  else if f.f3 = 3#3 then Group.system3 f
  else if f.f3 = 5#3 then Group.system5 f
  else if f.f3 = 6#3 then Group.system6 f
  else if f.f3 = 7#3 then Group.system7 f
  else .error .operation

/-- Major opcode 1111011, funct3 000 (R328, R330). -/
def Group.custom30 (f : Fields) : Except DecodeError Instr :=
  if f.a3 = 0#3 ∧ f.b1 = 0#1 then .ok (.amoSwapD f.rd f.rs1 f.rs2 f.c3)
  else if f.a3 = 0#3 ∧ f.b1 = 1#1 then .ok (.amoAddD f.rd f.rs1 f.rs2 f.c3)
  else if f.a3 = 1#3 ∧ f.b1 = 0#1 then .ok (.amoAndD f.rd f.rs1 f.rs2 f.c3)
  else if f.a3 = 1#3 ∧ f.b1 = 1#1 then .ok (.amoOrD f.rd f.rs1 f.rs2 f.c3)
  else if f.a3 = 2#3 ∧ f.b1 = 0#1 then .ok (.amoMaxD f.rd f.rs1 f.rs2 f.c3)
  else if f.a3 = 2#3 ∧ f.b1 = 1#1 then .ok (.amoMaxuD f.rd f.rs1 f.rs2 f.c3)
  else if f.a3 = 3#3 ∧ f.b1 = 0#1 then .ok (.amoCasD f.rd f.rs1 f.rs2 f.c3)
  else if f.a3 = 3#3 ∧ f.b1 = 1#1 then .ok (.amoAggaddD f.rd f.rs1 f.rs2 f.c3)
  else if f.a3 = 4#3 ∧ f.b1 = 0#1 then .ok (.amoSwapW f.rd f.rs1 f.rs2 f.c3)
  else if f.a3 = 4#3 ∧ f.b1 = 1#1 then .ok (.amoAddW f.rd f.rs1 f.rs2 f.c3)
  else if f.a3 = 5#3 ∧ f.b1 = 0#1 then .ok (.amoAndW f.rd f.rs1 f.rs2 f.c3)
  else if f.a3 = 5#3 ∧ f.b1 = 1#1 then .ok (.amoOrW f.rd f.rs1 f.rs2 f.c3)
  else if f.a3 = 6#3 ∧ f.b1 = 0#1 then .ok (.amoMaxW f.rd f.rs1 f.rs2 f.c3)
  else if f.a3 = 6#3 ∧ f.b1 = 1#1 then .ok (.amoMaxuW f.rd f.rs1 f.rs2 f.c3)
  else if f.a3 = 7#3 ∧ f.b1 = 0#1 then .ok (.amoCasW f.rd f.rs1 f.rs2 f.c3)
  else if f.a3 = 7#3 ∧ f.b1 = 1#1 then .ok (.amoAggaddW f.rd f.rs1 f.rs2 f.c3)
  else .error .operation

/-- Major opcode 1111011, funct3 001 (R180, R331, R332). -/
def Group.custom31 (f : Fields) : Except DecodeError Instr :=
  if f.a3 = 0#3 ∧ f.b1 = 1#1 then need (f.rs2 = 0#5 ∧ f.rs1 = 0#5 ∧ f.rd = 0#5) (.fenceR f.c3)
  else if f.a3 = 1#3 ∧ f.b1 = 0#1 then need (f.rs2 = 0#5 ∧ f.rs1 = 0#5 ∧ f.rd = 0#5) (.fenceA f.c3)
  else if f.a3 = 1#3 ∧ f.b1 = 1#1 then need (f.rs2 = 0#5 ∧ f.rs1 = 0#5 ∧ f.rd = 0#5) (.fenceS f.c3)
  else if f.a3 = 2#3 ∧ f.b1 = 0#1 ∧ f.c3 = 0#3 then need (f.rs2 = 0#5 ∧ f.rs1 = 0#5 ∧ f.rd = 0#5) .fenceOwn
  else if f.a3 = 2#3 ∧ f.b1 = 0#1 ∧ f.c3 = 1#3 then need (f.rd = 0#5) (.fenceFar f.rs1 f.rs2)
  else .error .operation

/-- Major opcode 1111011, funct3 010 (R333, R334, R335). -/
def Group.custom32 (f : Fields) : Except DecodeError Instr :=
  if f.a3 = 0#3 ∧ f.b1 = 0#1 ∧ f.c3 = 0#3 then .ok (.waitaEqW f.rd f.rs1 f.rs2)
  else if f.a3 = 0#3 ∧ f.b1 = 0#1 ∧ f.c3 = 1#3 then .ok (.waitaNeW f.rd f.rs1 f.rs2)
  else if f.a3 = 0#3 ∧ f.b1 = 0#1 ∧ f.c3 = 2#3 then .ok (.waitaEqD f.rd f.rs1 f.rs2)
  else if f.a3 = 0#3 ∧ f.b1 = 0#1 ∧ f.c3 = 3#3 then .ok (.waitaNeD f.rd f.rs1 f.rs2)
  else if f.a3 = 0#3 ∧ f.b1 = 1#1 ∧ f.c3 = 0#3 then need (f.rs2 = 0#5 ∧ f.rs1 = 0#5 ∧ f.rd = 0#5) .wfe
  else if f.a3 = 0#3 ∧ f.b1 = 1#1 ∧ f.c3 = 1#3 then need (f.rs2 = 0#5 ∧ f.rd = 0#5) (.sev f.rs1)
  else .error .operation

/-- Major opcode 1111011, funct3 011 (R336, R337, R338). -/
def Group.custom33 (f : Fields) : Except DecodeError Instr :=
  if f.a3 = 0#3 ∧ f.b1 = 0#1 ∧ f.c3 = 0#3 then need (f.rs2 = 0#5) (.rbcfg f.rs1 f.rd)
  else if f.a3 = 0#3 ∧ f.b1 = 0#1 ∧ f.c3 = 1#3 then need (f.rd = 0#5) (.msgSend f.rs1 f.rs2)
  else if f.a3 = 0#3 ∧ f.b1 = 0#1 ∧ f.c3 = 2#3 then .ok (.msgWait f.rd f.rs1 f.rs2)
  else .error .operation

/-- Major opcode 1111011, funct3 100 (R339). -/
def Group.custom34 (f : Fields) : Except DecodeError Instr :=
  if f.rs2 = 0#5 then need (f.rd = 0#5) (.bcfg f.rs1 (f.a3 ++ f.b1 ++ f.c3))
  else if f.rs2 = 1#5 then need (f.rs1 = 0#5) (.barrTeam f.rd (f.a3 ++ f.b1 ++ f.c3))
  else if f.rs2 = 2#5 then need (f.rs1 = 0#5) (.barrField f.rd (f.a3 ++ f.b1 ++ f.c3))
  else if f.rs2 = 3#5 then need (f.rd = 0#5) (.bwait f.rs1 (f.a3 ++ f.b1 ++ f.c3))
  else if f.rs2 = 4#5 then need (f.rs1 = 0#5) (.bstat f.rd (f.a3 ++ f.b1 ++ f.c3))
  else .error .operation

/-- Major opcode 1111011, funct3 101 (R341, R342, R343, R344). -/
noncomputable def Group.custom35 (f : Fields) : Except DecodeError Instr :=
  if f.a3 = 0#3 ∧ f.b1 = 0#1 ∧ f.c3 = 0#3 then need (f.rs2 = 0#5) (.epush f.rs1 f.rd)
  else if f.a3 = 0#3 ∧ f.b1 = 0#1 ∧ f.c3 = 1#3 then need (f.rs2 = 0#5) (.epop f.rd f.rs1)
  else if f.a3 = 0#3 ∧ f.b1 = 0#1 ∧ f.c3 = 2#3 then need (f.rs2 = 0#5 ∧ f.rd = 0#5) (.spush f.rs1)
  else if f.a3 = 0#3 ∧ f.b1 = 0#1 ∧ f.c3 = 3#3 then need (f.rs2 = 0#5) (.spop f.rd f.rs1)
  else if f.a3 = 0#3 ∧ f.b1 = 0#1 ∧ f.c3 = 4#3 then .ok (.seal f.rd f.rs1 f.rs2)
  else if f.a3 = 0#3 ∧ f.b1 = 0#1 ∧ f.c3 = 5#3 then need (f.rs2 = 0#5 ∧ f.rd = 0#5) (.unseal f.rs1)
  else if f.a3 = 0#3 ∧ f.b1 = 0#1 ∧ f.c3 = 6#3 then need (f.rs2 = 0#5) (.sealrd f.rd f.rs1)
  else .error .operation

/-- Major opcode 1111011, funct3 110 (R158, R161, R163, R164). -/
noncomputable def Group.custom36 (f : Fields) : Except DecodeError Instr :=
  if f.a3 = 0#3 ∧ f.b1 = 0#1 ∧ f.c3 = 0#3 then need (f.rs2 = 0#5) (.sweep f.rd f.rs1)
  else if f.a3 = 0#3 ∧ f.b1 = 0#1 ∧ f.c3 = 1#3 then need (f.rd = 0#5) (.swake f.rs1 f.rs2)
  else if f.a3 = 1#3 ∧ f.b1 = 0#1 ∧ f.c3 = 0#3 then need (f.rs1 = 0#5) (.cld f.rd f.rs2)
  else if f.a3 = 1#3 ∧ f.b1 = 0#1 ∧ f.c3 = 1#3 then need (f.rs1 = 0#5) (.nld f.rd f.rs2)
  else if f.a3 = 1#3 ∧ f.b1 = 0#1 ∧ f.c3 = 2#3 then need (f.rs2 = 0#5) (.cst f.rs1 f.rd)
  else if f.a3 = 1#3 ∧ f.b1 = 0#1 ∧ f.c3 = 3#3 then need (f.rs2 = 0#5 ∧ f.rd = 0#5) (.semit f.rs1)
  else if f.a3 = 1#3 ∧ f.b1 = 0#1 ∧ f.c3 = 4#3 then need (f.rs2 = 0#5 ∧ f.rs1 = 0#5 ∧ f.rd = 0#5) .swaitStep
  else if f.a3 = 1#3 ∧ f.b1 = 0#1 ∧ f.c3 = 5#3 then need (f.rs2 = 0#5 ∧ f.rs1 = 0#5 ∧ f.rd = 0#5) .swaitNb
  else if f.a3 = 1#3 ∧ f.b1 = 0#1 ∧ f.c3 = 6#3 then need (f.rs2 = 0#5 ∧ f.rd = 0#5) (.swaitCnt f.rs1)
  else if f.a3 = 1#3 ∧ f.b1 = 0#1 ∧ f.c3 = 7#3 then need (f.rs2 = 0#5 ∧ f.rd = 0#5) (.swaitKey f.rs1)
  else if f.a3 = 1#3 ∧ f.b1 = 1#1 ∧ f.c3 = 0#3 then need (f.rs2 = 0#5 ∧ f.rs1 = 0#5 ∧ f.rd = 0#5) .sdone
  else .error .operation

/-- Major opcode 1111011, funct3 111 (R214, R234, R349, R350, R351, R352, R353, R72). -/
noncomputable def Group.custom37 (f : Fields) : Except DecodeError Instr :=
  if f.a3 = 0#3 ∧ f.b1 = 0#1 ∧ f.c3 = 0#3 then need (f.rs2 = 0#5 ∧ f.rs1 = 0#5 ∧ f.rd = 0#5) .ckptStep
  else if f.a3 = 0#3 ∧ f.b1 = 0#1 ∧ f.c3 = 1#3 then need (f.rs2 = 0#5 ∧ f.rd = 0#5) (.yieldSlot f.rs1)
  else if f.a3 = 0#3 ∧ f.b1 = 0#1 ∧ f.c3 = 2#3 then need (f.rs2 = 0#5) (.rebuild f.rd f.rs1)
  else if f.a3 = 0#3 ∧ f.b1 = 0#1 ∧ f.c3 = 3#3 then need (f.rs2 = 0#5 ∧ f.rd = 0#5) (.wsw f.rs1)
  else if f.a3 = 0#3 ∧ f.b1 = 0#1 ∧ f.c3 = 4#3 then need (f.rs2 = 0#5 ∧ f.rd = 0#5) (.dsw f.rs1)
  else if f.a3 = 0#3 ∧ f.b1 = 0#1 ∧ f.c3 = 5#3 then need (f.rd = 0#5) (.follow f.rs1 f.rs2)
  else if f.a3 = 0#3 ∧ f.b1 = 0#1 ∧ f.c3 = 6#3 then need (f.rd = 0#5) (.dbgStepdrain f.rs1 f.rs2)
  else if f.a3 = 0#3 ∧ f.b1 = 1#1 ∧ f.c3 = 0#3 then need (f.rs2 = 0#5) (.voteAnd f.rd f.rs1)
  else if f.a3 = 0#3 ∧ f.b1 = 1#1 ∧ f.c3 = 1#3 then need (f.rs2 = 0#5) (.voteOr f.rd f.rs1)
  else if f.a3 = 0#3 ∧ f.b1 = 1#1 ∧ f.c3 = 2#3 then need (f.rs2 = 0#5) (.voteMax f.rd f.rs1)
  else if f.a3 = 0#3 ∧ f.b1 = 1#1 ∧ f.c3 = 3#3 then need (f.rs2 = 0#5) (.voteSum f.rd f.rs1)
  else if f.a3 = 0#3 ∧ f.b1 = 1#1 ∧ f.c3 = 4#3 then need (f.rs2 = 0#5) (.voteAndP f.rd f.rs1)
  else if f.a3 = 0#3 ∧ f.b1 = 1#1 ∧ f.c3 = 5#3 then need (f.rs2 = 0#5) (.voteOrP f.rd f.rs1)
  else if f.a3 = 0#3 ∧ f.b1 = 1#1 ∧ f.c3 = 6#3 then need (f.rs2 = 0#5) (.voteMaxP f.rd f.rs1)
  else if f.a3 = 0#3 ∧ f.b1 = 1#1 ∧ f.c3 = 7#3 then need (f.rs2 = 0#5) (.voteSumP f.rd f.rs1)
  else .error .operation

/-- Major opcode 1111011 (R39): the group that funct3 selects. -/
noncomputable def Major.custom3 (f : Fields) : Except DecodeError Instr :=
  if f.f3 = 0#3 then Group.custom30 f
  else if f.f3 = 1#3 then Group.custom31 f
  else if f.f3 = 2#3 then Group.custom32 f
  else if f.f3 = 3#3 then Group.custom33 f
  else if f.f3 = 4#3 then Group.custom34 f
  else if f.f3 = 5#3 then Group.custom35 f
  else if f.f3 = 6#3 then Group.custom36 f
  else if f.f3 = 7#3 then Group.custom37 f
  else .error .operation

/-- The instruction that the fields of a word name under the Shexus map, before the register classes are checked (R39, R44). -/
noncomputable def decodeFields (f : Fields) : Except DecodeError Instr :=
  if f.op = 3#7 then Major.load f
  else if f.op = 11#7 then Major.custom0 f
  else if f.op = 15#7 then Major.miscMem f
  else if f.op = 19#7 then Major.opImm f
  else if f.op = 23#7 then Group.auipc f
  else if f.op = 27#7 then Major.opImm32 f
  else if f.op = 35#7 then Major.store f
  else if f.op = 43#7 then Major.custom1 f
  else if f.op = 51#7 then Major.op f
  else if f.op = 55#7 then Group.lui f
  else if f.op = 59#7 then Major.op32 f
  else if f.op = 91#7 then Major.custom2 f
  else if f.op = 99#7 then Major.branch f
  else if f.op = 103#7 then Major.jalr f
  else if f.op = 111#7 then Group.jal f
  else if f.op = 115#7 then Major.system f
  else if f.op = 123#7 then Major.custom3 f
  else .error .majorOpcode

/-- The instruction a word names under the Shexus map, table 0 (R39 to R45). -/
noncomputable def decode (w : IWord) : Except DecodeError Instr :=
  if w.extractLsb' 0 2 = 3#2 then
    match decodeFields (Fields.split w) with
    | .ok i => if i.wf then .ok i else .error .fieldRange
    | .error e => .error e
  else .error .lowBits

/-- The index of a word in a decode table: opcode × 8 + funct3 (R50). -/
def tableIndex (w : IWord) : Nat := (w.extractLsb' 0 7).toNat * 8 + (w.extractLsb' 12 3).toNat

/-- The word with opcode and funct3 replaced by those of index `g`, every other bit unchanged (R51). -/
def remapWord (w : IWord) (g : Nat) : IWord :=
  w.extractLsb' 15 17 ++ BitVec.ofNat 3 g ++ w.extractLsb' 7 5 ++ BitVec.ofNat 7 (g / 8)

/-- The word a core executes for `w` under an installed decode table (1,024 entries of 16 bits, V in bit 15, OGRP in
bits 9:0); `none` for a word whose index is unmapped (R50, R51). -/
def mapWord (table : List (BitVec 16)) (w : IWord) : Option IWord :=
  let e := table.getD (tableIndex w) 0#16
  if e.extractLsb' 15 1 = 1#1 ∧ w.extractLsb' 0 2 = 3#2 then some (remapWord w (e.extractLsb' 0 10).toNat) else none

/-- Decode under a table: `none` is table 0, the Shexus map, which maps every index to itself (R51, R52). -/
noncomputable def decodeUnder (table : Option (List (BitVec 16))) (w : IWord) : Except DecodeError Instr :=
  match table with
  | none => decode w
  | some t =>
    match mapWord t w with
    | some w' => decode w'
    | none => .error .unmapped

/-- Decode the first four bytes of a list, little-endian (R36), and give the rest. -/
noncomputable def decodeBytes : List Byte → Except DecodeError (Instr × List Byte)
  | b0 :: b1 :: b2 :: b3 :: rest =>
    match decode (b3 ++ b2 ++ b1 ++ b0) with
    | .ok i => .ok (i, rest)
    | .error e => .error e
  | _ => .error .tooShort

/-- The fields of an instruction's word (R42 to R44, R249); an event has none. -/
def encodeFields : Instr → Option Fields
  | .lui rd imm => some ⟨imm.extractLsb' 17 3, imm.extractLsb' 16 1, imm.extractLsb' 13 3, imm.extractLsb' 8 5, imm.extractLsb' 3 5, imm.extractLsb' 0 3, rd, 55#7⟩
  | .auipc rd imm => some ⟨imm.extractLsb' 17 3, imm.extractLsb' 16 1, imm.extractLsb' 13 3, imm.extractLsb' 8 5, imm.extractLsb' 3 5, imm.extractLsb' 0 3, rd, 23#7⟩
  | .jal rd imm => some ⟨imm.extractLsb' 17 3, imm.extractLsb' 16 1, imm.extractLsb' 13 3, imm.extractLsb' 8 5, imm.extractLsb' 3 5, imm.extractLsb' 0 3, rd, 111#7⟩
  | .jalr rd rs1 imm => some ⟨imm.extractLsb' 9 3, imm.extractLsb' 8 1, imm.extractLsb' 5 3, imm.extractLsb' 0 5, rs1, 0#3, rd, 103#7⟩
  | .beq rs1 rs2 immHi immLo => some ⟨immHi.extractLsb' 4 3, immHi.extractLsb' 3 1, immHi.extractLsb' 0 3, rs2, rs1, 0#3, immLo, 99#7⟩
  | .bne rs1 rs2 immHi immLo => some ⟨immHi.extractLsb' 4 3, immHi.extractLsb' 3 1, immHi.extractLsb' 0 3, rs2, rs1, 1#3, immLo, 99#7⟩
  | .blt rs1 rs2 immHi immLo => some ⟨immHi.extractLsb' 4 3, immHi.extractLsb' 3 1, immHi.extractLsb' 0 3, rs2, rs1, 4#3, immLo, 99#7⟩
  | .bge rs1 rs2 immHi immLo => some ⟨immHi.extractLsb' 4 3, immHi.extractLsb' 3 1, immHi.extractLsb' 0 3, rs2, rs1, 5#3, immLo, 99#7⟩
  | .bltu rs1 rs2 immHi immLo => some ⟨immHi.extractLsb' 4 3, immHi.extractLsb' 3 1, immHi.extractLsb' 0 3, rs2, rs1, 6#3, immLo, 99#7⟩
  | .bgeu rs1 rs2 immHi immLo => some ⟨immHi.extractLsb' 4 3, immHi.extractLsb' 3 1, immHi.extractLsb' 0 3, rs2, rs1, 7#3, immLo, 99#7⟩
  | .lb rd rs1 imm => some ⟨imm.extractLsb' 9 3, imm.extractLsb' 8 1, imm.extractLsb' 5 3, imm.extractLsb' 0 5, rs1, 0#3, rd, 3#7⟩
  | .lh rd rs1 imm => some ⟨imm.extractLsb' 9 3, imm.extractLsb' 8 1, imm.extractLsb' 5 3, imm.extractLsb' 0 5, rs1, 1#3, rd, 3#7⟩
  | .lw rd rs1 imm => some ⟨imm.extractLsb' 9 3, imm.extractLsb' 8 1, imm.extractLsb' 5 3, imm.extractLsb' 0 5, rs1, 2#3, rd, 3#7⟩
  | .ld rd rs1 imm => some ⟨imm.extractLsb' 9 3, imm.extractLsb' 8 1, imm.extractLsb' 5 3, imm.extractLsb' 0 5, rs1, 3#3, rd, 3#7⟩
  | .lbu rd rs1 imm => some ⟨imm.extractLsb' 9 3, imm.extractLsb' 8 1, imm.extractLsb' 5 3, imm.extractLsb' 0 5, rs1, 4#3, rd, 3#7⟩
  | .lhu rd rs1 imm => some ⟨imm.extractLsb' 9 3, imm.extractLsb' 8 1, imm.extractLsb' 5 3, imm.extractLsb' 0 5, rs1, 5#3, rd, 3#7⟩
  | .lwu rd rs1 imm => some ⟨imm.extractLsb' 9 3, imm.extractLsb' 8 1, imm.extractLsb' 5 3, imm.extractLsb' 0 5, rs1, 6#3, rd, 3#7⟩
  | .sb rs1 rs2 immHi immLo => some ⟨immHi.extractLsb' 4 3, immHi.extractLsb' 3 1, immHi.extractLsb' 0 3, rs2, rs1, 0#3, immLo, 35#7⟩
  | .sh rs1 rs2 immHi immLo => some ⟨immHi.extractLsb' 4 3, immHi.extractLsb' 3 1, immHi.extractLsb' 0 3, rs2, rs1, 1#3, immLo, 35#7⟩
  | .sw rs1 rs2 immHi immLo => some ⟨immHi.extractLsb' 4 3, immHi.extractLsb' 3 1, immHi.extractLsb' 0 3, rs2, rs1, 2#3, immLo, 35#7⟩
  | .sd rs1 rs2 immHi immLo => some ⟨immHi.extractLsb' 4 3, immHi.extractLsb' 3 1, immHi.extractLsb' 0 3, rs2, rs1, 3#3, immLo, 35#7⟩
  | .addi rd rs1 imm => some ⟨imm.extractLsb' 9 3, imm.extractLsb' 8 1, imm.extractLsb' 5 3, imm.extractLsb' 0 5, rs1, 0#3, rd, 19#7⟩
  | .slti rd rs1 imm => some ⟨imm.extractLsb' 9 3, imm.extractLsb' 8 1, imm.extractLsb' 5 3, imm.extractLsb' 0 5, rs1, 2#3, rd, 19#7⟩
  | .sltiu rd rs1 imm => some ⟨imm.extractLsb' 9 3, imm.extractLsb' 8 1, imm.extractLsb' 5 3, imm.extractLsb' 0 5, rs1, 3#3, rd, 19#7⟩
  | .xori rd rs1 imm => some ⟨imm.extractLsb' 9 3, imm.extractLsb' 8 1, imm.extractLsb' 5 3, imm.extractLsb' 0 5, rs1, 4#3, rd, 19#7⟩
  | .ori rd rs1 imm => some ⟨imm.extractLsb' 9 3, imm.extractLsb' 8 1, imm.extractLsb' 5 3, imm.extractLsb' 0 5, rs1, 6#3, rd, 19#7⟩
  | .andi rd rs1 imm => some ⟨imm.extractLsb' 9 3, imm.extractLsb' 8 1, imm.extractLsb' 5 3, imm.extractLsb' 0 5, rs1, 7#3, rd, 19#7⟩
  | .slli rd rs1 sh => some ⟨0#3, 0#1, (0#2 ++ sh.extractLsb' 5 1), sh.extractLsb' 0 5, rs1, 1#3, rd, 19#7⟩
  | .srli rd rs1 sh => some ⟨0#3, 0#1, (0#2 ++ sh.extractLsb' 5 1), sh.extractLsb' 0 5, rs1, 5#3, rd, 19#7⟩
  | .srai rd rs1 sh => some ⟨2#3, 0#1, (0#2 ++ sh.extractLsb' 5 1), sh.extractLsb' 0 5, rs1, 5#3, rd, 19#7⟩
  | .add rd rs1 rs2 => some ⟨0#3, 0#1, 0#3, rs2, rs1, 0#3, rd, 51#7⟩
  | .sub rd rs1 rs2 => some ⟨2#3, 0#1, 0#3, rs2, rs1, 0#3, rd, 51#7⟩
  | .sll rd rs1 rs2 => some ⟨0#3, 0#1, 0#3, rs2, rs1, 1#3, rd, 51#7⟩
  | .slt rd rs1 rs2 => some ⟨0#3, 0#1, 0#3, rs2, rs1, 2#3, rd, 51#7⟩
  | .sltu rd rs1 rs2 => some ⟨0#3, 0#1, 0#3, rs2, rs1, 3#3, rd, 51#7⟩
  | .xor rd rs1 rs2 => some ⟨0#3, 0#1, 0#3, rs2, rs1, 4#3, rd, 51#7⟩
  | .srl rd rs1 rs2 => some ⟨0#3, 0#1, 0#3, rs2, rs1, 5#3, rd, 51#7⟩
  | .sra rd rs1 rs2 => some ⟨2#3, 0#1, 0#3, rs2, rs1, 5#3, rd, 51#7⟩
  | .or rd rs1 rs2 => some ⟨0#3, 0#1, 0#3, rs2, rs1, 6#3, rd, 51#7⟩
  | .and rd rs1 rs2 => some ⟨0#3, 0#1, 0#3, rs2, rs1, 7#3, rd, 51#7⟩
  | .addiw rd rs1 imm => some ⟨imm.extractLsb' 9 3, imm.extractLsb' 8 1, imm.extractLsb' 5 3, imm.extractLsb' 0 5, rs1, 0#3, rd, 27#7⟩
  | .slliw rd rs1 sh => some ⟨0#3, 0#1, 0#3, sh, rs1, 1#3, rd, 27#7⟩
  | .srliw rd rs1 sh => some ⟨0#3, 0#1, 0#3, sh, rs1, 5#3, rd, 27#7⟩
  | .sraiw rd rs1 sh => some ⟨2#3, 0#1, 0#3, sh, rs1, 5#3, rd, 27#7⟩
  | .addw rd rs1 rs2 => some ⟨0#3, 0#1, 0#3, rs2, rs1, 0#3, rd, 59#7⟩
  | .subw rd rs1 rs2 => some ⟨2#3, 0#1, 0#3, rs2, rs1, 0#3, rd, 59#7⟩
  | .sllw rd rs1 rs2 => some ⟨0#3, 0#1, 0#3, rs2, rs1, 1#3, rd, 59#7⟩
  | .srlw rd rs1 rs2 => some ⟨0#3, 0#1, 0#3, rs2, rs1, 5#3, rd, 59#7⟩
  | .sraw rd rs1 rs2 => some ⟨2#3, 0#1, 0#3, rs2, rs1, 5#3, rd, 59#7⟩
  | .mul rd rs1 rs2 => some ⟨0#3, 0#1, 1#3, rs2, rs1, 0#3, rd, 51#7⟩
  | .mulh rd rs1 rs2 => some ⟨0#3, 0#1, 1#3, rs2, rs1, 1#3, rd, 51#7⟩
  | .mulhsu rd rs1 rs2 => some ⟨0#3, 0#1, 1#3, rs2, rs1, 2#3, rd, 51#7⟩
  | .mulhu rd rs1 rs2 => some ⟨0#3, 0#1, 1#3, rs2, rs1, 3#3, rd, 51#7⟩
  | .div rd rs1 rs2 => some ⟨0#3, 0#1, 1#3, rs2, rs1, 4#3, rd, 51#7⟩
  | .divu rd rs1 rs2 => some ⟨0#3, 0#1, 1#3, rs2, rs1, 5#3, rd, 51#7⟩
  | .rem rd rs1 rs2 => some ⟨0#3, 0#1, 1#3, rs2, rs1, 6#3, rd, 51#7⟩
  | .remu rd rs1 rs2 => some ⟨0#3, 0#1, 1#3, rs2, rs1, 7#3, rd, 51#7⟩
  | .mulw rd rs1 rs2 => some ⟨0#3, 0#1, 1#3, rs2, rs1, 0#3, rd, 59#7⟩
  | .divw rd rs1 rs2 => some ⟨0#3, 0#1, 1#3, rs2, rs1, 4#3, rd, 59#7⟩
  | .divuw rd rs1 rs2 => some ⟨0#3, 0#1, 1#3, rs2, rs1, 5#3, rd, 59#7⟩
  | .remw rd rs1 rs2 => some ⟨0#3, 0#1, 1#3, rs2, rs1, 6#3, rd, 59#7⟩
  | .remuw rd rs1 rs2 => some ⟨0#3, 0#1, 1#3, rs2, rs1, 7#3, rd, 59#7⟩
  | .fence rd rs1 fm pred succ => some ⟨fm.extractLsb' 1 3, fm.extractLsb' 0 1, pred.extractLsb' 1 3, (pred.extractLsb' 0 1 ++ succ), rs1, 0#3, rd, 15#7⟩
  | .csrrw rd rs1 csr => some ⟨csr.extractLsb' 9 3, csr.extractLsb' 8 1, csr.extractLsb' 5 3, csr.extractLsb' 0 5, rs1, 1#3, rd, 115#7⟩
  | .csrrs rd rs1 csr => some ⟨csr.extractLsb' 9 3, csr.extractLsb' 8 1, csr.extractLsb' 5 3, csr.extractLsb' 0 5, rs1, 2#3, rd, 115#7⟩
  | .csrrc rd rs1 csr => some ⟨csr.extractLsb' 9 3, csr.extractLsb' 8 1, csr.extractLsb' 5 3, csr.extractLsb' 0 5, rs1, 3#3, rd, 115#7⟩
  | .csrrwi rd csr uimm => some ⟨csr.extractLsb' 9 3, csr.extractLsb' 8 1, csr.extractLsb' 5 3, csr.extractLsb' 0 5, uimm, 5#3, rd, 115#7⟩
  | .csrrsi rd csr uimm => some ⟨csr.extractLsb' 9 3, csr.extractLsb' 8 1, csr.extractLsb' 5 3, csr.extractLsb' 0 5, uimm, 6#3, rd, 115#7⟩
  | .csrrci rd csr uimm => some ⟨csr.extractLsb' 9 3, csr.extractLsb' 8 1, csr.extractLsb' 5 3, csr.extractLsb' 0 5, uimm, 7#3, rd, 115#7⟩
  | .ecall => some ⟨0#3, 0#1, 0#3, 0#5, 0#5, 0#3, 0#5, 115#7⟩
  | .ebreak => some ⟨0#3, 0#1, 0#3, 1#5, 0#5, 0#3, 0#5, 115#7⟩
  | .sret => some ⟨0#3, 1#1, 0#3, 2#5, 0#5, 0#3, 0#5, 115#7⟩
  | .wfi => some ⟨0#3, 1#1, 0#3, 5#5, 0#5, 0#3, 0#5, 115#7⟩
  | .vaddI32 rd rs1 rs2 stall => some ⟨stall, 0#1, 0#3, rs2, rs1, 0#3, rd, 11#7⟩
  | .vsubI32 rd rs1 rs2 stall => some ⟨stall, 0#1, 1#3, rs2, rs1, 0#3, rd, 11#7⟩
  | .vmulI32 rd rs1 rs2 stall => some ⟨stall, 0#1, 2#3, rs2, rs1, 0#3, rd, 11#7⟩
  | .vmulhI32 rd rs1 rs2 stall => some ⟨stall, 0#1, 3#3, rs2, rs1, 0#3, rd, 11#7⟩
  | .vminI32 rd rs1 rs2 stall => some ⟨stall, 0#1, 4#3, rs2, rs1, 0#3, rd, 11#7⟩
  | .vmaxI32 rd rs1 rs2 stall => some ⟨stall, 0#1, 5#3, rs2, rs1, 0#3, rd, 11#7⟩
  | .vminuI32 rd rs1 rs2 stall => some ⟨stall, 0#1, 6#3, rs2, rs1, 0#3, rd, 11#7⟩
  | .vmaxuI32 rd rs1 rs2 stall => some ⟨stall, 0#1, 7#3, rs2, rs1, 0#3, rd, 11#7⟩
  | .vand rd rs1 rs2 stall => some ⟨stall, 1#1, 0#3, rs2, rs1, 0#3, rd, 11#7⟩
  | .vor rd rs1 rs2 stall => some ⟨stall, 1#1, 1#3, rs2, rs1, 0#3, rd, 11#7⟩
  | .vxor rd rs1 rs2 stall => some ⟨stall, 1#1, 2#3, rs2, rs1, 0#3, rd, 11#7⟩
  | .vsllI32 rd rs1 rs2 stall => some ⟨stall, 1#1, 3#3, rs2, rs1, 0#3, rd, 11#7⟩
  | .vsrlI32 rd rs1 rs2 stall => some ⟨stall, 1#1, 4#3, rs2, rs1, 0#3, rd, 11#7⟩
  | .vsraI32 rd rs1 rs2 stall => some ⟨stall, 1#1, 5#3, rs2, rs1, 0#3, rd, 11#7⟩
  | .vaddsI32 rd rs1 rs2 stall => some ⟨stall, 1#1, 6#3, rs2, rs1, 0#3, rd, 11#7⟩
  | .vmacI32 rd rs1 rs2 stall => some ⟨stall, 1#1, 7#3, rs2, rs1, 0#3, rd, 11#7⟩
  | .vaddI16 rd rs1 rs2 stall => some ⟨stall, 0#1, 0#3, rs2, rs1, 1#3, rd, 11#7⟩
  | .vsubI16 rd rs1 rs2 stall => some ⟨stall, 0#1, 1#3, rs2, rs1, 1#3, rd, 11#7⟩
  | .vaddsI16 rd rs1 rs2 stall => some ⟨stall, 0#1, 2#3, rs2, rs1, 1#3, rd, 11#7⟩
  | .vsubsI16 rd rs1 rs2 stall => some ⟨stall, 0#1, 3#3, rs2, rs1, 1#3, rd, 11#7⟩
  | .vaddusI16 rd rs1 rs2 stall => some ⟨stall, 0#1, 4#3, rs2, rs1, 1#3, rd, 11#7⟩
  | .vminI16 rd rs1 rs2 stall => some ⟨stall, 0#1, 5#3, rs2, rs1, 1#3, rd, 11#7⟩
  | .vmaxI16 rd rs1 rs2 stall => some ⟨stall, 0#1, 6#3, rs2, rs1, 1#3, rd, 11#7⟩
  | .vmulI16 rd rs1 rs2 stall => some ⟨stall, 0#1, 7#3, rs2, rs1, 1#3, rd, 11#7⟩
  | .vaddI8 rd rs1 rs2 stall => some ⟨stall, 1#1, 0#3, rs2, rs1, 1#3, rd, 11#7⟩
  | .vsubI8 rd rs1 rs2 stall => some ⟨stall, 1#1, 1#3, rs2, rs1, 1#3, rd, 11#7⟩
  | .vaddsI8 rd rs1 rs2 stall => some ⟨stall, 1#1, 2#3, rs2, rs1, 1#3, rd, 11#7⟩
  | .vsubsI8 rd rs1 rs2 stall => some ⟨stall, 1#1, 3#3, rs2, rs1, 1#3, rd, 11#7⟩
  | .vaddusI8 rd rs1 rs2 stall => some ⟨stall, 1#1, 4#3, rs2, rs1, 1#3, rd, 11#7⟩
  | .vminI8 rd rs1 rs2 stall => some ⟨stall, 1#1, 5#3, rs2, rs1, 1#3, rd, 11#7⟩
  | .vmaxI8 rd rs1 rs2 stall => some ⟨stall, 1#1, 6#3, rs2, rs1, 1#3, rd, 11#7⟩
  | .vmulI8 rd rs1 rs2 stall => some ⟨stall, 1#1, 7#3, rs2, rs1, 1#3, rd, 11#7⟩
  | .vfaddF32 rd rs1 rs2 stall => some ⟨stall, 0#1, 0#3, rs2, rs1, 2#3, rd, 11#7⟩
  | .vfsubF32 rd rs1 rs2 stall => some ⟨stall, 0#1, 1#3, rs2, rs1, 2#3, rd, 11#7⟩
  | .vfmulF32 rd rs1 rs2 stall => some ⟨stall, 0#1, 2#3, rs2, rs1, 2#3, rd, 11#7⟩
  | .vfminF32 rd rs1 rs2 stall => some ⟨stall, 0#1, 3#3, rs2, rs1, 2#3, rd, 11#7⟩
  | .vfmaxF32 rd rs1 rs2 stall => some ⟨stall, 0#1, 4#3, rs2, rs1, 2#3, rd, 11#7⟩
  | .vfmaF32 rd rs1 rs2 stall => some ⟨stall, 0#1, 6#3, rs2, rs1, 2#3, rd, 11#7⟩
  | .vfmsF32 rd rs1 rs2 stall => some ⟨stall, 0#1, 7#3, rs2, rs1, 2#3, rd, 11#7⟩
  | .vfabsF32 rd rs1 stall => some ⟨stall, 1#1, 0#3, 0#5, rs1, 2#3, rd, 11#7⟩
  | .vfnegF32 rd rs1 stall => some ⟨stall, 1#1, 1#3, 0#5, rs1, 2#3, rd, 11#7⟩
  | .vfaddBf16 rd rs1 rs2 stall => some ⟨stall, 0#1, 0#3, rs2, rs1, 3#3, rd, 11#7⟩
  | .vfsubBf16 rd rs1 rs2 stall => some ⟨stall, 0#1, 1#3, rs2, rs1, 3#3, rd, 11#7⟩
  | .vfmulBf16 rd rs1 rs2 stall => some ⟨stall, 0#1, 2#3, rs2, rs1, 3#3, rd, 11#7⟩
  | .vfminBf16 rd rs1 rs2 stall => some ⟨stall, 0#1, 3#3, rs2, rs1, 3#3, rd, 11#7⟩
  | .vfmaxBf16 rd rs1 rs2 stall => some ⟨stall, 0#1, 4#3, rs2, rs1, 3#3, rd, 11#7⟩
  | .vfmaBf16 rd rs1 rs2 stall => some ⟨stall, 0#1, 5#3, rs2, rs1, 3#3, rd, 11#7⟩
  | .vdotBf16 rd rs1 rs2 stall => some ⟨stall, 0#1, 6#3, rs2, rs1, 3#3, rd, 11#7⟩
  | .vfaddF16 rd rs1 rs2 stall => some ⟨stall, 1#1, 0#3, rs2, rs1, 3#3, rd, 11#7⟩
  | .vfsubF16 rd rs1 rs2 stall => some ⟨stall, 1#1, 1#3, rs2, rs1, 3#3, rd, 11#7⟩
  | .vfmulF16 rd rs1 rs2 stall => some ⟨stall, 1#1, 2#3, rs2, rs1, 3#3, rd, 11#7⟩
  | .vfminF16 rd rs1 rs2 stall => some ⟨stall, 1#1, 3#3, rs2, rs1, 3#3, rd, 11#7⟩
  | .vfmaxF16 rd rs1 rs2 stall => some ⟨stall, 1#1, 4#3, rs2, rs1, 3#3, rd, 11#7⟩
  | .vfmaF16 rd rs1 rs2 stall => some ⟨stall, 1#1, 5#3, rs2, rs1, 3#3, rd, 11#7⟩
  | .vdotF16 rd rs1 rs2 stall => some ⟨stall, 1#1, 6#3, rs2, rs1, 3#3, rd, 11#7⟩
  | .vcmpeqI32 rd rs1 rs2 stall => some ⟨stall, 0#1, 0#3, rs2, rs1, 4#3, rd, 11#7⟩
  | .vcmpltI32 rd rs1 rs2 stall => some ⟨stall, 0#1, 1#3, rs2, rs1, 4#3, rd, 11#7⟩
  | .vcmpltuI32 rd rs1 rs2 stall => some ⟨stall, 0#1, 2#3, rs2, rs1, 4#3, rd, 11#7⟩
  | .vfcmpeqF32 rd rs1 rs2 stall => some ⟨stall, 0#1, 3#3, rs2, rs1, 4#3, rd, 11#7⟩
  | .vfcmpltF32 rd rs1 rs2 stall => some ⟨stall, 0#1, 4#3, rs2, rs1, 4#3, rd, 11#7⟩
  | .vfcmpleF32 rd rs1 rs2 stall => some ⟨stall, 0#1, 5#3, rs2, rs1, 4#3, rd, 11#7⟩
  | .vfclassF32 rd rs1 set stall => some ⟨stall, 0#1, 6#3, set, rs1, 4#3, rd, 11#7⟩
  | .mand rd rs1 rs2 stall => some ⟨stall, 1#1, 0#3, rs2, rs1, 4#3, rd, 11#7⟩
  | .mor rd rs1 rs2 stall => some ⟨stall, 1#1, 1#3, rs2, rs1, 4#3, rd, 11#7⟩
  | .mxor rd rs1 rs2 stall => some ⟨stall, 1#1, 2#3, rs2, rs1, 4#3, rd, 11#7⟩
  | .mandn rd rs1 rs2 stall => some ⟨stall, 1#1, 3#3, rs2, rs1, 4#3, rd, 11#7⟩
  | .vperm rd rs1 rs2 stall => some ⟨stall, 0#1, 0#3, rs2, rs1, 5#3, rd, 11#7⟩
  | .vrot rd rs1 n stall => some ⟨stall, 0#1, 1#3, n, rs1, 5#3, rd, 11#7⟩
  | .vmerge rd rs1 rs2 stall => some ⟨stall, 0#1, 2#3, rs2, rs1, 5#3, rd, 11#7⟩
  | .vbcast rd rs1 n stall => some ⟨stall, 0#1, 3#3, n, rs1, 5#3, rd, 11#7⟩
  | .vredsumI32 rd rs1 stall => some ⟨stall, 0#1, 4#3, 0#5, rs1, 5#3, rd, 11#7⟩
  | .vredmaxI32 rd rs1 stall => some ⟨stall, 0#1, 5#3, 0#5, rs1, 5#3, rd, 11#7⟩
  | .vredminI32 rd rs1 stall => some ⟨stall, 0#1, 6#3, 0#5, rs1, 5#3, rd, 11#7⟩
  | .vredsumF32 rd rs1 stall => some ⟨stall, 0#1, 7#3, 0#5, rs1, 5#3, rd, 11#7⟩
  | .vredmaxF32 rd rs1 stall => some ⟨stall, 1#1, 0#3, 0#5, rs1, 5#3, rd, 11#7⟩
  | .vredminF32 rd rs1 stall => some ⟨stall, 1#1, 1#3, 0#5, rs1, 5#3, rd, 11#7⟩
  | .vscanI32 rd rs1 stall => some ⟨stall, 1#1, 2#3, 0#5, rs1, 5#3, rd, 11#7⟩
  | .vscanF32 rd rs1 stall => some ⟨stall, 1#1, 3#3, 0#5, rs1, 5#3, rd, 11#7⟩
  | .vcvtBf16F32 rd rs1 part em stall => some ⟨stall, 0#1, 0#3, (part ++ em), rs1, 6#3, rd, 11#7⟩
  | .vcvtF16F32 rd rs1 part em stall => some ⟨stall, 0#1, 1#3, (part ++ em), rs1, 6#3, rd, 11#7⟩
  | .vcvtE4m3F32 rd rs1 part em stall => some ⟨stall, 0#1, 2#3, (part ++ em), rs1, 6#3, rd, 11#7⟩
  | .vcvtE5m2F32 rd rs1 part em stall => some ⟨stall, 0#1, 3#3, (part ++ em), rs1, 6#3, rd, 11#7⟩
  | .vcvtI8F32 rd rs1 part em stall => some ⟨stall, 0#1, 4#3, (part ++ em), rs1, 6#3, rd, 11#7⟩
  | .vcvtI32F32 rd rs1 part em stall => some ⟨stall, 0#1, 5#3, (part ++ em), rs1, 6#3, rd, 11#7⟩
  | .vcvtI8I32 rd rs1 part em stall => some ⟨stall, 0#1, 6#3, (part ++ em), rs1, 6#3, rd, 11#7⟩
  | .vcvtF32I32 rd rs1 part em stall => some ⟨stall, 0#1, 7#3, (part ++ em), rs1, 6#3, rd, 11#7⟩
  | .vcvtF32Bf16 rd rs1 part em stall => some ⟨stall, 1#1, 0#3, (part ++ em), rs1, 6#3, rd, 11#7⟩
  | .vcvtF32F16 rd rs1 part em stall => some ⟨stall, 1#1, 1#3, (part ++ em), rs1, 6#3, rd, 11#7⟩
  | .vcvtF32E4m3 rd rs1 part em stall => some ⟨stall, 1#1, 2#3, (part ++ em), rs1, 6#3, rd, 11#7⟩
  | .vcvtF32E5m2 rd rs1 part em stall => some ⟨stall, 1#1, 3#3, (part ++ em), rs1, 6#3, rd, 11#7⟩
  | .vcvtI32I8 rd rs1 part em stall => some ⟨stall, 1#1, 4#3, (part ++ em), rs1, 6#3, rd, 11#7⟩
  | .vrep rs1 len stp smask stall => some ⟨stall, 0#1, 0#3, len, rs1, 7#3, (stp ++ smask), 11#7⟩
  | .vzero rd stall => some ⟨stall, 0#1, 1#3, 0#5, 0#5, 7#3, rd, 11#7⟩
  | .vid rd stall => some ⟨stall, 0#1, 2#3, 0#5, 0#5, 7#3, rd, 11#7⟩
  | .vld rd rs1 imm => some ⟨0#3, 0#1, imm.extractLsb' 5 3, imm.extractLsb' 0 5, rs1, 0#3, rd, 43#7⟩
  | .vldBc rd rs1 imm => some ⟨0#3, 1#1, imm.extractLsb' 5 3, imm.extractLsb' 0 5, rs1, 0#3, rd, 43#7⟩
  | .vst rd rs1 imm => some ⟨0#3, 0#1, imm.extractLsb' 5 3, imm.extractLsb' 0 5, rs1, 1#3, rd, 43#7⟩
  | .vgather rd rs1 rs2 aux => some ⟨4#3, 0#1, (0#1 ++ aux), rs2, rs1, 2#3, rd, 43#7⟩
  | .vscatter rd rs1 rs2 aux => some ⟨4#3, 0#1, (0#1 ++ aux), rs2, rs1, 3#3, rd, 43#7⟩
  | .vlsl rd rs1 imm => some ⟨0#3, 0#1, imm.extractLsb' 5 3, imm.extractLsb' 0 5, rs1, 4#3, rd, 43#7⟩
  | .vsls rd rs1 imm => some ⟨0#3, 1#1, imm.extractLsb' 5 3, imm.extractLsb' 0 5, rs1, 4#3, rd, 43#7⟩
  | .vlslx rd rs1 rs2 => some ⟨4#3, 0#1, 0#3, rs2, rs1, 4#3, rd, 43#7⟩
  | .vslsx rd rs1 rs2 => some ⟨4#3, 1#1, 0#3, rs2, rs1, 4#3, rd, 43#7⟩
  | .vldMh rd rs1 imm => some ⟨0#3, 0#1, imm.extractLsb' 5 3, imm.extractLsb' 0 5, rs1, 5#3, rd, 43#7⟩
  | .prefL1 rs1 imm => some ⟨0#3, 1#1, imm.extractLsb' 5 3, imm.extractLsb' 0 5, rs1, 5#3, 0#5, 43#7⟩
  | .prefLlc rs1 imm => some ⟨1#3, 0#1, imm.extractLsb' 5 3, imm.extractLsb' 0 5, rs1, 5#3, 0#5, 43#7⟩
  | .rsdKeep rs1 imm => some ⟨1#3, 1#1, imm.extractLsb' 5 3, imm.extractLsb' 0 5, rs1, 5#3, 0#5, 43#7⟩
  | .rsdDrop rs1 imm => some ⟨2#3, 0#1, imm.extractLsb' 5 3, imm.extractLsb' 0 5, rs1, 5#3, 0#5, 43#7⟩
  | .vext rd rs1 lane => some ⟨4#3, 0#1, 0#3, lane, rs1, 6#3, rd, 43#7⟩
  | .vins rd rs1 lane => some ⟨4#3, 1#1, 0#3, lane, rs1, 6#3, rd, 43#7⟩
  | .vsplat rd rs1 => some ⟨5#3, 0#1, 0#3, 0#5, rs1, 6#3, rd, 43#7⟩
  | .mtox rd rs1 => some ⟨5#3, 1#1, 0#3, 0#5, rs1, 6#3, rd, 43#7⟩
  | .xtom rd rs1 => some ⟨6#3, 0#1, 0#3, 0#5, rs1, 6#3, rd, 43#7⟩
  | .mpopc rd rs1 => some ⟨6#3, 1#1, 0#3, 0#5, rs1, 6#3, rd, 43#7⟩
  | .wcfg rs1 win => some ⟨4#3, 0#1, 0#3, 0#5, rs1, 7#3, win, 43#7⟩
  | .wrd rd win => some ⟨4#3, 1#1, 0#3, 0#5, win, 7#3, rd, 43#7⟩
  | .mlease rd => some ⟨0#3, 0#1, 0#3, 0#5, 0#5, 0#3, rd, 91#7⟩
  | .mleaseTry rd => some ⟨0#3, 1#1, 0#3, 0#5, 0#5, 0#3, rd, 91#7⟩
  | .mrel => some ⟨1#3, 0#1, 0#3, 0#5, 0#5, 0#3, 0#5, 91#7⟩
  | .mma rs1 rs2 ka fmt acc km1 => some ⟨(ka ++ fmt.extractLsb' 1 2), fmt.extractLsb' 0 1, acc, rs2, rs1, 1#3, km1, 91#7⟩
  | .maccSt rs1 rs2 sfmt dfmt acc => some ⟨(sfmt ++ dfmt.extractLsb' 1 2), dfmt.extractLsb' 0 1, acc, rs2, rs1, 2#3, 0#5, 91#7⟩
  | .maccClr acc => some ⟨3#3, 1#1, acc, 0#5, 0#5, 2#3, 0#5, 91#7⟩
  | .maccLd rs1 rs2 acc => some ⟨7#3, 1#1, acc, rs2, rs1, 2#3, 0#5, 91#7⟩
  | .rcfg rd rs1 rs2 => some ⟨0#3, 0#1, 0#3, rs2, rs1, 3#3, rd, 91#7⟩
  | .rrel rd => some ⟨0#3, 1#1, 0#3, 0#5, 0#5, 3#3, rd, 91#7⟩
  | .rstat rd rs1 => some ⟨1#3, 0#1, 0#3, 0#5, rs1, 3#3, rd, 91#7⟩
  | .rpeek rd rs1 rs2 => some ⟨1#3, 1#1, 0#3, rs2, rs1, 3#3, rd, 91#7⟩
  | .rpop rs1 => some ⟨2#3, 0#1, 0#3, 0#5, rs1, 3#3, 0#5, 91#7⟩
  | .mstat rd acc => some ⟨0#3, 0#1, acc, 0#5, 0#5, 4#3, rd, 91#7⟩
  | .mstatClr rd acc => some ⟨0#3, 1#1, acc, 0#5, 0#5, 4#3, rd, 91#7⟩
  | .mprog rd acc => some ⟨1#3, 0#1, acc, 0#5, 0#5, 4#3, rd, 91#7⟩
  | .mprogClr acc => some ⟨1#3, 1#1, acc, 0#5, 0#5, 4#3, 0#5, 91#7⟩
  | .gredF32 rs1 acc => some ⟨0#3, 0#1, acc, 0#5, rs1, 5#3, 0#5, 91#7⟩
  | .gredI32 rs1 acc => some ⟨0#3, 1#1, acc, 0#5, rs1, 5#3, 0#5, 91#7⟩
  | .amoSwapD rd rs1 rs2 so => some ⟨0#3, 0#1, so, rs2, rs1, 0#3, rd, 123#7⟩
  | .amoAddD rd rs1 rs2 so => some ⟨0#3, 1#1, so, rs2, rs1, 0#3, rd, 123#7⟩
  | .amoAndD rd rs1 rs2 so => some ⟨1#3, 0#1, so, rs2, rs1, 0#3, rd, 123#7⟩
  | .amoOrD rd rs1 rs2 so => some ⟨1#3, 1#1, so, rs2, rs1, 0#3, rd, 123#7⟩
  | .amoMaxD rd rs1 rs2 so => some ⟨2#3, 0#1, so, rs2, rs1, 0#3, rd, 123#7⟩
  | .amoMaxuD rd rs1 rs2 so => some ⟨2#3, 1#1, so, rs2, rs1, 0#3, rd, 123#7⟩
  | .amoCasD rd rs1 rs2 so => some ⟨3#3, 0#1, so, rs2, rs1, 0#3, rd, 123#7⟩
  | .amoAggaddD rd rs1 rs2 so => some ⟨3#3, 1#1, so, rs2, rs1, 0#3, rd, 123#7⟩
  | .amoSwapW rd rs1 rs2 so => some ⟨4#3, 0#1, so, rs2, rs1, 0#3, rd, 123#7⟩
  | .amoAddW rd rs1 rs2 so => some ⟨4#3, 1#1, so, rs2, rs1, 0#3, rd, 123#7⟩
  | .amoAndW rd rs1 rs2 so => some ⟨5#3, 0#1, so, rs2, rs1, 0#3, rd, 123#7⟩
  | .amoOrW rd rs1 rs2 so => some ⟨5#3, 1#1, so, rs2, rs1, 0#3, rd, 123#7⟩
  | .amoMaxW rd rs1 rs2 so => some ⟨6#3, 0#1, so, rs2, rs1, 0#3, rd, 123#7⟩
  | .amoMaxuW rd rs1 rs2 so => some ⟨6#3, 1#1, so, rs2, rs1, 0#3, rd, 123#7⟩
  | .amoCasW rd rs1 rs2 so => some ⟨7#3, 0#1, so, rs2, rs1, 0#3, rd, 123#7⟩
  | .amoAggaddW rd rs1 rs2 so => some ⟨7#3, 1#1, so, rs2, rs1, 0#3, rd, 123#7⟩
  | .fenceR scope => some ⟨0#3, 1#1, scope, 0#5, 0#5, 1#3, 0#5, 123#7⟩
  | .fenceA scope => some ⟨1#3, 0#1, scope, 0#5, 0#5, 1#3, 0#5, 123#7⟩
  | .fenceS scope => some ⟨1#3, 1#1, scope, 0#5, 0#5, 1#3, 0#5, 123#7⟩
  | .fenceOwn => some ⟨2#3, 0#1, 0#3, 0#5, 0#5, 1#3, 0#5, 123#7⟩
  | .fenceFar rs1 rs2 => some ⟨2#3, 0#1, 1#3, rs2, rs1, 1#3, 0#5, 123#7⟩
  | .waitaEqW rd rs1 rs2 => some ⟨0#3, 0#1, 0#3, rs2, rs1, 2#3, rd, 123#7⟩
  | .waitaNeW rd rs1 rs2 => some ⟨0#3, 0#1, 1#3, rs2, rs1, 2#3, rd, 123#7⟩
  | .waitaEqD rd rs1 rs2 => some ⟨0#3, 0#1, 2#3, rs2, rs1, 2#3, rd, 123#7⟩
  | .waitaNeD rd rs1 rs2 => some ⟨0#3, 0#1, 3#3, rs2, rs1, 2#3, rd, 123#7⟩
  | .wfe => some ⟨0#3, 1#1, 0#3, 0#5, 0#5, 2#3, 0#5, 123#7⟩
  | .sev rs1 => some ⟨0#3, 1#1, 1#3, 0#5, rs1, 2#3, 0#5, 123#7⟩
  | .rbcfg rs1 num => some ⟨0#3, 0#1, 0#3, 0#5, rs1, 3#3, num, 123#7⟩
  | .msgSend rs1 rs2 => some ⟨0#3, 0#1, 1#3, rs2, rs1, 3#3, 0#5, 123#7⟩
  | .msgWait rd rs1 num => some ⟨0#3, 0#1, 2#3, num, rs1, 3#3, rd, 123#7⟩
  | .bcfg rs1 bar => some ⟨bar.extractLsb' 4 3, bar.extractLsb' 3 1, bar.extractLsb' 0 3, 0#5, rs1, 4#3, 0#5, 123#7⟩
  | .barrTeam rd bar => some ⟨bar.extractLsb' 4 3, bar.extractLsb' 3 1, bar.extractLsb' 0 3, 1#5, 0#5, 4#3, rd, 123#7⟩
  | .barrField rd bar => some ⟨bar.extractLsb' 4 3, bar.extractLsb' 3 1, bar.extractLsb' 0 3, 2#5, 0#5, 4#3, rd, 123#7⟩
  | .bwait rs1 bar => some ⟨bar.extractLsb' 4 3, bar.extractLsb' 3 1, bar.extractLsb' 0 3, 3#5, rs1, 4#3, 0#5, 123#7⟩
  | .bstat rd bar => some ⟨bar.extractLsb' 4 3, bar.extractLsb' 3 1, bar.extractLsb' 0 3, 4#5, 0#5, 4#3, rd, 123#7⟩
  | .epush rs1 eng => some ⟨0#3, 0#1, 0#3, 0#5, rs1, 5#3, eng, 123#7⟩
  | .epop rd rs1 => some ⟨0#3, 0#1, 1#3, 0#5, rs1, 5#3, rd, 123#7⟩
  | .spush rs1 => some ⟨0#3, 0#1, 2#3, 0#5, rs1, 5#3, 0#5, 123#7⟩
  | .spop rd rs1 => some ⟨0#3, 0#1, 3#3, 0#5, rs1, 5#3, rd, 123#7⟩
  | .seal rd rs1 rs2 => some ⟨0#3, 0#1, 4#3, rs2, rs1, 5#3, rd, 123#7⟩
  | .unseal rs1 => some ⟨0#3, 0#1, 5#3, 0#5, rs1, 5#3, 0#5, 123#7⟩
  | .sealrd rd rs1 => some ⟨0#3, 0#1, 6#3, 0#5, rs1, 5#3, rd, 123#7⟩
  | .sweep rd rs1 => some ⟨0#3, 0#1, 0#3, 0#5, rs1, 6#3, rd, 123#7⟩
  | .swake rs1 rs2 => some ⟨0#3, 0#1, 1#3, rs2, rs1, 6#3, 0#5, 123#7⟩
  | .cld rd fld => some ⟨1#3, 0#1, 0#3, fld, 0#5, 6#3, rd, 123#7⟩
  | .nld rd fld => some ⟨1#3, 0#1, 1#3, fld, 0#5, 6#3, rd, 123#7⟩
  | .cst rs1 fld => some ⟨1#3, 0#1, 2#3, 0#5, rs1, 6#3, fld, 123#7⟩
  | .semit rs1 => some ⟨1#3, 0#1, 3#3, 0#5, rs1, 6#3, 0#5, 123#7⟩
  | .swaitStep => some ⟨1#3, 0#1, 4#3, 0#5, 0#5, 6#3, 0#5, 123#7⟩
  | .swaitNb => some ⟨1#3, 0#1, 5#3, 0#5, 0#5, 6#3, 0#5, 123#7⟩
  | .swaitCnt rs1 => some ⟨1#3, 0#1, 6#3, 0#5, rs1, 6#3, 0#5, 123#7⟩
  | .swaitKey rs1 => some ⟨1#3, 0#1, 7#3, 0#5, rs1, 6#3, 0#5, 123#7⟩
  | .sdone => some ⟨1#3, 1#1, 0#3, 0#5, 0#5, 6#3, 0#5, 123#7⟩
  | .ckptStep => some ⟨0#3, 0#1, 0#3, 0#5, 0#5, 7#3, 0#5, 123#7⟩
  | .yieldSlot rs1 => some ⟨0#3, 0#1, 1#3, 0#5, rs1, 7#3, 0#5, 123#7⟩
  | .rebuild rd rs1 => some ⟨0#3, 0#1, 2#3, 0#5, rs1, 7#3, rd, 123#7⟩
  | .wsw rs1 => some ⟨0#3, 0#1, 3#3, 0#5, rs1, 7#3, 0#5, 123#7⟩
  | .dsw rs1 => some ⟨0#3, 0#1, 4#3, 0#5, rs1, 7#3, 0#5, 123#7⟩
  | .follow rs1 rs2 => some ⟨0#3, 0#1, 5#3, rs2, rs1, 7#3, 0#5, 123#7⟩
  | .dbgStepdrain rs1 rs2 => some ⟨0#3, 0#1, 6#3, rs2, rs1, 7#3, 0#5, 123#7⟩
  | .voteAnd rd rs1 => some ⟨0#3, 1#1, 0#3, 0#5, rs1, 7#3, rd, 123#7⟩
  | .voteOr rd rs1 => some ⟨0#3, 1#1, 1#3, 0#5, rs1, 7#3, rd, 123#7⟩
  | .voteMax rd rs1 => some ⟨0#3, 1#1, 2#3, 0#5, rs1, 7#3, rd, 123#7⟩
  | .voteSum rd rs1 => some ⟨0#3, 1#1, 3#3, 0#5, rs1, 7#3, rd, 123#7⟩
  | .voteAndP rd rs1 => some ⟨0#3, 1#1, 4#3, 0#5, rs1, 7#3, rd, 123#7⟩
  | .voteOrP rd rs1 => some ⟨0#3, 1#1, 5#3, 0#5, rs1, 7#3, rd, 123#7⟩
  | .voteMaxP rd rs1 => some ⟨0#3, 1#1, 6#3, 0#5, rs1, 7#3, rd, 123#7⟩
  | .voteSumP rd rs1 => some ⟨0#3, 1#1, 7#3, 0#5, rs1, 7#3, rd, 123#7⟩
  | .launchLanding _ _ => none
  | .launchParse => none
  | .launchCompletion _ => none
  | .fieldPlacement _ _ => none
  | .taskLoad _ => none
  | .powerGate _ => none
  | .clusterWake _ => none
  | .selfTick => none
  | .rebase => none
  | .slotEdge => none
  | .drainEnd => none
  | .slotOverrun => none
  | .checkpointEnd _ _ => none
  | .quiescence _ => none
  | .leaseRevocation _ => none
  | .watchdogFreeze _ => none
  | .directoryMerge _ _ => none
  | .atomicopCompletion _ _ => none
  | .atomicopTimeout _ => none
  | .patrolPass _ => none
  | .throttle _ => none
  | .moduleReset => none
  | .homeRequest _ _ => none
  | .ownershipRequest _ _ => none
  | .ownerRecall _ => none
  | .ownerRecallAnswer _ _ _ => none
  | .storePerform _ => none
  | .evictionWriteBackRequest _ _ => none
  | .writeBackGrant _ _ => none
  | .writeBackData _ _ _ => none
  | .cleanOwnedNotice _ _ => none
  | .homeWrite _ _ _ => none
  | .engineHomeRead _ _ _ => none
  | .waiterWake _ => none
  | .hostRequest _ _ _ _ => none
  | .hostAtomicop _ _ _ _ _ => none
  | .pageWalk _ _ _ => none
  | .translationInvalidateRange => none
  | .translationInvalidateTenant => none
  | .setGranuleOwner => none
  | .checkpointRestore => none
  | .checkpointTake => none
  | .firmwareUpdate => none
  | .decodeTableInstall => none
  | .decodeTableRemove => none
  | .capsuleInstall => none
  | .capsuleDelete => none
  | .capsuleRebuild => none
  | .firstUseRebuild _ => none
  | .rebuildEnd _ => none
  | .slotTableShadowWrite _ _ => none
  | .slotControlWrite _ => none
  | .partitionWrite _ _ _ _ => none
  | .pairingWrite _ _ => none
  | .lctlResume _ => none
  | .lctlTrapResume _ => none
  | .lctlStep _ => none
  | .lctlEndTask _ => none
  | .lctlFreeze _ => none
  | .lensWrite _ _ _ _ => none
  | .faultQueueHeadWrite _ _ => none
  | .errorCounterClear _ => none
  | .portCommandPush _ _ => none
  | .portResultPop _ _ => none
  | .portResultLatchRead _ => none
  | .registerWrite _ _ _ => none
  | .sectorComplete _ => none
  | .sectorFault _ => none
  | .engineByteReport _ => none
  | .barrierArrival _ => none
  | .messageLanding _ _ => none
  | .sweepPassStart _ => none
  | .groupCommit _ => none
  | .interrupt _ => none
  | .agentDeclaredDead _ => none
  | .linkFlitCrcFail _ _ => none
  | .illegalInstruction _ => none
  | .singleFault _ => none
  | .patrolScrubRead _ => none
  | .waitaReread _ => none
  | .hostRecallAnswer _ _ _ _ => none
  | .cxlTransactionCompletion _ _ => none
  | .remoteModuleRequest _ _ _ _ _ _ => none
  | .remoteModuleReply _ _ _ => none

/-- The word of an instruction; an event has none. -/
def encode (i : Instr) : Option IWord := (encodeFields i).map Fields.join

/-- The decoder's reading of a table row's bits: the first word is the only one, four bytes little-endian (R36). -/
noncomputable def decodeTableWord (nbits w : Nat) : Option Instr :=
  let x := w % 2 ^ nbits
  match decodeBytes [BitVec.ofNat 8 x, BitVec.ofNat 8 (x / 2 ^ 8), BitVec.ofNat 8 (x / 2 ^ 16), BitVec.ofNat 8 (x / 2 ^ 24)] with
  | .ok (i, _) => some i
  | .error _ => none

end Sys2Proof
end

