-- ==== Sys2Proof/Machine/Tbl.lean ====
section
/-! DEFINITION. Sparse tables in one canonical form: keys strictly rising, no entry equal to what an unlisted key reads as. Memory, the cores, the clusters and the tables of the K5 are all held so. -/

namespace Sys2Proof.Machine

/-- A table from numbers to data: listed entries only, keys rising. -/
abbrev Tbl (α : Type) := List (Nat × α)

/-- The entry at key `k`; an unlisted key reads as `d`. -/
def Tbl.get {α : Type} (d : α) : Tbl α → Nat → α
  | [], _ => d
  | (j, a) :: t, k => if j = k then a else if k < j then d else Tbl.get d t k

/-- Put `v` at key `k`, keeping the canonical form: storing `d` removes the entry (and whatever stands out of order after it, which
a canonical table never has). -/
def Tbl.set {α : Type} [DecidableEq α] (d : α) : Tbl α → Nat → α → Tbl α
  | [], k, v => if v = d then [] else [(k, v)]
  | (j, a) :: t, k, v =>
    if j = k then (if v = d then t.dropWhile (fun e => decide (e.1 ≤ k)) else (k, v) :: t)
    else if k < j then (if v = d then (j, a) :: t else (k, v) :: (j, a) :: t)
    else (j, a) :: Tbl.set d t k v

/-- Is every listed key above `lo` (when given), rising, and no entry the default? -/
def Tbl.wfAbove {α : Type} [DecidableEq α] (d : α) : Nat → Tbl α → Bool
  | _, [] => true
  | lo, (k, v) :: t => decide (lo ≤ k) && !decide (v = d) && Tbl.wfAbove d (k + 1) t

/-- The canonical form of a table. -/
def Tbl.wf {α : Type} [DecidableEq α] (d : α) (t : Tbl α) : Bool := Tbl.wfAbove d 0 t

/-- Remove every entry whose key lies in `[lo, hi)`: those keys read as the default again. -/
def Tbl.clear {α : Type} (t : Tbl α) (lo hi : Nat) : Tbl α :=
  t.filter (fun e => !(decide (lo ≤ e.1) && decide (e.1 < hi)))

/-- Byte memory: one table for every byte the machine can name, keyed by place (see `Space`); an unlisted byte reads as 0. -/
abbrev Mem := List (Nat × BitVec 8)

/-- What a byte that nothing has written reads as (DESIGN CHOICE, log 4). -/
def Mem.blank : Byte := 0#8

/-- One byte of memory. -/
def Mem.byte (m : Mem) (k : Nat) : Byte := Tbl.get Mem.blank m k

/-- Write one byte. -/
def Mem.put (m : Mem) (k : Nat) (b : Byte) : Mem := Tbl.set Mem.blank m k b

/-- The canonical form of memory. -/
def Memory.wf (m : Mem) : Bool := Tbl.wf Mem.blank m

/-- `n` bytes at `k`, little-endian, as a number (R99). -/
def Mem.read (m : Mem) (k : Nat) : Nat → Nat
  | 0 => 0
  | n + 1 => (m.byte k).toNat + 256 * Mem.read m (k + 1) n

/-- Write the low `n` bytes of `v` at `k`, little-endian (R99). -/
def Mem.write (m : Mem) (k : Nat) : Nat → Nat → Mem
  | 0, _ => m
  | n + 1, v => Mem.write (m.put k (BitVec.ofNat 8 v)) (k + 1) n (v / 256)

/-- Write a list of bytes from `k` upward. -/
def Mem.writeBytes (m : Mem) (k : Nat) : List Byte → Mem
  | [] => m
  | b :: t => Mem.writeBytes (m.put k b) (k + 1) t

/-- The `n` bytes from `k` upward. -/
def Mem.readBytes (m : Mem) (k : Nat) : Nat → List Byte
  | 0 => []
  | n + 1 => m.byte k :: Mem.readBytes m (k + 1) n

/-- The little-endian number a list of bytes holds. -/
def bytesToNat : List Byte → Nat
  | [] => 0
  | b :: t => b.toNat + 256 * bytesToNat t

/-- The low `n` bytes of a number, little-endian. -/
def natToBytes : Nat → Nat → List Byte
  | 0, _ => []
  | n + 1, v => BitVec.ofNat 8 v :: natToBytes n (v / 256)

/-- Bits `h` down to `l` of a number. -/
def natBits (v h l : Nat) : Nat := (v >>> l) % 2 ^ (h + 1 - l)

end Sys2Proof.Machine
end

