-- ==== Sys2Proof/Machine/State.lean ====
section
/-! DEFINITION. The state of one K5 module, as plain data: everything the spec gives the machine, and the model's own book-keeping (the schedule, the acting agent, the counter of free values). -/

namespace Sys2Proof.Machine

/-- The privilege modes (R268). -/
inductive Mode where
  | u | s
  deriving DecidableEq, Repr

/-- Reasons for which a step stops with a fault. No rule of the spec stops the module: every trap, wait and refusal of a command is a next state. Nothing raises this one in the model; it is safe. -/
inductive Fault where
  /-- Raised by nothing: kept so that the type is inhabited. Safe. -/
  | halted
  deriving DecidableEq, Repr

/-- Reasons for which a step is refused. -/
inductive Refusal where
  /-- The arm of `exec` has no meaning yet (raised by Dispatch only). Safe. -/
  | notModelled (mnemonic : String)
  deriving DecidableEq, Repr

/-- An agent that runs instructions: a core, or a lane of a cluster's sweep engine. -/
inductive Actor where
  | core (n : Nat)
  | lane (cluster lane : Nat)
  deriving DecidableEq, Repr

/-- What one turn of the schedule does. -/
inductive Act where
  /-- The agent runs its next instruction. -/
  | run (a : Actor)
  /-- An event row of the table happens. -/
  | event (i : Instr)
  /-- The server aborts launch `jseq` (R189, R242), for which the table has no row (log 23). -/
  | abort (jseq : Nat)
  deriving DecidableEq, Repr

/-- One turn: so many arithmetic cycles pass, then the act (log 5, log 6). -/
structure Turn where
  gap : Nat
  act : Act
  deriving DecidableEq, Repr

/-- User-level CSRs (R78). -/
structure Csr where
  lease : BitVec 11
  acfg : BitVec 5
  srstate : Word
  vmsel : BitVec 4
  scbchk : BitVec 1
  dsel : BitVec 4
  wsp : BitVec 42
  lclk : Nat
  coord : Word
  lcore : BitVec 32
  ptag : BitVec 32
  ckstep : BitVec 32
  hintdrop : BitVec 32
  deriving DecidableEq, Repr

/-- Supervisor CSRs (R78); sip.SSIP is computed from the frozen cores (R358). -/
structure Sup where
  spp : Bool
  spie : Bool
  sie : Bool
  seie : Bool
  ssie : Bool
  stvec : Word
  sscratch : Word
  sepc : Word
  scause : Word
  stval : Word
  seip : Bool
  deriving DecidableEq, Repr

/-- Where a window access reaches: the entry, the first stored byte, how many, the slot's parity, and the scale byte (R95). -/
structure WinPlace where
  entry : Word
  byteoff : Nat
  count : Nat
  odd : Bool
  scale : Option Nat
  deriving DecidableEq, Repr

/-- A place of one piece of a row that `macc.st` stores (R318). -/
inductive Spot where
  | cached (key : Nat)
  | scratch (core off : Nat)
  | cxl (key : Nat)
  | remote (ea : Word)
  | ctrl (off : Nat)
  deriving DecidableEq, Repr

/-- A place a checked access reaches. Keys number every byte of memory (see `Space`). -/
inductive Place where
  /-- LPDDR or package scratchpad: through L1 and the home slices (R114). -/
  | cached (key : Nat)
  /-- A byte of a core's scratchpad. -/
  | scratch (core off : Nat)
  /-- Host memory or pool memory: one transaction (R142). -/
  | cxl (key : Nat)
  /-- Memory of another module (R87). -/
  | remote (ea : Word)
  /-- A control-region register (R184, R206). -/
  | ctrl (off : Nat)
  /-- A prism window of the own scratchpad (R93). -/
  | window (w off : Nat)
  /-- Elements of 4 bits of a core's scratchpad from a byte on, the low half of each byte first (R96); of a store only. -/
  | nibbles (core off : Nat)
  /-- Words of 4 bytes of a core's scratchpad at these offsets, reached in one access (R297); of a store only. -/
  | words (core : Nat) (offs : List Nat)
  /-- Elements of a block-scaled window of a core, in rising order, each with its value, and acfg as it stood at retirement: encoded when they
are written (R95, R97); of a store only. -/
  | scaled (core w : Nat) (acfg : BitVec 5) (elems : List (WinPlace × Nat))
  /-- A row of 96 elements in pieces, each with its length in bytes, reached in one access (R318); of a store only. -/
  | row (pieces : List (Spot × Nat))
  deriving DecidableEq, Repr

/-- A store that has retired and waits in the store buffer (R125, R259): bytes at a place; a byte that is `none` is not written. At a place
of 4-bit elements each entry of `bytes` is one element. -/
structure Store where
  place : Place
  bytes : List (Option Byte)
  asid : Nat
  deriving DecidableEq, Repr

/-- An L1 data line (R118): ST is 01 or 10 for a listed line. TPAR is computed from the timestamps. -/
structure L1Line where
  line : Nat
  owned : Bool
  hown : BitVec 2
  hdirty : BitVec 2
  watch : Bool
  wts : Nat
  fin : Nat
  granted : Bool
  data : BitVec 1024
  deriving DecidableEq, Repr

/-- A TLB entry: one page of any size (R150). -/
structure TlbEntry where
  ten : Nat
  asid : Nat
  va : Nat
  size : Nat
  pa : Nat
  bk : Nat
  r : Bool
  w : Bool
  x : Bool
  mro : Bool
  d : Bool
  deriving DecidableEq, Repr

/-- A custom-0 result that is not yet written, or one written while an earlier result of the register is still to come: register 0 to 31 is a
v register, 32 to 39 a mask (R46, R48). -/
structure VPend where
  reg : Nat
  fin : Nat
  /-- What the register held before. -/
  old : BitVec 512
  new : BitVec 512
  /-- A write that completes in the same cycle stands instead. -/
  lost : Bool
  deriving DecidableEq, Repr

/-- An element of a result queue (R201, R371). -/
structure ResElt where
  tag : Word
  done : BitVec 32
  status : BitVec 16
  fidx : BitVec 16
  ended : Bool
  mark : Nat
  cmd : Nat
  /-- Its place in the order in which the queue's commands ended, from 1 (R201); 0 before it has ended. -/
  order : Nat
  deriving DecidableEq, Repr

/-- How a core stands frozen (R222, R270): LSTAT's code, the Lens sepc and stval words, the route, and a resume written while the tenant is not active. -/
structure Freeze where
  code : Nat
  epc : Word
  tval : Word
  buddy : Bool
  since : Nat
  deriving DecidableEq, Repr

/-- The task or idle rank a core holds (R13 to R17). -/
structure Task where
  jseq : Nat
  stage : Nat
  field : Nat
  team : Nat
  rank : Nat
  index : Nat
  caps : Nat
  ten : Nat
  idle : Bool
  deriving DecidableEq, Repr

/-- An instruction a leader has retired, for its followers: its word, its address, the address after it and, for a branch, whether it was
taken (R24, R25). `early` marks an aggregated add, which its leader forwards as it issues (R330). -/
structure Fwd where
  word : IWord
  pc : Word
  next : Word
  taken : Bool
  early : Bool
  deriving DecidableEq, Repr

/-- What the core waits for before its next instruction can retire. -/
inductive Wait where
  | none
  | barrier | message | event | hold | pop
  /-- `waita`: asleep until woken (R333). -/
  | waita (asleep : Bool)
  | lease | ring | vote | agg | gred | follow | sweep
  /-- A home request held by a host recall (R139) or a clock above the ceiling (R120). -/
  | home
  | cxl
  /-- A PCIe AtomicOp, with the cycle in which it was sent (R357). -/
  | atomicOp (sent : Nat)
  | remote | interrupt | unseal | rebuild | fence | message4
  deriving DecidableEq, Repr

/-- What a core has brought to a rendezvous, or a note of its own on the instruction it waits in. -/
inductive Contrib where
  | none
  | vote (op : Nat) (plan : Bool) (value : BitVec 32)
  | agg (word : Bool) (so : Nat) (ea value : Word)
  | gred (float : Bool) (acc n : Nat)
  /-- `follow`: the barrier, PH and the number of completions by arrivals as they stood here, the leader, and whether the leader's own wait on the
  barrier has observed this completion (R351). -/
  | follow (bar : Nat) (ph : Bool) (done : Nat) (leader : Nat) (seen : Bool)
  | rebuild (caps : Nat) (mine : Bool)
  /-- The array's lease was granted after this previous rank (16 for none; R306). -/
  | granted (prev : Nat)
  deriving DecidableEq, Repr

/-- A CXL transaction or AtomicOp on its way (R142, R356). -/
inductive CxlReq where
  | write (key : Nat) (bytes : List (Option Byte))
  | read (key n : Nat)
  /-- A masked read: of the bytes that are wanted only (R292). -/
  | readSome (key : Nat) (want : List Bool)
  | atomic (key n : Nat) (op : Nat) (value comparand : Word)
  deriving DecidableEq, Repr

/-- What came back for the access a core waits for. -/
inductive Reply where
  | none
  /-- The bytes of the accesses that have completed, in their order. -/
  | value (v : List Byte)
  /-- The access after these bytes reported an error; `page` when the walk of another module faulted (R149, R260). -/
  | error (v : List Byte) (page : Bool)
  deriving DecidableEq, Repr

/-- One compute core. -/
structure Core where
  x : Vector Word 32
  v : Vector (BitVec 512) 32
  m : Vector Word 8
  pc : Word
  mode : Mode
  csr : Csr
  sup : Sup
  q : Vector Word 16
  mc : Vector (BitVec 32) 16
  bar : Vector Word 128
  bm : Vector Nat 128
  /-- (barrier, team) pairs whose idle ranks are counted in the present phase (R235). -/
  bseen : List (Nat × Nat)
  /-- How often arrivals have completed each barrier word since task start (the model's own: a completion that several cores observe has one number,
  R351). -/
  bdone : Tbl Nat
  win : Vector Word 16
  rb : Vector Word 16
  results : List ResElt
  ev : Bool
  swm : Nat
  scm : Nat
  sb : List Store
  /-- L1 data lines, most recently used first (R115). -/
  l1 : List L1Line
  vb : List L1Line
  tlb : List TlbEntry
  /-- The scratchpad's watch table: (waiting core, 128-byte block) (R333). -/
  watches : List (Nat × Nat)
  /-- The next cycle in which the vector unit may issue (R46). -/
  vnext : Nat
  vpend : List VPend
  frz : Option Freeze
  /-- LCTL 3 has ordered one instruction, then a freeze (R222). -/
  stepping : Bool
  /-- Commands and messages numbered from here on are those of the stepped instruction (R352). -/
  stepFrom : Nat
  /-- LCTL 5: freeze at the next instruction boundary (R222). -/
  frzReq : Bool
  stepdrain : Bool
  /-- A resume written while the tenant is not active: 1, 2 or 3 (R222); 0 for none. -/
  resume : Nat
  task : Option Task
  lead : Option Nat
  fwd : List Fwd
  wait : Wait
  contrib : Contrib
  cxl : List CxlReq
  remStores : List Store
  remAsked : Bool
  /-- One past the gtc of the latest acquire at domain or system scope; 0 before any (R175). -/
  mirMark : Nat
  reply : Reply
  /-- A trap of the core's sweep that struck while it stood frozen: the address of the `sweep`, the cause and the stval, which its
re-execution raises (R167). -/
  sweepTrap : Option (Word × Nat × Word)
  /-- A check of the core's own units has failed: cause 51 at its next instruction boundary (R245). -/
  check : Bool
  /-- The gtc of the last retirement (R221). -/
  lastRet : Nat
  inc : BitVec 16
  /-- The word the core fetched last (the model's own; a trap of cause 2 puts it in stval). -/
  iw : IWord
  deriving DecidableEq, Repr

/-- Power state of a cluster (R20). -/
inductive Power where
  | gated
  | waking (ready : Nat)
  | awake
  deriving DecidableEq, Repr

/-- A seal-table entry (R145). -/
structure Seal where
  s : Bool
  cnt : Nat
  lm1 : Nat
  base : Nat
  deriving DecidableEq, Repr

/-- A scale record of a tile (R302). -/
structure Scale where
  rv : Bool
  rsc : BitVec 512
  csc : BitVec 768
  deriving DecidableEq, Repr

/-- A copy command in an engine (R199): its 64 bytes, who pushed it, how far it has come, and the seal entries it holds (R240). -/
structure Cmd where
  raw : BitVec 512
  id : Nat
  core : Option Nat
  ten : Nat
  asid : Nat
  lcore : Nat
  jseq : Nat
  sector : Nat
  start : Nat
  done : Nat
  refs : List Nat
  /-- A fault whose record found the queue full: sector, ADDR, KACC (R205). -/
  pend : Option (Nat × Nat × Nat)
  deriving DecidableEq, Repr

/-- A copy engine (R198, R371). `held` are the pushes that the port holds, oldest first (R374). -/
structure Engine where
  cur : Option Cmd
  shd : Option Cmd
  queue : List Cmd
  ewm : Nat
  results : List ResElt
  latch : Option Word
  held : List (BitVec 512)
  /-- The latest `epush`: its cycle and its core (R198). -/
  last : Option (Nat × Nat)
  deriving DecidableEq, Repr

/-- How a sweep lane stands. -/
inductive LaneState where
  /-- Has a next instruction. -/
  | running
  /-- Stalls in `swait.nb`. -/
  | neighbour
  /-- Its latest segment ended at this group; `key` says at `swait.key`. -/
  | ended (key : Bool)
  /-- Runs no segment in this group. -/
  | idle
  deriving DecidableEq, Repr

/-- One sweep lane: its element, its registers (R77), and the uncommitted context, data and emits (R163). -/
structure Lane where
  elem : Nat
  st : LaneState
  idx : Nat
  count : Nat
  x : Vector Word 8
  e : Vector (BitVec 32) 8
  ctx : BitVec 128
  data : List Byte
  skip : Bool
  emits : List (BitVec 32)
  /-- A satisfied `swait.nb` in this segment (R163). -/
  near : Bool
  /-- Visited in this group (a body segment ran or a count wait stepped). -/
  visited : Bool
  /-- Context and data as the element's latest segment left them, or as the group loaded (R163). -/
  leftCtx : BitVec 128
  leftData : List Byte
  deriving DecidableEq, Repr

/-- A sweep pass under way (R157, R158). -/
structure Pass where
  core : Nat
  /-- The address of its `sweep`. -/
  pc : Word
  /-- The x register that the `sweep` names as rd. -/
  rd : Nat
  desc : Nat
  dbase : Nat
  ebase : Nat
  ecap : Nat
  fmt : Nat
  width : Nat
  count : Nat
  ctxoff : Nat
  body : Nat
  words : Nat
  caps : Nat
  ten : Nat
  dsel : BitVec 4
  cur : Nat
  waitn : Nat
  ecnt : Nat
  started : Bool
  loaded : Bool
  lanes : List Lane
  /-- Fields of the group's elements and of the one before it, as the group loaded: (element, context, data). -/
  snap : List (Nat × BitVec 128 × List Byte)
  /-- Wakes of cores held until the group commits (R164). -/
  wakes : List (Nat × BitVec 32)
  /-- In-group wakes of a body to elements outside the group (R164). -/
  bodyWakes : List (Nat × BitVec 32)
  /-- The cycle in which its `sweep` reached the engine (R364). -/
  arrived : Nat
  /-- A freeze of its core has ordered it to stop at the next group boundary (R166). -/
  stop : Bool
  /-- ADDR and KACC of a fault of the engine that found the fault queue full and waits (R205). -/
  recordWaits : Option (Nat × Nat)
  deriving DecidableEq, Repr

/-- One cluster (R5). -/
structure Cluster where
  power : Power
  /-- The gtc since which the cluster holds no team and no field waits for it (R20). -/
  idleSince : Nat
  /-- The tenant whose residue the cluster holds (R216). -/
  user : Option Nat
  /-- The array's lease: the holder and the previous holder by the logical core number of their tasks (R302), and the waiting cores. -/
  holder : Option Nat
  lastHolder : Option Nat
  lwait : List Nat
  /-- The clock that the latest release of the lease left, which the next holder takes (R127, R306). -/
  relClk : Nat
  /-- The core whose task ended while it held the lease: its stores are the release that the next grant waits for (R307, R309). -/
  relFrom : Option Nat
  /-- Active-slot cycles counted toward revocation (R308). -/
  lidle : Nat
  /-- Accumulator rows, key 64 × tile + row, 96 elements of 32 bits (R76). -/
  acc : Tbl (BitVec 3072)
  /-- Poisoned words of accumulator memory: (64 × tile + row, element) (R245, R246). -/
  accPoison : List (Nat × Nat)
  status : Vector Word 8
  prog : Vector Word 8
  scale : Vector Scale 8
  /-- A row whose residue check will fail (R245). -/
  badRow : Option Nat
  seals : Vector Seal 32
  eng : Engine
  pass : Option Pass
  /-- Passes that have reached the engine and wait, in order (R158, R364). -/
  passes : List Pass
  sweepEwm : Nat
  tlb : List TlbEntry
  deriving DecidableEq, Repr

/-- A line's record at its home (R119). -/
structure LlcLine where
  line : Nat
  way : Nat
  mir : Bool
  wait : Bool
  ov : Bool
  owner : Nat
  wts : Nat
  rts : Nat
  deriving DecidableEq, Repr

/-- A directory entry of a slice (R137): `ag` holds AG, `base` the first line, `last` the gtc of the latest request (QT is computed from it). -/
structure DirEntry where
  slice : Nat
  sz : Nat
  base : Nat
  ag : BitVec 16
  last : Nat
  deriving DecidableEq, Repr

/-- A recall of a host agent's half that has not been answered (R139). -/
structure HostRecall where
  agent : Nat
  line : Nat
  half : Nat
  toShared : Bool
  deriving DecidableEq, Repr

/-- A mirror replica (R143). -/
structure Replica where
  line : Nat
  slice : Nat
  jseq : Nat
  ten : Nat
  data : BitVec 1024
  /-- The gtc in which it was made (an acquire at domain scope makes a core ignore older ones, R175). -/
  born : Nat
  deriving DecidableEq, Repr

/-- The home slices (R114 to R140). -/
structure Home where
  llc : List LlcLine
  emark : Tbl Nat
  waiters : List (Nat × Nat)
  wakes : List Nat
  dir : List DirEntry
  /-- Write-back requests sent to owners: line, core, incarnation (R123). -/
  recalls : List (Nat × Nat × BitVec 16)
  hostRecalls : List HostRecall
  replicas : List Replica
  /-- Poisoned protected words: key / 8 (R246). -/
  poison : List Nat
  deriving DecidableEq, Repr

/-- Capsule states (R225). -/
inductive CapSt where
  | free | installing | sealed | void | deleted
  deriving DecidableEq, Repr

/-- A tensor declaration (R154). -/
structure Tensor where
  fmt : Nat
  width : Nat
  count : Nat
  ctx : Nat
  deriving DecidableEq, Repr

/-- A capsule entry (R225) and what install read from the form (R372). -/
structure Caps where
  st : CapSt
  rb : Bool
  ten : Nat
  dsel : BitVec 4
  nins : Nat
  nctx : BitVec 16
  nrun : BitVec 16
  gen : BitVec 16
  fw : BitVec 32
  pf : Word
  digest : BitVec 256
  /-- The SM2 signature over the digest (R10). -/
  sig : BitVec 512
  /-- (entry index, gang width, gang height) of each stage. -/
  stages : List (Nat × Nat × Nat)
  windows : List Word
  tensors : List Tensor
  /-- (first word, words) of each sweep body. -/
  bodies : List (Nat × Nat)
  plans : Option (List (BitVec 128))
  deriving DecidableEq, Repr

/-- A fault queue (R205, R360): `waiting` holds records that found the queue full. -/
structure FaultQ where
  head : Nat
  next : Nat
  waiting : List (BitVec 512 × BitVec 512)
  deriving DecidableEq, Repr

/-- A command block (R207): the latest accepted sequence value, the landing that waits, the command that runs, and bytes 0 to 55 as it read
them. The number beside the running command is 0 until it is under way, then 1 more than the argument it keeps. -/
structure Block where
  latest : Word
  pending : Option Word
  running : Option (Word × Nat)
  raw : BitVec 448
  deriving DecidableEq, Repr

/-- A tenant's checkpoint configuration (R229). -/
structure Ckpt where
  safe : Word
  ckn : BitVec 32
  ckt : BitVec 32
  last : Word
  next : Word
  /-- OP 2 of the command block has ordered a checkpoint (R208). -/
  ordered : Bool
  deriving DecidableEq, Repr

/-- One stage of an accepted launch. -/
structure StageRun where
  tcnt : Nat
  w : Nat
  placed : Nat
  ended : Nat
  deriving DecidableEq, Repr

/-- An accepted launch that has not ended (R185, R190). -/
structure Launch where
  jseq : Nat
  slot : Nat
  caps : Nat
  ten : Nat
  asid : Nat
  jseed : Word
  caddr : Word
  dep0 : Nat
  dep1 : Nat
  args : List Word
  stages : List StageRun
  running : Bool
  gacc : Nat
  ntask : Nat
  nfault : Nat
  deriving DecidableEq, Repr

/-- A placed field (R13, R15, R219): the clusters of its teams in team order, clusters held idle (R361), logical cores loaded and ended, and the plan in force. -/
structure Field where
  jseq : Nat
  stage : Nat
  f : Nat
  teams : List Nat
  held : List Nat
  loaded : List Nat
  ended : List Nat
  plan : Nat
  deriving DecidableEq, Repr

/-- A stage queue (R194); CNT is the number of records. -/
structure StageQ where
  jseq : Nat
  stage : Nat
  cl : Bool
  dm1 : Nat
  tail : Nat
  head : Nat
  recs : List (BitVec 512)
  /-- The latest push and the latest pop: the cycle and the logical core (R195). -/
  pushed : Option (Nat × Nat)
  popped : Option (Nat × Nat)
  deriving DecidableEq, Repr

/-- A landing accepted at the launch window (R186). -/
structure Landing where
  slot : Nat
  record : List Byte
  /-- The cycle in which it landed (R187). -/
  cycle : Nat
  deriving DecidableEq, Repr

/-- A message in flight (R204, R337). -/
structure Msg where
  src : Nat
  dst : Nat
  buf : Nat
  slot : Nat
  ten : Nat
  srcInc : BitVec 16
  bytes : List Byte
  /-- Its number among the commands and messages sent (the model's own, R352). -/
  id : Nat
  /-- Its 8-byte words that a router's SRAM has found uncorrectable (R245, R246). -/
  bad : List Nat
  deriving DecidableEq, Repr

/-- The saved context of a tenant (R211, R218); `poison` lists the poisoned words of its saved scratchpads, as keys / 8 (R246), and `msgs` is
the router save buffer image (R204). -/
structure Ctx where
  cores : List (Nat × Core)
  clusters : List (Nat × Cluster)
  pads : List (Nat × List (Nat × BitVec 8))
  poison : List Nat
  engines : List (Nat × List Cmd)
  msgs : List Msg
  deriving DecidableEq, Repr

/-- A drain in progress (R211): who is drained, since when, the edge (or donation) that ordered it, whether it has overrun, who runs
next, whether a firmware update is made at its end (R231), the core whose `yield.slot` ordered it (R348), and, where a slot edge found the
tenant's checkpoint due, whether the command block had ordered it (R208, R229, R234). -/
structure Drain where
  ten : Option Nat
  started : Nat
  edge : Nat
  overrun : Bool
  next : Option Nat
  update : Bool
  yielder : Option Nat
  ckpt : Option Bool
  deriving DecidableEq, Repr

/-- A barrier update on its way (R235, R237): an arrival with its team and mark, or bytes with an engine's mark. -/
structure BarUpd where
  dst : Nat
  bar : Nat
  team : Option Nat
  amount : Nat
  mark : Nat
  /-- The agent that sent it and its incarnation number (R182): of a byte report, 10000 + the engine. -/
  agent : Nat
  inc : BitVec 16
  deriving DecidableEq, Repr

/-- A checkpoint image in the safe tier (R229, R230): `clusters` and `frames` are the tenant's clusters and LPDDR granules when it was taken, in
rising order. -/
structure Image where
  ten : Nat
  safe : Word
  clusters : List Nat
  frames : List Nat
  bytes : List (Nat × BitVec 8)
  ctx : Ctx
  caps : List (Nat × Caps)
  /-- The modules of the domain when it was taken (R230). -/
  shape : List Nat
  /-- The header: the SM3 digest, signed with the module's SM2 key (R229). -/
  digest : BitVec 256
  sig : BitVec 512
  deriving DecidableEq, Repr

/-- What leaves the module: answers to other modules and hosts (the model's own record). -/
inductive Out where
  | loadAsk (core : Nat) (ea : Word) (n : Nat)
  /-- `agent` is a core, or 10000 + an engine (agent numbers, R182). -/
  | storeAsk (agent : Nat) (ea : Word) (bytes : List (Option Byte))
  /-- The checks of a store that another module makes before the store retires (R259, R260). -/
  | checkAsk (core : Nat) (ea : Word) (n : Nat)
  /-- The masked forms: of the bytes that are wanted only (R292). -/
  | loadSome (core : Nat) (ea : Word) (want : List Bool)
  | checkSome (core : Nat) (ea : Word) (want : List Bool)
  /-- Would a 1-byte load there fault: asked by a hint of this task of the core (R241). -/
  | hintAsk (core : Nat) (task : Option Task) (ea : Word)
  | atomicAsk (core : Nat) (ea : Word) (n op : Nat) (value comparand : Word)
  | answer (data : List Byte) (good : Bool)
  | hostData (agent line half : Nat) (hold : HostHold) (data : BitVec 512) (poisoned : Bool)
  | hostAbort
  deriving DecidableEq, Repr

/-- Time (R120, R121, R233). -/
structure Time where
  gtc : Nat
  tbase : Nat
  g0 : Nat
  /-- Self-ticks performed (the model's own). -/
  ticks : Nat
  deriving DecidableEq, Repr

/-- Tables of the chapter "Tables" and the error counters. -/
structure Tabs where
  slots : Vector (BitVec 32) 64
  shadow : Vector (BitVec 32) 64
  cur : Nat
  dfl : BitVec 4
  run : Bool
  pend : Bool
  epoch : Nat
  parts : Tbl (BitVec 1024)
  pairs : Tbl Word
  dec : Tbl (List (BitVec 16))
  caps : Tbl Caps
  /-- Requests to the capsule loader, in arrival order: the server core that performs it, and the capsule to rebuild, or `none` for the command
  of the capsule block (R228). -/
  jobs : List (Nat × Option Nat)
  owners : Tbl (Option Nat)
  fqs : Tbl FaultQ
  cks : Tbl Ckpt
  /-- The tenant whose checkpoint streams, and whether the command block ordered that checkpoint (R208, R229). -/
  stream : Option (Nat × Bool)
  errs : Tbl Nat
  blocks : Tbl Block
  status : Tbl Word
  head : Nat
  tail : Nat
  gen : BitVec 16
  fw : BitVec 32
  /-- The body of the firmware image in force (R231). -/
  fwImage : List Byte
  /-- An update that waits for the next edge: image address and length (R231). -/
  fwPend : Option (Word × Word)
  bootRom : Bool
  /-- Tables whose digest no longer matches (0 slot, 1 partition, 2 pairing, 3 decode; R215). -/
  badCfg : List Nat
  servers : List Nat
  moduleNo : Nat
  domain : List Nat
  /-- Incarnations of agents other than cores (R182): agent number, 10000 on. -/
  incs : Tbl (BitVec 16)
  linkFails : Tbl Nat
  linkDown : List Nat
  images : List Image
  deriving DecidableEq, Repr

/-- The dispatcher (R19 to R23, R186 to R196, R209 to R214, R243). -/
structure Disp where
  landings : List Landing
  launches : List Launch
  fields : List Field
  queues : List StageQ
  ctxs : Tbl Ctx
  /-- The tenant that runs, if one does. -/
  active : Option Nat
  drain : Option Drain
  forfeit : List Nat
  quiet : Tbl Nat
  quietRaised : List Nat
  deriving DecidableEq, Repr

/-- Messages and reports in flight. -/
structure Net where
  msgs : List Msg
  arrivals : List BarUpd
  reports : List BarUpd
  outs : List Out
  deriving DecidableEq, Repr

/-- The updates that have reached a barrier word in one cycle, and the word, its mark and the teams whose idle ranks are counted as they stood
before them, or as a configuration of that cycle left them: the updates apply together (R75, R235, R237). -/
structure BarCycle where
  core : Nat
  bar : Nat
  cycle : Nat
  base : Word
  mark : Nat
  seen : List Nat
  /-- What counted in BARX before the updates: configurations of the cycle that found CNT non-zero. -/
  lost : Nat
  ups : List BarUpd
  deriving DecidableEq, Repr

/-- What a turn has done in a cycle that later turns of the same cycle must know. -/
inductive Note where
  /-- A matrix instruction popped this ring of the core (R325). -/
  | pop (core ring : Nat)
  /-- A `wfe` of the core retired (R183). -/
  | wfe (core : Nat)
  /-- An event reached the core, whose EV was as given (R334). -/
  | event (core : Nat) (ev : Bool)
  /-- A sealed entry of the cluster was unsealed (R240). -/
  | unseal (cluster : Nat) (e : Seal)
  /-- A `yield.slot` of the core retired (R348). -/
  | yield (core : Nat)
  deriving DecidableEq, Repr

/-- The model's own fields: what moves next (log 5), the acting agent, and how many free values have been taken (log 9). -/
structure Run where
  sched : List Turn
  cur : Actor
  free : Nat
  cmds : Nat
  /-- Barrier words that have been updated in the present cycle. -/
  bars : List BarCycle
  /-- Notes of the present cycle, each with its cycle. -/
  notes : List (Nat × Note)
  deriving DecidableEq, Repr

/-- The module. -/
structure State where
  time : Time
  cores : Tbl Core
  clusters : Tbl Cluster
  mem : Mem
  home : Home
  tabs : Tabs
  disp : Disp
  net : Net
  engines : Tbl Engine
  run : Run
  deriving DecidableEq, Repr

/-- CSRs after module reset (R78; log 1 where the table gives no value). -/
def Csr.reset : Csr where
  lease := 64#11
  acfg := 0#5
  srstate := 1#64
  vmsel := 8#4
  scbchk := 0#1
  dsel := 0#4
  wsp := 0x2200003F000#42
  lclk := 0
  coord := 0#64
  lcore := 0#32
  ptag := 0#32
  ckstep := 0#32
  hintdrop := 0#32

/-- Supervisor CSRs after module reset (R78). -/
def Sup.reset : Sup where
  spp := false
  spie := false
  sie := false
  seie := false
  ssie := false
  stvec := BitVec.ofNat 64 Config.serverEntry
  sscratch := 0#64
  sepc := 0#64
  scause := 0#64
  stval := 0#64
  seip := false

/-- A core right after module reset (R65, R73 to R75, R78; log 1 to 3). -/
def Core.reset : Core where
  x := Vector.replicate 32 0#64
  v := Vector.replicate 32 0#512
  m := Vector.replicate 8 0#64
  pc := BitVec.ofNat 64 Config.serverEntry
  mode := .s
  csr := Csr.reset
  sup := Sup.reset
  q := Vector.replicate 16 0#64
  mc := Vector.replicate 16 0#32
  bar := Vector.replicate 128 0#64
  bm := Vector.replicate 128 0
  bseen := []
  bdone := []
  win := Vector.replicate 16 0#64
  rb := Vector.replicate 16 0#64
  results := []
  ev := false
  swm := 0
  scm := 0
  sb := []
  l1 := []
  vb := []
  tlb := []
  watches := []
  vnext := 0
  vpend := []
  frz := none
  stepping := false
  stepFrom := 0
  frzReq := false
  stepdrain := false
  resume := 0
  task := none
  lead := none
  fwd := []
  wait := .none
  contrib := .none
  cxl := []
  remStores := []
  remAsked := false
  mirMark := 0
  reply := .none
  sweepTrap := none
  check := false
  lastRet := 0
  inc := 0#16
  iw := 0#32

/-- An empty engine (R198). -/
def Engine.empty : Engine where
  cur := none
  shd := none
  queue := []
  ewm := 0
  results := []
  latch := none
  held := []
  last := none

/-- A gated cluster that holds nothing (R20). -/
def Cluster.gated : Cluster where
  power := .gated
  idleSince := 0
  user := none
  holder := none
  lastHolder := none
  lwait := []
  relClk := 0
  relFrom := none
  lidle := 0
  acc := []
  accPoison := []
  status := Vector.replicate 8 0#64
  prog := Vector.replicate 8 0#64
  scale := Vector.replicate 8 ⟨false, 0#512, 0#768⟩
  badRow := none
  seals := Vector.replicate 32 ⟨false, 0, 0, 0⟩
  eng := Engine.empty
  pass := none
  passes := []
  sweepEwm := 0
  tlb := []

/-- The cluster with power applied: a cluster of the server mask after reset (R8, R20). -/
def Cluster.awake : Cluster := { Cluster.gated with power := .awake }

/-- A capsule entry that is free (R225). -/
def Caps.free : Caps where
  st := .free
  rb := false
  ten := 0
  dsel := 0#4
  nins := 0
  nctx := 0#16
  nrun := 0#16
  gen := 0#16
  fw := 0#32
  pf := 0#64
  digest := 0#256
  sig := 0#512
  stages := []
  windows := []
  tensors := []
  bodies := []
  plans := none

/-- A fault queue after module reset: head pointer 1 (R360). -/
def FaultQ.reset : FaultQ := ⟨1, 1, []⟩

/-- A command block after module reset (log 1). -/
def Block.reset : Block := ⟨0#64, none, none, 0#448⟩

/-- A checkpoint configuration after module reset (log 1). -/
def Ckpt.reset : Ckpt := ⟨0#64, 0#32, 0#32, 0#64, 0#64, false⟩

/-- No context saved. -/
def Ctx.empty : Ctx := ⟨[], [], [], [], [], []⟩

/-- A pairing entry after module reset: BUDDY 0, every route 10 (R220). -/
def pairReset : Word := 0xAAA#64

def Home.reset : Home where
  llc := []
  emark := []
  waiters := []
  wakes := []
  dir := []
  recalls := []
  hostRecalls := []
  replicas := []
  poison := []

def Tabs.reset : Tabs where
  slots := Vector.replicate 64 0#32
  shadow := Vector.replicate 64 0#32
  cur := 0
  dfl := 0#4
  run := false
  pend := false
  epoch := 0
  parts := []
  pairs := []
  dec := []
  caps := []
  jobs := []
  owners := []
  fqs := []
  cks := []
  stream := none
  errs := []
  blocks := []
  status := []
  head := 1
  tail := 1
  gen := BitVec.ofNat 16 Config.generation
  fw := 1#32
  fwImage := []
  fwPend := none
  bootRom := false
  badCfg := []
  servers := Config.serverClusters
  moduleNo := 0
  domain := [0]
  incs := []
  linkFails := []
  linkDown := []
  images := []

def Disp.reset : Disp where
  landings := []
  launches := []
  fields := []
  queues := []
  ctxs := []
  active := none
  drain := none
  forfeit := []
  quiet := []
  quietRaised := []

def Net.reset : Net := ⟨[], [], [], []⟩

/-- The clusters of the server mask are awake after reset, all others gated (R8, R20). -/
def clustersReset : Tbl Cluster := Config.serverClusters.map (fun c => (c, Cluster.awake))

/-- The module right after reset. Core 0, a server core, is the first acting agent (log 5). -/
def State.reset : State where
  time := ⟨0, 2 ^ 24, 0, 0⟩
  cores := []
  clusters := clustersReset
  mem := []
  home := Home.reset
  tabs := Tabs.reset
  disp := Disp.reset
  net := Net.reset
  engines := []
  run := ⟨[], .core 0, 0, 0, [], []⟩

end Sys2Proof.Machine
end

