-- ==== Sys2Proof/Machine/Ops.lean ====
section
/-! DEFINITION. The named operations over the state that every meaning shares: places of memory, cores and clusters, time, error counters, the journal and the fault queues, retiring, waiting, taking a trap and returning from one. -/

namespace Sys2Proof.Machine

/-! Where each byte of the machine stands in the one memory (log 4, log 12). -/

/-- The first key of memory space `n`. -/
def space (n : Nat) : Nat := n * 2 ^ 56

/-- An LPDDR byte by physical address. -/
def kLpddr (pa : Nat) : Nat := space 0 + pa
/-- A byte of host memory (BK = 01). -/
def kHost (pa : Nat) : Nat := space 1 + pa
/-- A byte of CXL pool memory (BK = 10). -/
def kPool (pa : Nat) : Nat := space 2 + pa
/-- A scratchpad byte of a physical core (R90). -/
def kPad (core off : Nat) : Nat := space 3 + core * 2 ^ 18 + off
/-- A byte of capsule text or server-kernel text, by local address (R88, R268). -/
def kText (a : Nat) : Nat := space 4 + a
/-- A byte of the control region, by offset from 0x3F0_0000_0000 (R184, R206). -/
def kCtrl (off : Nat) : Nat := space 5 + off
/-- A package-scratchpad byte of a tenant (R92). -/
def kPkg (ten off : Nat) : Nat := space (16 + ten) + off

/-- The 128-byte line that holds a key. -/
def lineOf (k : Nat) : Nat := k / 128

/-- Bit `i` of a number. -/
def natBit (v i : Nat) : Bool := v.testBit i

/-- Remove every entry equal to `a`. -/
def removeAll {α : Type} [DecidableEq α] (l : List α) (a : α) : List α := l.filter (fun b => !decide (b = a))

/-- The first entry of a list that meets a test, with the others in order. -/
def takeFirst {α : Type} (p : α → Bool) : List α → Option (α × List α)
  | [] => none
  | a :: t =>
    if p a then some (a, t)
    else match takeFirst p t with
      | some (b, r) => some (b, a :: r)
      | none => none

/-- Replace entry `i` of a list. -/
def listSet {α : Type} (l : List α) (i : Nat) (a : α) : List α := l.set i a

/-! Cores and clusters. -/

/-- A core by physical number; an unlisted core stands as after reset. -/
def State.coreAt (s : State) (n : Nat) : Core := Tbl.get Core.reset s.cores n

/-- Store a core. -/
def State.setCore (s : State) (n : Nat) (c : Core) : State := { s with cores := Tbl.set Core.reset s.cores n c }

/-- Change a core. -/
def State.updCore (s : State) (n : Nat) (f : Core → Core) : State := s.setCore n (f (s.coreAt n))

/-- A cluster by physical number. -/
def State.clusterAt (s : State) (c : Nat) : Cluster := Tbl.get Cluster.gated s.clusters c

/-- Store a cluster. -/
def State.setCluster (s : State) (c : Nat) (k : Cluster) : State := { s with clusters := Tbl.set Cluster.gated s.clusters c k }

/-- Change a cluster. -/
def State.updCluster (s : State) (c : Nat) (f : Cluster → Cluster) : State := s.setCluster c (f (s.clusterAt c))

/-- Replace memory. -/
def State.setMem (s : State) (m : Mem) : State := { s with mem := m }

/-- The physical core that acts; for a sweep lane, the core whose pass it runs. -/
def State.me (s : State) : Nat :=
  match s.run.cur with
  | .core n => n
  | .lane c _ =>
    match (s.clusterAt c).pass with
    | some p => p.core
    | none => 16 * c

/-- The acting core. -/
def State.core (s : State) : Core := s.coreAt s.me

/-- Change the acting core. -/
def State.updMe (s : State) (f : Core → Core) : State := s.updCore s.me f

/-- The cluster a core stands in (R6). -/
def clusterOf (core : Nat) : Nat := core / 16

/-- The die of a cluster (R6). -/
def dieOf (cluster : Nat) : Nat := (cluster % 20) / 10 + 2 * ((cluster / 20) / 8)

/-- Is a core a server core (R8)? -/
def State.isServer (s : State) (core : Nat) : Bool := s.tabs.servers.contains (clusterOf core)

/-- The tenant and address space of a core's ptag (R78). -/
def Core.ten (c : Core) : Nat := (c.csr.ptag.extractLsb' 0 4).toNat
def Core.asid (c : Core) : Nat := (c.csr.ptag.extractLsb' 16 16).toNat

/-- The launch a core works for; 0 for a server core. -/
def Core.jseq (c : Core) : Nat := match c.task with | some t => t.jseq | none => 0

/-- Does the core hold an active-slot task, frozen or not (R211)? -/
def Core.placed (c : Core) : Bool := c.task.isSome

/-- The cores of the state that are listed: every other core stands as after reset. -/
def State.listed (s : State) : List Nat := s.cores.map Prod.fst

/-! Time. -/

/-- The package's cycle counter as a 64-bit word (R233). -/
def State.gtcWord (s : State) : Word := BitVec.ofNat 64 s.time.gtc

/-- The clock ceiling C (R120). -/
def State.ceil (s : State) : Nat := s.time.tbase + (s.time.gtc - s.time.g0) / 256

/-- Raise a core's logical clock to at least `t`. -/
def State.raise (s : State) (n t : Nat) : State := s.updCore n (fun c => { c with csr := { c.csr with lclk := max c.csr.lclk t } })

/-! Free values (log 9). -/

/-- Take the next free bit. -/
def State.freeBit (s : State) : Bool × State := (Config.freeBit s.run.free, { s with run := { s.run with free := s.run.free + 1 } })

/-- Take the next free word. -/
def State.freeWord (s : State) : Word × State := (Config.freeWord s.run.free, { s with run := { s.run with free := s.run.free + 1 } })

/-! Notes of the present cycle (log 5). -/

/-- Note what this turn has done; notes of earlier cycles leave. -/
def State.note (s : State) (a : Note) : State :=
  { s with run := { s.run with notes := (s.time.gtc, a) :: s.run.notes.filter (fun e => decide (e.1 = s.time.gtc)) } }

/-- Has an earlier turn of this cycle done it? -/
def State.noted (s : State) (a : Note) : Bool := s.run.notes.contains (s.time.gtc, a)

/-- What the notes of the cycle and of its barrier words say of a core is of its earlier task. -/
def State.forgetCycle (s : State) (n : Nat) : State :=
  let mine (a : Note) : Bool := match a with | .pop c _ | .wfe c | .event c _ | .yield c => decide (c = n) | .unseal _ _ => false
  { s with run := { s.run with bars := s.run.bars.filter (fun e => !decide (e.core = n)), notes := s.run.notes.filter (fun e => !mine e.2) } }

/-- Set a core's EV, unless a `wfe` of it has retired in this cycle: an event of that cycle is latched before the test, which cleared it
(R183). -/
def State.signalEv (s : State) (n : Nat) : State :=
  if s.noted (.wfe n) then s else (s.note (.event n (s.coreAt n).ev)).updCore n (fun c => { c with ev := true })

/-- An event of this cycle turns out not to have been one: EV is as the other events of the cycle leave it (R334). -/
def State.unsignalEv (s : State) (n : Nat) : State :=
  if s.noted (.event n true) then { s with run := { s.run with notes := s.run.notes.erase (s.time.gtc, .event n true) } }
  else if s.noted (.event n false) then
    ({ s with run := { s.run with notes := s.run.notes.erase (s.time.gtc, .event n false) } }).updCore n (fun c => { c with ev := false })
  else s

/-! Error counters (R244). -/

/-- Add to an error counter, saturating at 2^64 − 1. -/
def State.count (s : State) (i k : Nat) : State :=
  { s with tabs := { s.tabs with errs := Tbl.set 0 s.tabs.errs i (min (2 ^ 64 - 1) (Tbl.get 0 s.tabs.errs i + k)) } }

/-- Counter numbers are their offsets divided by 8 (R244). -/
def cSSBE : Nat := 0
def cSDBE : Nat := 1
def cDSBE : Nat := 2
def cDDBE : Nat := 3
def cLSCRB : Nat := 4
def cDSCRB : Nat := 5
def cLCRC : Nat := 6
def cLDOWN : Nat := 7
def cRESID : Nat := 8
def cHANG : Nat := 9
def cTSPAR : Nat := 10
def cDIRPAR : Nat := 11
def cDIREV : Nat := 12
def cCFGDG : Nat := 13
def cSTALE : Nat := 14
def cJFULL : Nat := 15
def cFQOVF : Nat := 16
def cSEALHW : Nat := 17
def cTHROT : Nat := 18
def cBARX : Nat := 19
def cREBASE : Nat := 20
def cQUIESC : Nat := 21

/-! The command journal (R192, R193). -/

/-- The offset in the control region of the entry of sequence number `j` (R184). -/
def journalOff (j : Nat) : Nat := 0x1000000 + 64 * (j % 65536)

/-- The fields of a journal entry (R192). -/
structure JEntry where
  jseq : Nat
  kind : Nat
  state : Nat
  ten : Nat
  slot : Nat
  caps : Nat
  status : Nat
  caddr : Nat
  gacc : Nat
  gend : Nat
  detail : Nat
  deriving DecidableEq, Repr

/-- The 64 bytes of an entry. -/
def JEntry.bytes (e : JEntry) : List Byte :=
  natToBytes 8 e.jseq ++ natToBytes 1 e.kind ++ natToBytes 1 e.state ++ natToBytes 1 e.ten ++ natToBytes 1 e.slot ++
    natToBytes 2 e.caps ++ natToBytes 2 0 ++ natToBytes 4 e.status ++ natToBytes 4 0 ++ natToBytes 8 e.caddr ++
    natToBytes 8 e.gacc ++ natToBytes 8 e.gend ++ natToBytes 8 e.detail ++ natToBytes 8 0

/-- Write the entry of its sequence number. -/
def State.writeEntry (s : State) (e : JEntry) : State :=
  s.setMem (s.mem.writeBytes (kCtrl (journalOff e.jseq)) e.bytes)

/-- STATE of the entry of `j` (R192). -/
def State.entryState (s : State) (j : Nat) : Nat := (s.mem.byte (kCtrl (journalOff j + 9))).toNat

/-- Is the entry of `j` in a final state? -/
def State.entryFinal (s : State) (j : Nat) : Bool := decide (3 ≤ s.entryState j)

/-- TAIL: the lowest number from `t` whose entry is not final, at most `n` on (R193). -/
def State.tailFrom (s : State) (t : Nat) : Nat → Nat
  | 0 => t
  | n + 1 => if s.entryFinal t then s.tailFrom (t + 1) n else t

/-- Bring TAIL up to date (R193). -/
def State.fixTail (s : State) : State :=
  { s with tabs := { s.tabs with tail := s.tailFrom s.tabs.tail (s.tabs.head - s.tabs.tail) } }

/-- Is the journal full (R192)? -/
def State.journalFull (s : State) : Bool := decide (s.tabs.head - s.tabs.tail = 65536)

/-- Write a kind-2 or kind-3 entry, complete at once, with the next sequence number (R192). -/
def State.journal (s : State) (kind caps detail gacc ten : Nat) : State :=
  let j := s.tabs.head
  let s := s.writeEntry ⟨j, kind, 3, ten, 0xFF, caps, 0, 0, gacc, s.time.gtc, detail⟩
  ({ s with tabs := { s.tabs with head := j + 1 } }).fixTail

/-- The incarnation number of an agent: a core below 10000, else an engine, host agent or link peer (R182). -/
def State.agentInc (s : State) (a : Nat) : BitVec 16 := if a < 10000 then (s.coreAt a).inc else Tbl.get 0#16 s.tabs.incs a

/-- A message with a stale incarnation: discarded, journaled and counted (R182, R192). -/
def State.stale (s : State) (agent : Nat) (inc : BitVec 16) (ten : Nat) : State :=
  let s := s.count cSTALE 1
  if s.journalFull then s.count cJFULL 1
  else s.journal 2 0 (agent % 65536 * 65536 + inc.toNat) s.time.gtc ten

/-! Fault queues (R205). -/

/-- The fields of a fault record. -/
structure FaultRec where
  cause : Nat
  srck : Nat
  unit : Nat
  addr : Nat
  kacc : Nat
  fsec : Nat
  tag : Nat
  jseq : Nat
  lcore : Nat
  deriving DecidableEq, Repr

/-- The record as 64 bytes, with its FSEQN and GTC. -/
def FaultRec.raw (r : FaultRec) (fseqn gtc : Nat) : BitVec 512 :=
  BitVec.ofNat 512 (bytesToNat (natToBytes 8 fseqn ++ natToBytes 2 r.cause ++ natToBytes 2 r.srck ++ natToBytes 4 r.unit ++
    natToBytes 8 r.addr ++ natToBytes 1 r.kacc ++ natToBytes 3 0 ++ natToBytes 4 r.fsec ++ natToBytes 8 r.tag ++
    natToBytes 8 r.jseq ++ natToBytes 4 r.lcore ++ natToBytes 4 0 ++ natToBytes 8 gtc))

/-- A tenant's fault queue. -/
def State.fq (s : State) (ten : Nat) : FaultQ := Tbl.get FaultQ.reset s.tabs.fqs ten

def State.setFq (s : State) (ten : Nat) (q : FaultQ) : State :=
  { s with tabs := { s.tabs with fqs := Tbl.set FaultQ.reset s.tabs.fqs ten q } }

/-- The control-region offset of a tenant's fault queue (R184). -/
def fqOff (ten : Nat) : Nat := 0x2000000 + ten * 0x20000

/-- Write record `i` and its command copy. -/
def State.putRecord (s : State) (ten i : Nat) (r cmd : BitVec 512) : State :=
  let s := s.setMem (s.mem.write (kCtrl (fqOff ten + 64 * (i % 1024))) 64 r.toNat)
  s.setMem (s.mem.write (kCtrl (fqOff ten + 0x10000 + 64 * (i % 1024))) 64 cmd.toNat)

/-- A launch by sequence number. -/
def State.launch (s : State) (j : Nat) : Option Launch := s.disp.launches.find? (fun l => decide (l.jseq = j))

/-- Change a launch. -/
def State.updLaunch (s : State) (j : Nat) (f : Launch → Launch) : State :=
  { s with disp := { s.disp with launches := s.disp.launches.map (fun l => if l.jseq = j then f l else l) } }

/-- Write a fault record for a tenant; the answer is FSEQN mod 1,024, or `none` when the queue is full: the record
waits and FQOVF counts (R205). -/
def State.putFault (s : State) (ten : Nat) (r : FaultRec) (cmd : BitVec 512) : State × Option Nat :=
  let q := s.fq ten
  if q.next - q.head < 1024 then
    let s := s.putRecord ten q.next (r.raw q.next s.time.gtc) cmd
    (s.setFq ten { q with next := q.next + 1 }, some (q.next % 1024))
  else
    ((s.setFq ten { q with waiting := q.waiting ++ [(r.raw 0 s.time.gtc, cmd)] }).count cFQOVF 1, none)

/-- A fault record of a unit that works for a launch, which counts it (R191, R205). -/
def State.faultRecord (s : State) (ten : Nat) (r : FaultRec) (cmd : BitVec 512) : State × Option Nat :=
  (s.updLaunch r.jseq (fun l => { l with nfault := l.nfault + 1 })).putFault ten r cmd

/-- Write the waiting records that now find room, in order (R205). -/
def State.drainFq (s : State) (ten : Nat) : Nat → State
  | 0 => s
  | n + 1 =>
    let q := s.fq ten
    match q.waiting with
    | [] => s
    | (r, cmd) :: rest =>
      if q.next - q.head < 1024 then
        let raw := BitVec.ofNat 512 (r.toNat / 2 ^ 64 * 2 ^ 64 + q.next)
        ((s.putRecord ten q.next raw cmd).setFq ten { q with next := q.next + 1, waiting := rest }).drainFq ten n
      else s

/-! Freezing and taking a trap (R269, R270). -/

/-- The pairing entry of a core (R220). -/
def State.pair (s : State) (n : Nat) : Word := Tbl.get pairReset s.tabs.pairs n

/-- BUDDY of a pairing entry. -/
def buddyOf (p : Word) : Nat := (p.extractLsb' 51 13).toNat

/-- The route of a cause under a pairing entry: 0 self, 1 buddy, 2 server (R220, R84). -/
def routeOf (p : Word) (cause : Nat) : Nat :=
  if cause = 9 ∨ cause = 48 ∨ cause = 49 then 2
  else if cause = 52 then 1
  else if cause = 3 ∨ cause = 8 then (p.extractLsb' 2 2).toNat
  else if cause = 12 ∨ cause = 13 ∨ cause = 15 then (p.extractLsb' 4 2).toNat
  else if cause = 27 ∨ cause = 30 ∨ cause = 31 then (p.extractLsb' 8 2).toNat
  else if cause = 50 then (p.extractLsb' 10 2).toNat
  else if cause ≤ 7 then (p.extractLsb' 0 2).toNat
  else (p.extractLsb' 6 2).toNat

/-- Is the trap taken on the core itself (R269)? -/
def State.trapsSelf (s : State) (n cause : Nat) : Bool :=
  decide (routeOf (s.pair n) cause = 0) || (decide ((s.coreAt n).mode = .s) && !decide (cause = 9)) || s.isServer n

/-- Entry into supervisor mode at stvec: sepc, scause, stval and sstatus are saved, the mode and pc change (R269). -/
def Core.enterTrap (c : Core) (interrupt : Bool) (code : Nat) (epc tval : Word) : Core :=
  { c with
    sup := { c.sup with
      sepc := epc &&& 0xFFFFFFFFFFFFFFFC#64, scause := (if interrupt then 1#1 else 0#1) ++ BitVec.ofNat 63 code, stval := tval,
      spp := decide (c.mode = .s), spie := c.sup.sie, sie := false }
    mode := .s
    pc := c.sup.stvec
    vpend := [], lead := none, fwd := [], wait := .none, contrib := .none, reply := .none, remAsked := false, stepping := false }

/-- The core stands frozen with this code and these Lens words; its mode and supervisor CSRs are unchanged (R270). A follower follows no more:
R25 says it of a trap, and no rule says it of a freeze by LCTL 5 or the watchdog (DESIGN CHOICE, log 97). The followers of a frozen leader stall (R26). -/
def Core.freeze (c : Core) (code : Nat) (epc tval : Word) (buddy : Bool) (now : Nat) : Core :=
  { c with
    frz := some ⟨code, epc, tval, buddy, now⟩
    vpend := [], lead := none, fwd := [], wait := .none, contrib := .none, reply := .none, remAsked := false, stepping := false, frzReq := false }

/-- The access kind a cause reports in KACC (R205) when its instruction does not say. -/
def kaccOf (cause : Nat) : Nat :=
  if cause = 0 ∨ cause = 1 ∨ cause = 12 then 0
  else if cause = 4 ∨ cause = 5 ∨ cause = 13 then 1
  else if cause = 6 ∨ cause = 7 ∨ cause = 15 ∨ cause = 31 then 2
  else if cause = 27 then 3
  else 0xFF

/-- A field of a fault record that the record's unit has no value for (log 9). -/
def State.openField (s : State) (k : Nat) : Nat := (Config.openField k s.time.gtc).toNat

/-- The command copy of a record whose unit holds no command (log 9). -/
def State.openCopy (s : State) : BitVec 512 := Config.openCopy s.time.gtc

/-- The record of causes 48, 49 and a router's 51: UNIT and ADDR are given, KACC is none, and the other fields are left open (R205, R213, R243, R245). -/
def State.unitRecord (s : State) (cause unit addr : Nat) : FaultRec :=
  ⟨cause, s.openField 2, unit, addr, 0xFF, s.openField 0, s.openField 1, s.openField 3, s.openField 4⟩

/-- The fault record of a core's trap (R205); FSEC and TAG are a command's and are left open. -/
def State.trapRecord (s : State) (n cause : Nat) (tval : Word) (kacc : Nat) : FaultRec :=
  let c := s.coreAt n
  ⟨cause, 1, n, tval.toNat, kacc, s.openField 0, s.openField 1, c.jseq, c.csr.lcore.toNat⟩

/-- A core takes a trap: on itself, or frozen for its buddy or the server (R269, R270, R220). -/
def State.takeTrapK (s : State) (n cause : Nat) (tval : Word) (kacc : Nat) : State :=
  let c := s.coreAt n
  if s.trapsSelf n cause then s.updCore n (fun c => c.enterTrap false cause c.pc tval)
  else
    let buddy := decide (routeOf (s.pair n) cause = 1)
    let s := s.updCore n (fun c => c.freeze cause c.pc tval buddy s.time.gtc)
    if buddy then s
    else (s.faultRecord c.ten (s.trapRecord n cause tval kacc) s.openCopy).1

/-- As `takeTrapK`, with the access kind that the cause itself tells. -/
def State.takeTrap (s : State) (n cause : Nat) (tval : Word) : State := s.takeTrapK n cause tval (kaccOf cause)

/-- Return from a trap (R266). -/
def Core.sret (c : Core) : Core :=
  { c with
    pc := c.sup.sepc
    mode := if c.sup.spp then .s else .u
    sup := { c.sup with sie := c.sup.spie, spie := true, spp := false } }

/-- Does a core stand frozen under the buddy route, with no resume written (R358)? -/
def Core.begs (c : Core) : Bool := match c.frz with | some f => f.buddy && decide (c.resume = 0) | none => false

/-- sip.SSIP: a core that names this one as BUDDY stands frozen under the buddy route, live or in a saved context (R358). -/
def State.ssip (s : State) (n : Nat) : Bool :=
  (s.cores ++ s.disp.ctxs.flatMap (fun x => x.2.cores)).any (fun e => e.2.begs && decide (buddyOf (s.pair e.1) = n))

/-- The server core that carries a request of a die out: the lowest-numbered one of the die, or of the package where the die has none (R228). -/
def State.larupCore (s : State) (die : Nat) : Nat :=
  let least (l : List Nat) : Option Nat := l.foldl (fun o c => match o with | none => some c | some d => some (min c d)) none
  16 * ((least (s.tabs.servers.filter (fun c => decide (dieOf c = die)))).getD ((least s.tabs.servers).getD 0))

/-- A request of the capsule loader, behind its core's earlier ones: to rebuild a capsule, or the command of the capsule block (R228). -/
def State.addJob (s : State) (core : Nat) (what : Option Nat) : State := { s with tabs := { s.tabs with jobs := s.tabs.jobs ++ [(core, what)] } }

/-- A request of the capsule loader has ended, or what it concerned is gone. -/
def State.dropJob (s : State) (what : Option Nat) : State := { s with tabs := { s.tabs with jobs := s.tabs.jobs.filter (fun j => !decide (j.2 = what)) } }

/-- Is the request the one that its core works on: the first of that core's (R228)? -/
def State.jobTurn (s : State) (what : Option Nat) : Bool :=
  match s.tabs.jobs.find? (fun j => decide (j.2 = what)) with
  | some j => decide (s.tabs.jobs.find? (fun i => decide (i.1 = j.1)) = some j)
  | none => true

/-- Does a server core have a request to work on (R228)? -/
def State.larupBusy (s : State) (n : Nat) : Bool := s.tabs.jobs.any (fun j => decide (j.1 = n))

/-- (sip and sie): bit 9 and bit 1 (R271). -/
def State.pendExt (s : State) (n : Nat) : Bool := (s.coreAt n).sup.seip && (s.coreAt n).sup.seie
/-- A buddy's request waits while its server core works on a request (R228). -/
def State.pendSoft (s : State) (n : Nat) : Bool := s.ssip n && (s.coreAt n).sup.ssie && !s.larupBusy n

/-- May an interrupt be taken on the core now (R271)? -/
def State.interruptDue (s : State) (n : Nat) : Bool :=
  decide ((s.coreAt n).mode = .s) && (s.coreAt n).sup.sie && (s.pendExt n || s.pendSoft n)

/-- Take the interrupt: code 9 before code 1 (R271, R269, R85). -/
def State.takeInterrupt (s : State) (n : Nat) : State :=
  if s.interruptDue n then s.updCore n (fun c => c.enterTrap true (if s.pendExt n then 9 else 1) c.pc 0#64) else s

/-- Raise sip.SEIP on every server core (R215, R229). No rule says when SEIP falls, or that another event raises it: it stays 1 (DESIGN CHOICE,
log 99). -/
def State.alarmServers (s : State) : State :=
  (s.tabs.servers.flatMap (fun c => (List.range 16).map (16 * c + ·))).foldl
    (fun s n => s.updCore n (fun c => { c with sup := { c.sup with seip := true } })) s

/-! Stops: how a meaning ends when its instruction does not retire. -/

/-- A trap with its cause, tval and access kind, or a wait; each with the state in which it is taken. -/
inductive Stop where
  | trap (s : State) (cause : Nat) (tval : Word) (kacc : Nat)
  | hold (s : State) (w : Wait)
  deriving DecidableEq, Repr

/-- Raise a trap. -/
def trap {α : Type} (s : State) (cause : Nat) (tval : Word) : Except Stop α := .error (.trap s cause tval (kaccOf cause))

/-- Hold the instruction: it re-executes when the core moves next. -/
def hold {α : Type} (s : State) (w : Wait) : Except Stop α := .error (.hold s w)

/-- The word of the acting core's instruction, as a trap of cause 2 reports it (R40). -/
def State.word (s : State) : Word := s.core.iw.setWidth 64

/-- Illegal instruction (R40). -/
def illegal {α : Type} (s : State) : Except Stop α := trap s 2 s.word

/-- The outcome of a core's instruction: it has retired, trapped, or waits. Each is a next state. -/
def finish (n : Nat) (r : Except Stop State) : Host.Outcome State Fault Refusal :=
  match r with
  | .ok s => .next s
  | .error (.trap s cause tval kacc) => .next (s.takeTrapK n cause tval kacc)
  | .error (.hold s w) => .next (s.updCore n (fun c => { c with wait := w }))

/-! Retiring. -/

/-- The followers of a core: the listed cores of its cluster that name it (R24). -/
def State.followers (s : State) (n : Nat) : List Nat :=
  (s.cores.filter (fun e => decide (e.2.lead = some n))).map Prod.fst

/-- A word of core `n` as its decode table maps it; 0, which is no instruction, when unmapped (R50). -/
def State.mapped (s : State) (n : Nat) (w : IWord) : IWord :=
  let c := s.coreAt n
  if c.csr.dsel = 0#4 then w else (mapWord (Tbl.get [] s.tabs.dec (16 * c.ten + c.csr.dsel.toNat)) w).getD 0#32

/-- Is the word a `bwait` on barrier `b` (R339)? -/
def isBwait (w : IWord) (b : Nat) : Bool := decide (w &&& 0x01F07FFF#32 = 0x0030407B#32) && decide ((w.extractLsb' 25 7).toNat = b)

/-- PH of a barrier word. -/
def Core.ph (c : Core) (b : Nat) : Bool := (c.bar.getD b 0#64).getLsbD 57

/-- How often arrivals have completed a barrier word. -/
def Core.barDone (c : Core) (b : Nat) : Nat := Tbl.get 0 c.bdone b

/-- What a core that waits in `follow` notes of an instruction its leader retires: the leader's own wait that observes the
completion, which is the next after the `done` that the core had seen, marks the point, and what the leader retires past the completion is
kept (R351). -/
def Core.watchLeader (c : Core) (leader : Nat) (leaderDone : Nat → Nat) (mapped : IWord) (f : Fwd) : Core :=
  match c.contrib with
  | .follow b ph done l seen =>
    if l = leader then
      if isBwait mapped b && decide (done < leaderDone b) && !seen then { c with contrib := .follow b ph done l true, fwd := [] }
      else if seen || !decide (c.ph b = ph) then { c with fwd := c.fwd ++ [f] }
      else c
    else c
  | _ => c

/-- Show an instruction that core `n` retires to the cores that wait in a `follow` of it (R351). -/
def State.showWaiting (s : State) (n : Nat) (f : Fwd) : State :=
  let waiting := (s.cores.filter (fun e => match e.2.contrib with | .follow _ _ _ l _ => decide (l = n) | _ => false)).map Prod.fst
  waiting.foldl (fun s k => s.updCore k (fun c => c.watchLeader n (s.coreAt n).barDone (s.mapped n f.word) f)) s

/-- Forward a user-mode instruction to every follower, and to the cores that wait in a `follow` of this core (R24, R351). -/
def State.forward (s : State) (n : Nat) (f : Fwd) : State :=
  ((s.followers n).foldl (fun s k => s.updCore k (fun c => { c with fwd := c.fwd ++ [f] })) s).showWaiting n f

/-- Commands an engine holds. -/
def Engine.cmds (x : Engine) : List Cmd := x.cur.toList ++ x.shd.toList ++ x.queue

/-- Has what a step with the step-drain bit waits for ended: the command or the message that the stepped instruction sent (R352)? -/
def State.drained (s : State) (n : Nat) : Bool :=
  let c := s.coreAt n
  let own (k : Cmd) : Bool := decide (k.core = some n) && decide (c.stepFrom ≤ k.id)
  !(c.stepdrain && (s.net.msgs.any (fun m => decide (m.src = n) && decide (c.stepFrom ≤ m.id)) ||
    s.clusters.any (fun e => e.2.eng.cmds.any own) || s.engines.any (fun e => e.2.cmds.any own)))

/-- A freeze that was ordered for the next instruction boundary is made (R222). -/
def State.boundary (s : State) (n : Nat) : State :=
  let c := s.coreAt n
  if c.frzReq && (!c.stepping || s.drained n) then s.updCore n (fun c => c.freeze 3 c.pc c.pc false s.time.gtc) else s

/-- A follower that has executed a forwarded instruction: it detaches when its next address, or a branch's outcome, differs from its
leader's (R25). -/
def Core.followed (c : Core) (pc' : Word) (taken : Bool) : Core :=
  match c.lead, c.fwd with
  | some _, f :: rest => if f.next = pc' ∧ f.taken = taken then { c with fwd := rest } else { c with lead := none, fwd := [] }
  | _, _ => c

/-- What retiring does to the core itself: the next address, no wait, and a freeze ordered by LCTL 3 or 5 (R81, R222). -/
def Core.retired (c : Core) (pc' : Word) (taken : Bool) (now : Nat) : Core :=
  { c.followed pc' taken with
    pc := pc', lastRet := now, wait := .none, contrib := .none, reply := .none, remAsked := false, frzReq := c.frzReq || c.stepping }

/-- The core's instruction retires and the next stands at `pc'`; a branch says whether it was taken (R25, R81). -/
def State.retireBranch (s : State) (n : Nat) (pc' : Word) (taken : Bool) : State :=
  let c := s.coreAt n
  let s := s.updCore n (fun c => c.retired pc' taken s.time.gtc)
  let s := if c.mode = .u then s.forward n ⟨c.iw, c.pc, pc', taken, false⟩ else s
  s.boundary n

/-- The core's instruction retires and the next stands at `pc'` (R81). -/
def State.retireTo (s : State) (n : Nat) (pc' : Word) : State := s.retireBranch n pc' false

/-- An instruction that all ranks of a team execute together is forwarded to the followers as its leader issues it, so that they take part
(R28, R330); once for each issue. -/
def State.forwardEarly (s : State) (n : Nat) : State :=
  let c := s.coreAt n
  if c.mode = .u then
    (s.followers n).foldl (fun s k => s.updCore k (fun d =>
      if d.fwd.any (fun f => f.early && decide (f.pc = c.pc)) then d
      else { d with fwd := d.fwd ++ [⟨c.iw, c.pc, c.pc + 4#64, false, true⟩] })) s
  else s

/-- It retires: the followers have it already. -/
def State.retireTogether (s : State) (n : Nat) : State :=
  let c := s.coreAt n
  let s := s.updCore n (fun c => c.retired (c.pc + 4#64) false s.time.gtc)
  let s := if c.mode = .u then s.showWaiting n ⟨c.iw, c.pc, c.pc + 4#64, false, false⟩ else s
  s.boundary n

/-- The acting core's instruction retires and the next follows it. -/
def State.retire (s : State) : State := s.retireTo s.me (s.core.pc + 4#64)

/-- Retire, as the end of a meaning. -/
def done (s : State) : Except Stop State := .ok s.retire

end Sys2Proof.Machine
end

