-- ==== Sys2Proof/Machine/Home.lean ====
section
/-! DEFINITION. The home slices and the L1 data caches: where lines live, leases, ownership, the host directory, evictions, and the accesses that bypass L1 (R114 to R144). -/

namespace Sys2Proof.Machine

/-! Lines as numbers of 1,024 bits. -/

/-- Byte `i` of a bit vector. -/
def getByte {n : Nat} (d : BitVec n) (i : Nat) : Byte := d.extractLsb' (8 * i) 8

/-- Replace byte `i`. -/
def setByte {n : Nat} (d : BitVec n) (i : Nat) (b : Byte) : BitVec n :=
  (d &&& ~~~((0xFF#8).setWidth n <<< (8 * i))) ||| (b.setWidth n <<< (8 * i))

/-- Lay bytes over a bit vector from byte `i` on; `none` keeps the byte. -/
def overlay {n : Nat} (d : BitVec n) (i : Nat) : List (Option Byte) → BitVec n
  | [] => d
  | none :: t => overlay d (i + 1) t
  | some b :: t => overlay (setByte d i b) (i + 1) t

/-- Write bytes into memory from key `k` on; `none` keeps the byte. -/
def Mem.overlay (m : Mem) (k : Nat) : List (Option Byte) → Mem
  | [] => m
  | none :: t => Mem.overlay m (k + 1) t
  | some b :: t => Mem.overlay (m.put k b) (k + 1) t

/-- The bytes `[src, src + n)` of memory, numbered from 0: how a scratchpad image is taken (R211). -/
def Mem.take (m : Mem) (src n : Nat) : List (Nat × BitVec 8) := (m.filter (fun e => decide (src ≤ e.1) && decide (e.1 < src + n))).map (fun e => (e.1 - src, e.2))

/-- The bytes of a line at its home. -/
def State.memLine (s : State) (line : Nat) : BitVec 1024 := BitVec.ofNat 1024 (s.mem.read (line * 128) 128)

/-- Write one 64-byte half of a line to its home. -/
def State.putHalf (s : State) (line half : Nat) (d : BitVec 512) : State :=
  s.setMem (s.mem.write (line * 128 + 64 * half) 64 d.toNat)

/-! Poison (R246). -/

/-- Is the protected word that holds a key poisoned? -/
def State.poisoned (s : State) (k : Nat) : Bool := s.home.poison.contains (k / 8)

/-- Is any protected word of `n` bytes at `k` poisoned? -/
def State.anyPoison (s : State) (k n : Nat) : Bool := s.home.poison.any (fun w => decide (k / 8 ≤ w) && decide (w * 8 < k + n))

/-- Does a write of these bytes cover part of a poisoned word but not all of it? -/
def State.partPoison (s : State) (k n : Nat) : Bool :=
  s.home.poison.any (fun w => decide (k / 8 ≤ w) && decide (w * 8 < k + n) && !(decide (k ≤ w * 8) && decide (w * 8 + 8 ≤ k + n)))

/-- Poison a word. -/
def State.poison (s : State) (w : Nat) : State :=
  if s.home.poison.contains w then s else { s with home := { s.home with poison := w :: s.home.poison } }

/-- Is byte `k` among the bytes written from `key` on? -/
def covers (key : Nat) (bytes : List (Option Byte)) (k : Nat) : Bool := decide (key ≤ k) && (bytes.getD (k - key) none).isSome

/-- A write that covers whole protected words clears their poison (R246). -/
def State.unpoison (s : State) (key : Nat) (bytes : List (Option Byte)) : State :=
  { s with home := { s.home with poison := s.home.poison.filter (fun w => !((List.range 8).all (fun i => covers key bytes (8 * w + i)))) } }

/-! Parity (R118, R119, R137): the bits are computed; a fault event strikes them (R131, R138). -/

/-- Even parity over the low `k` bits of a number. -/
def parity (v k : Nat) : Bool := (List.range k).foldl (fun b i => b != v.testBit i) false

/-- TPAR of an L1 line: over WTS and END (R118). -/
def L1Line.tpar (a : L1Line) : Bool := parity (a.wts * 2 ^ 32 + a.fin) 64

/-- TPAR of a line at its home: over WTS and RTS (R119). -/
def LlcLine.tpar (l : LlcLine) : Bool := parity (l.wts * 2 ^ 32 + l.rts) 64

/-- QT of a directory entry at cycle `now` (R137). -/
def DirEntry.qt (e : DirEntry) (now : Nat) : Nat := min 4096 ((now - e.last) / 256)

/-- Bits 79:1 of a directory entry at cycle `now`, as the number they make (R137). -/
def DirEntry.raw (e : DirEntry) (now : Nat) : Nat := e.sz * 2 ^ 75 + e.base * 2 ^ 41 + e.ag.toNat * 2 ^ 25 + e.qt now * 2 ^ 12

/-- PAR of a directory entry (R137). -/
def DirEntry.par (e : DirEntry) (now : Nat) : Bool := parity (e.raw now) 79

/-! Slices and ways (R116, R92). -/

/-- Is the line LPDDR-backed (else package scratchpad)? -/
def isLpddr (line : Nat) : Bool := decide (line * 128 < 2 ^ 56)

/-- The home slice of a line. -/
def sliceOf (line : Nat) : Nat :=
  let p := line * 128
  if isLpddr line then ((p >>> 7) ^^^ (p >>> 15) ^^^ (p >>> 23) ^^^ (p >>> 31) ^^^ (p >>> 39)) % 256 else (p >>> 7) % 256

/-- The LLC set of an LPDDR line. -/
def llcSet (line : Nat) : Nat := (line * 128 >>> 15) % 16384

/-- The number under which the LLC lists the replica that slice `slice` holds of a line (R143). -/
def replicaLine (slice line : Nat) : Nat := space (512 + slice) / 128 + line

/-- Does a listed line stand for a replica? -/
def isReplica (line : Nat) : Bool := decide (space 512 ≤ line * 128)

/-- The slice and set in which a listed line stands; `none` for a package-scratchpad line, which has its pinned way (R92). -/
def llcPlace (line : Nat) : Option (Nat × Nat) :=
  if isLpddr line then some (sliceOf line, llcSet line)
  else if isReplica line then some (line * 128 / 2 ^ 56 - 512, (line * 128 % 2 ^ 56 >>> 15) % 16384)
  else none

/-- Partition fields (R217). -/
def State.part (s : State) (t : Nat) : BitVec 1024 := Tbl.get 0#1024 s.tabs.parts t
def partV (p : BitVec 1024) : Bool := p.getLsbD 0
def partRboff (p : BitVec 1024) : Bool := p.getLsbD 1
def partPin (p : BitVec 1024) : Nat := (p.extractLsb' 8 8).toNat
def partLbw (p : BitVec 1024) : Nat := (p.extractLsb' 16 8).toNat
def partCmask (p : BitVec 1024) : BitVec 320 := p.extractLsb' 64 320
def partWays (p : BitVec 1024) : BitVec 32 := p.extractLsb' 384 32
def partRoot (p : BitVec 1024) : Nat := (p.extractLsb' 576 64).toNat

/-- The positions of the set bits of a way mask, lowest first. -/
def waysOf (w : BitVec 32) : List Nat := (List.range 32).filter (fun i => w.getLsbD i)

/-- The owner of the 2 MiB granule that holds a physical address (R153). -/
def State.frameOwner (s : State) (pa : Nat) : Option Nat := Tbl.get none s.tabs.owners (pa / 2 ^ 21)

/-- The ways a fill of an LPDDR line may take: its owner's ways less the pinned ones (R116); every way for a frame without owner (log 13). -/
def State.fillWays (s : State) (line : Nat) : List Nat :=
  match s.frameOwner (line * 128) with
  | some t => let p := s.part t; (waysOf (partWays p)).drop (partPin p)
  | none => List.range 32

/-! LLC line records (R119), most recently used first. -/

/-- The record of a line that is resident. -/
def State.llcFind (s : State) (line : Nat) : Option LlcLine := s.home.llc.find? (fun l => decide (l.line = line))

/-- Put a line's record in front. -/
def State.llcPut (s : State) (l : LlcLine) : State :=
  { s with home := { s.home with llc := l :: s.home.llc.filter (fun m => !decide (m.line = l.line)) } }

/-- Take a line's record out. -/
def State.llcDrop (s : State) (line : Nat) : State :=
  { s with home := { s.home with llc := s.home.llc.filter (fun m => !decide (m.line = line)) } }

/-- The eviction mark of a slice (R117). -/
def State.emark (s : State) (slice : Nat) : Nat := Tbl.get 0 s.home.emark slice

def State.setEmark (s : State) (slice v : Nat) : State := { s with home := { s.home with emark := Tbl.set 0 s.home.emark slice v } }

/-- Is some core registered for a line (R126)? -/
def State.watched (s : State) (line : Nat) : Bool := s.home.waiters.any (fun w => decide (w.1 = line))

/-- A write of a line wakes its registered waiters (R126): the wake is on its way. -/
def State.noteWrite (s : State) (line : Nat) : State :=
  if s.watched line && !s.home.wakes.contains line then { s with home := { s.home with wakes := s.home.wakes ++ [line] } } else s

/-- Drop the replicas that meet a test: they leave their ways, and MIR of a line whose last replica goes clears (R119, R144). -/
def State.dropReplicasIf (s : State) (p : Replica → Bool) : State :=
  let gone := s.home.replicas.filter p
  let kept := s.home.replicas.filter (fun r => !p r)
  if gone.isEmpty then s
  else
    { s with home := { s.home with
      replicas := kept
      llc := (s.home.llc.filter (fun l => !gone.any (fun r => decide (l.line = replicaLine r.slice r.line)))).map (fun (l : LlcLine) =>
        if l.mir && !kept.any (fun r => decide (r.line = l.line)) then { l with mir := false } else l) } }

/-- Drop every replica of a line (R144). -/
def State.dropReplicas (s : State) (line : Nat) : State := s.dropReplicasIf (fun r => decide (r.line = line))

/-! L1 lines (R115, R118). -/

/-- The record of a line in a list of L1 lines. -/
def l1Find (l : List L1Line) (line : Nat) : Option L1Line := l.find? (fun a => decide (a.line = line))

/-- A list of L1 lines without a line. -/
def l1Drop (l : List L1Line) (line : Nat) : List L1Line := l.filter (fun a => !decide (a.line = line))

/-- Put a line of core `n` in front of its L1. -/
def State.l1Put (s : State) (n : Nat) (a : L1Line) : State := s.updCore n (fun c => { c with l1 := a :: l1Drop c.l1 a.line })

/-- Write the dirty halves of a line to its home (R133, R139). -/
def State.mergeDirty (s : State) (a : L1Line) : State :=
  let s := if a.hdirty.getLsbD 0 then s.putHalf a.line 0 (a.data.extractLsb' 0 512) else s
  if a.hdirty.getLsbD 1 then s.putHalf a.line 1 (a.data.extractLsb' 512 512) else s

/-- The home takes an owner's data and timestamps and clears OV (R123, R133). -/
def State.homeTake (s : State) (a : L1Line) : State :=
  let s := s.mergeDirty a
  match s.llcFind a.line with
  | some l => s.llcPut { l with ov := false, wts := a.wts, rts := a.fin }
  | none => s

/-- The owner answers a write-back request: the home has the latest data, and the owner keeps a shared copy with its END
(R123); a line in the victim buffer answers from there and leaves it (R133). -/
def State.recallOwner (s : State) (line : Nat) : State :=
  match s.llcFind line with
  | none => s
  | some l =>
    if l.ov then
      let c := s.coreAt l.owner
      match l1Find c.l1 line with
      | some a =>
        if a.owned then (s.homeTake a).updCore l.owner (fun c =>
          { c with l1 := c.l1.map (fun b => if b.line = line then { b with owned := false, hown := 0#2, hdirty := 0#2, watch := false } else b) })
        else s.llcPut { l with ov := false }
      | none =>
        match l1Find c.vb line with
        | some a => (s.homeTake a).updCore l.owner (fun c => { c with vb := l1Drop c.vb line })
        | none => s.llcPut { l with ov := false }
    else s

/-- An owner gives one half up to a host: the home takes the half's dirty data, and HOWN and HDIRTY of the half clear; the core keeps
the other half (R118, R139). -/
def L1Line.giveHalf (a : L1Line) (half : Nat) : L1Line :=
  { a with hown := a.hown &&& ~~~(1#2 <<< half), hdirty := a.hdirty &&& ~~~(1#2 <<< half) }

/-- A host recall of one half meets an owned line, in the L1 or in the victim buffer (R118, R133); with no half left the line is
given up as a whole (R123). -/
def State.recallHalf (s : State) (line half : Nat) : State :=
  match s.llcFind line with
  | none => s
  | some l =>
    if l.ov then
      let c := s.coreAt l.owner
      match l1Find (c.l1 ++ c.vb) line with
      | some a =>
        if (a.giveHalf half).hown = 0#2 then s.recallOwner line
        else
          let s := if a.hdirty.getLsbD half then s.putHalf line half (a.data.extractLsb' (512 * half) 512) else s
          let give (b : L1Line) : L1Line := if b.line = line then b.giveHalf half else b
          s.updCore l.owner (fun c => { c with l1 := c.l1.map give, vb := c.vb.map give })
      | none => s.recallOwner line
    else s

/-! The host directory (R136 to R140). -/

/-- Lines a directory entry of size code `sz` covers. -/
def dirLines (sz : Nat) : Nat := 512 >>> sz

/-- A host agent's hold on a half in AG: agents H0, H1, X0, X1 are 0 to 3; half 1 is bytes 64 to 127 (R137). -/
def agGet (ag : BitVec 16) (agent half : Nat) : Nat := (ag.extractLsb' (12 - 4 * agent + 2 * half) 2).toNat

def agSet (ag : BitVec 16) (agent half v : Nat) : BitVec 16 :=
  let i := 12 - 4 * agent + 2 * half
  (ag &&& ~~~(3#16 <<< i)) ||| (BitVec.ofNat 16 v <<< i)

/-- The entry that covers a line at its slice. -/
def State.dirFind (s : State) (line : Nat) : Option DirEntry :=
  s.home.dir.find? (fun e => decide (e.slice = sliceOf line) && decide (e.base ≤ line) && decide (line < e.base + dirLines e.sz))

/-- Replace the entry with the same slice, base and size; drop it when no agent holds anything. -/
def State.dirPut (s : State) (e : DirEntry) : State :=
  let rest := s.home.dir.filter (fun d => !(decide (d.slice = e.slice) && decide (d.base = e.base) && decide (d.sz = e.sz)))
  { s with home := { s.home with dir := if e.ag = 0#16 then rest else e :: rest } }

/-- The hold of an agent on a half of a line. -/
def State.hostHold (s : State) (agent line half : Nat) : Nat :=
  match s.dirFind line with
  | some e => agGet e.ag agent half
  | none => 0

/-- A request to the region resets its QT (R137). -/
def State.dirTouch (s : State) (line : Nat) : State :=
  match s.dirFind line with
  | some e => s.dirPut { e with last := s.time.gtc }
  | none => s

/-- Send a recall to an agent once. -/
def State.sendRecall (s : State) (agent line half : Nat) (toShared : Bool) : State :=
  let r : HostRecall := ⟨agent, line, half, toShared⟩
  if s.home.hostRecalls.contains r then s else { s with home := { s.home with hostRecalls := s.home.hostRecalls ++ [r] } }

/-- A line of an entry's region that its slice is the home of. -/
def DirEntry.line (e : DirEntry) : Nat := ((List.range (dirLines e.sz)).map (e.base + ·)).find? (fun l => decide (sliceOf l = e.slice)) |>.getD e.base

/-- Recall every agent's hold on an entry's region (R138, R140). -/
def State.recallRegion (s : State) (e : DirEntry) : State :=
  (List.range 4).foldl (fun s a =>
    (List.range 2).foldl (fun s h => if agGet e.ag a h = 0 then s else s.sendRecall a e.line h false) s) s

/-- The entry of a slice, other than one on `line`, that has had no request for the longest time (R140). -/
def State.dirOldest (s : State) (slice line : Nat) : Option DirEntry :=
  (s.home.dir.filter (fun e => decide (e.slice = slice) && !(decide (e.base ≤ line) && decide (line < e.base + dirLines e.sz)))).foldl (fun o e =>
    match o with
    | none => some e
    | some f => if e.last < f.last then some e else some f) none

/-- Is a recall of an entry's region under way? -/
def State.recalling (s : State) (e : DirEntry) : Bool :=
  s.home.hostRecalls.any (fun r => decide (sliceOf r.line = e.slice) && decide (e.base ≤ r.line) && decide (r.line < e.base + dirLines e.sz))

/-- Has a slice one of its 8,192 entries free (R137)? -/
def State.dirFree (s : State) (slice : Nat) : Bool := decide ((s.home.dir.filter (fun e => decide (e.slice = slice))).length < 8192)

/-- Evict the oldest entry of a slice: every hold on its region is recalled and DIREV counts; the entry is free when the answers have
come (R140). -/
def State.dirEvict (s : State) (slice line : Nat) : State :=
  match s.dirOldest slice line with
  | none => s
  | some e => if s.recalling e then s else (s.recallRegion e).count cDIREV 1

/-- Split the entry that covers a line in halves until a 128-byte entry covers it; each half inherits AG (R138). A slice with no entry
free evicts one first, and the split waits (R140). -/
def State.dirSplit (s : State) (line : Nat) : Nat → State
  | 0 => s
  | fuel + 1 =>
    match s.dirFind line with
    | none => s
    | some e =>
      if !s.dirFree e.slice && decide (e.sz < 9) then s.dirEvict e.slice line
      else if e.sz < 9 then
        let n := dirLines (e.sz + 1)
        let rest := s.home.dir.filter (fun d => !(decide (d.slice = e.slice) && decide (d.base = e.base) && decide (d.sz = e.sz)))
        let s := { s with home := { s.home with dir := { e with sz := e.sz + 1 } :: { e with sz := e.sz + 1, base := e.base + n } :: rest } }
        s.dirSplit line fuel
      else s

/-- Does a need (0 none, 1 S, 2 E) for a half conflict with a hold (R138)? -/
def needConflicts (need hold : Nat) : Bool := (decide (need = 2) && decide (hold ≠ 0)) || (decide (need = 1) && decide (2 ≤ hold))

/-- The conflicting (agent, half) pairs of a request for a line, except those of the requesting agent. -/
def State.conflicts (s : State) (line needLo needHi except : Nat) : List (Nat × Nat) :=
  (List.range 4).flatMap (fun a =>
    if a = except then [] else
      (if needConflicts needLo (s.hostHold a line 0) then [(a, 0)] else []) ++
      (if needConflicts needHi (s.hostHold a line 1) then [(a, 1)] else []))

/-- Send the recalls of a conflict: the entry is split, and once a 128-byte entry covers the line each conflicting half is recalled, to S
when S is all that is needed (R138). -/
def State.sendRecalls (s : State) (line needLo needHi : Nat) (l : List (Nat × Nat)) : State :=
  let s := s.dirSplit line 9
  match s.dirFind line with
  | some e =>
    if e.sz = 9 then
      l.foldl (fun s p => s.sendRecall p.1 line p.2 (decide ((if p.2 = 0 then needLo else needHi) = 1))) s
    else s
  | none => s

/-- Make a request for a line free of host conflicts, or send the recalls and wait for their answers (R138, R139). -/
def State.hostClear (s : State) (line needLo needHi : Nat) : Except Stop State :=
  let s := s.dirTouch line
  match s.conflicts line needLo needHi 4 with
  | [] => .ok s
  | l => hold (s.sendRecalls line needLo needHi l) .home

/-! Residence at the home (R116, R117). -/

/-- Evict a line to LPDDR: recall its owner, raise EMARK, forget its timestamps (R117). A host hold in E or M is recalled first. -/
def State.evictLine (s : State) (line : Nat) : Except Stop State := do
  if isReplica line then return (s.dropReplicasIf (fun r => decide (replicaLine r.slice r.line = line)))
  let s ← s.hostClear line 1 1
  let s := s.recallOwner line
  match s.llcFind line with
  | none => pure s
  | some l => pure ((s.setEmark (sliceOf line) (max (s.emark (sliceOf line)) (max l.wts l.rts))).llcDrop line)

/-- A way for a fill of a slice and set: a free one of `ways`, or that of the least recently used line or replica there, which is evicted
(R116). With no way in the mask the spec names none and the line takes way 0 (DESIGN CHOICE, log 72). -/
def State.takeWay (s : State) (place : Option (Nat × Nat)) (ways : List Nat) : Except Stop (State × Nat) :=
  let mine := s.home.llc.filter (fun m => decide (llcPlace m.line = place))
  match ways.find? (fun w => !(mine.map LlcLine.way).contains w) with
  | some w => .ok (s, w)
  | none =>
    match (mine.filter (fun m => ways.contains m.way)).getLast? with
    | some v => do let s ← s.evictLine v.line; pure (s, v.way)
    | none => .ok (s, 0)

/-- Make a line resident: a resident line is touched; an LPDDR line is filled with EMARK as its timestamps, in a free way of
its mask or in place of the least recently used line there; a package-scratchpad line stands in its pinned way (R116, R117, R92).
A fill that finds no unpinned way in its owner's mask takes way 0 (DESIGN CHOICE, log 72). -/
def State.resident (s : State) (line : Nat) : Except Stop (State × LlcLine) := do
  match s.llcFind line with
  | some l => pure (s.llcPut l, l)
  | none =>
    if isLpddr line then
      let (s, way) ← s.takeWay (llcPlace line) (s.fillWays line)
      let e := s.emark (sliceOf line)
      let l : LlcLine := ⟨line, way, false, s.watched line, false, 0, e, e⟩
      pure (s.llcPut l, l)
    else
      let l : LlcLine := ⟨line, 32, false, s.watched line, false, 0, 0, 0⟩
      pure (s.llcPut l, l)

/-! Fills, renews and ownership (R122, R123, R133, R139). -/

/-- Put a line into a core's L1, making room: a shared or clean victim is dropped (an owned clean one clears OV at its
home), a dirty one moves to the victim buffer, and a full buffer makes the fill wait (R115, R133). -/
def State.l1Fill (s : State) (n : Nat) (a : L1Line) : Except Stop State :=
  let c := s.coreAt n
  let others := (l1Drop c.l1 a.line).filter (fun b => decide (b.line % 64 = a.line % 64))
  if others.length < 8 then .ok (s.l1Put n a)
  else
    match others.getLast? with
    | none => .ok (s.l1Put n a)
    | some v =>
      if v.owned ∧ v.hdirty ≠ 0#2 then
        if c.vb.length < 8 then
          .ok ((s.updCore n (fun c => { c with l1 := l1Drop c.l1 v.line, vb := c.vb ++ [{ v with granted := false }] })).l1Put n a)
        else hold s .home
      else
        let s := s.updCore n (fun c => { c with l1 := l1Drop c.l1 v.line })
        let s := if v.owned then (match s.llcFind v.line with | some l => s.llcPut { l with ov := false } | none => s) else s
        .ok (s.l1Put n a)

/-- A fill or renew answered at the home: the lease is extended, the reader's clock and END follow (R122). -/
def State.homeRequest (s : State) (n line : Nat) : Except Stop State := do
  let s ← s.hostClear line 1 1
  let (s, _) ← s.resident line
  let s := s.recallOwner line
  match s.llcFind line with
  | none => pure s
  | some l =>
    let c := s.coreAt n
    let len := c.csr.lease.toNat
    let rts := min s.ceil (max l.rts (max (l.wts + len - 1) (c.csr.lclk + len - 1)))
    let s := s.llcPut { l with rts := rts }
    let s := s.raise n l.wts
    let lclk := (s.coreAt n).csr.lclk
    s.l1Fill n ⟨line, false, 0#2, 0#2, false, l.wts, min rts (lclk + len - 1), false, s.memLine line⟩

/-- The line of a core's load, as R122 gives it: a hit on an owned or a still valid shared copy, or a fill. -/
def State.loadLine (s : State) (n line : Nat) : Except Stop (State × BitVec 1024) := do
  let c := s.coreAt n
  match l1Find c.l1 line with
  | some a =>
    if a.owned then
      pure ((s.l1Put n { a with fin := max a.fin c.csr.lclk }).raise n a.wts, a.data)
    else if c.csr.lclk ≤ a.fin then
      pure ((s.l1Put n a).raise n a.wts, a.data)
    else
      let s ← s.homeRequest n line
      pure (s, s.memLine line)
  | none =>
    let s ← s.homeRequest n line
    pure (s, s.memLine line)

/-- The home grants ownership: any other owner is recalled, OV and OWNER are set, and the core takes data, WTS and RTS. -/
def State.ownFresh (s : State) (n line : Nat) (needs : BitVec 2) : Except Stop State := do
  let (s, _) ← s.resident line
  let s := s.recallOwner line
  match s.llcFind line with
  | none => pure s
  | some l =>
    let free (h : Nat) : Bool := (List.range 4).all (fun a => decide (s.hostHold a line h = 0))
    let hown := needs ||| ((if free 0 then 1#2 else 0#2) ||| (if free 1 then 2#2 else 0#2))
    let s ← s.l1Fill n ⟨line, true, hown, 0#2, l.wait || s.watched line, l.wts, l.rts, false, s.memLine line⟩
    match s.llcFind line with
    | some l => pure (s.llcPut { l with ov := true, owner := n })
    | none => pure s

/-- Ownership of a line for a core that will write the halves of `needs` (bit 0 low, bit 1 high) (R123, R139). -/
def State.own (s : State) (n line : Nat) (needs : BitVec 2) : Except Stop State := do
  let c := s.coreAt n
  let s ← s.hostClear line (if needs.getLsbD 0 then 2 else 1) (if needs.getLsbD 1 then 2 else 1)
  match l1Find c.l1 line with
  | some a =>
    if a.owned then
      pure (s.l1Put n { a with hown := a.hown ||| needs })
    else s.ownFresh n line needs
  | none => s.ownFresh n line needs

/-- The halves that `k` bytes at offset `off` of a line touch. -/
def halvesOf (off k : Nat) : BitVec 2 := (if off < 64 then 1#2 else 0#2) ||| (if 64 < off + k then 2#2 else 0#2)

/-- A core's store is performed on an owned line: WTS := END := Max(lclk, END + 1), lclk unchanged, SWM follows; above the
ceiling it waits (R123, R120, R128). A watched line is written through and its waiters are woken (R126). -/
def State.performCached (s : State) (n key : Nat) (bytes : List (Option Byte)) : Except Stop State := do
  let line := lineOf key
  let off := key % 128
  let halves := halvesOf off bytes.length
  let s ← s.own n line halves
  let c := s.coreAt n
  match l1Find c.l1 line with
  | none => pure s
  | some a =>
    let t := max c.csr.lclk (a.fin + 1)
    if s.ceil < t then hold s .home
    else
      let s := s.dropReplicas line
      let a := { a with wts := t, fin := t, hdirty := a.hdirty ||| halves, data := overlay a.data off bytes }
      let s := s.updCore n (fun c => { c with swm := max c.swm t })
      let s := (s.l1Put n a).unpoison key bytes
      if a.watch || s.watched line then
        let s := s.mergeDirty a
        let s := s.l1Put n { a with hdirty := 0#2, watch := s.watched line }
        match s.llcFind line with
        | some l => pure ((s.llcPut { l with wts := t, rts := t }).noteWrite line)
        | none => pure (s.noteWrite line)
      else pure s

/-- A write at the home by an engine, a host agent or a zeroing operation: any owner is recalled, WTS := RTS := RTS + 1 (or
the carried mark if larger, R371), and it waits while that is above the ceiling (R124). The answer gives the new WTS. -/
def State.homeWrite (s : State) (key : Nat) (bytes : List (Option Byte)) (mark except : Nat) : Except Stop (State × Nat) := do
  let line := lineOf key
  let off := key % 128
  let h := halvesOf off bytes.length
  let needLo := if h.getLsbD 0 then 2 else 0
  let needHi := if h.getLsbD 1 then 2 else 0
  let s := s.dirTouch line
  match s.conflicts line needLo needHi except with
  | _ :: _ => hold (s.sendRecalls line needLo needHi (s.conflicts line needLo needHi except)) .home
  | [] =>
    let (s, _) ← s.resident line
    let s := s.recallOwner line
    let s := s.dropReplicas line
    match s.llcFind line with
    | none => pure (s, 0)
    | some l =>
      let t := max (l.rts + 1) mark
      if s.ceil < t then hold s .home
      else
        let s := s.llcPut { l with wts := t, rts := t }
        let s := (s.setMem (s.mem.overlay key bytes)).unpoison key bytes
        pure (s.noteWrite line, t)

/-- A read at the home by an engine, a host agent, a walker or a sweep lane: the line is made most recently used, the latest data, any
owner recalled, no timestamp changed (R116, R124). -/
def State.homeRead (s : State) (key n : Nat) : Except Stop (State × Nat) := do
  let line := lineOf key
  let s ← s.hostClear line 1 1
  let (s, _) ← s.resident line
  let s := s.recallOwner line
  pure (s, s.mem.read key n)

/-- An atomic performed at the home by core `n`: WTS := RTS := Max(lclk, RTS + 1), and the core's clock takes it (R124). -/
def State.homeAtomic (s : State) (n key size : Nat) (f : Nat → Nat) : Except Stop (State × Nat) := do
  let line := lineOf key
  let h := halvesOf (key % 128) size
  let s ← s.hostClear line (if h.getLsbD 0 then 2 else 1) (if h.getLsbD 1 then 2 else 1)
  let (s, _) ← s.resident line
  let s := s.recallOwner line
  let s := s.dropReplicas line
  match s.llcFind line with
  | none => pure (s, 0)
  | some l =>
    let t := max (s.coreAt n).csr.lclk (l.rts + 1)
    if s.ceil < t then hold s .home
    else
      let old := s.mem.read key size
      let s := s.llcPut { l with wts := t, rts := t }
      let s := s.setMem (s.mem.write key size (f old))
      let s := s.raise n t
      pure (s.noteWrite line, old)

/-- A listed line becomes the most recently used (R116). -/
def State.llcTouch (s : State) (line : Nat) : State :=
  match s.llcFind line with
  | some l => s.llcPut l
  | none => s

/-! Mirror replicas (R143). -/

/-- The replica slice of a requester: 64 per die (R143). -/
def replicaSlice (n : Nat) : Nat :=
  let c := clusterOf n
  64 * dieOf c + ((c % 10) + 10 * ((c / 20) % 8)) % 64

/-- Is the replica one that core `n` places and reads for its launch? -/
def State.ownReplica (s : State) (n line : Nat) (r : Replica) : Bool :=
  decide (r.line = line) && decide (r.slice = replicaSlice n) && decide (r.jseq = (s.coreAt n).jseq)

/-- The replica of a line that core `n` may read: none made before its latest acquire at domain or system scope (R175). -/
def State.findReplica (s : State) (n line : Nat) : Option Replica :=
  s.home.replicas.find? (fun r => s.ownReplica n line r && decide ((s.coreAt n).mirMark ≤ r.born))

/-- The unpinned ways of the core's tenant. -/
def State.freeWays (s : State) (n : Nat) : List Nat :=
  let p := s.part (s.coreAt n).ten
  (waysOf (partWays p)).drop (partPin p)

/-- Place a replica of a line in the replica slice of core `n`, in a way of its tenant; it stands in the place of an older one (R143). -/
def State.placeReplica (s : State) (n line : Nat) (data : BitVec 1024) : Except Stop State := do
  let s := s.dropReplicasIf (fun r => decide (r.line = line) && decide (r.slice = replicaSlice n))
  let l := replicaLine (replicaSlice n) line
  let (s, way) ← s.takeWay (llcPlace l) (s.freeWays n)
  let s := s.llcPut ⟨l, way, false, false, false, 0, 0, 0⟩
  let s := match s.llcFind line with | some h => s.llcPut { h with mir := true } | none => s
  let c := s.coreAt n
  pure { s with home := { s.home with replicas := ⟨line, replicaSlice n, c.jseq, c.ten, data, s.time.gtc⟩ :: s.home.replicas } }

/-- The RTS of a line at its home. -/
def State.lineRts (s : State) (line : Nat) : Nat :=
  match s.llcFind line with
  | some l => l.rts
  | none => 0

/-- The WTS of a line at its home; an owned line's is its owner's (R119). -/
def State.lineWts (s : State) (line : Nat) : Nat :=
  match s.llcFind line with
  | some l => l.wts
  | none => if isLpddr line then s.emark (sliceOf line) else 0

/-- The notice of an owned clean line that its core drops: OV clears at its home (R133). -/
def State.clearOv (s : State) (line : Nat) : State :=
  match s.llcFind line with
  | some l => s.llcPut { l with ov := false }
  | none => s

/-- Write back every dirty line of a core, then drop every L1 line; an owned clean line only clears OV at its home (R133, R135). -/
def State.flushL1 (s : State) (n : Nat) : State :=
  let c := s.coreAt n
  let s := (c.l1 ++ c.vb).foldl (fun s a => if !a.owned then s else if a.hdirty = 0#2 then s.clearOv a.line else s.homeTake a) s
  s.updCore n (fun c => { c with l1 := [], vb := [] })

end Sys2Proof.Machine
end

