-- ==== Sys2Proof/Machine/Xlate.lean ====
section
/-! DEFINITION. Addresses: the local map, translation with its TLBs and walks, and the checks of R260 in their order, up to the place an access reaches (R86 to R95, R147 to R151, R260). -/

namespace Sys2Proof.Machine

/-! The local address map (R86, R88, R91). -/

/-- What a local address names for one agent. -/
inductive Region where
  | paged (va : Nat)
  | pkg (off : Nat)
  | pad (core off : Nat)
  | window (w off : Nat)
  | text
  | ctrl (off : Nat)
  | remote
  /-- A local address in no range of R88, or in an own range of an agent that has none (R89). -/
  | absent
  /-- Not decodable (R86). -/
  | nowhere
  deriving DecidableEq, Repr

/-- The core and offset of byte `o` of a cluster memory (R91). -/
def clusterByte (cluster o : Nat) : Nat × Nat := (16 * cluster + (o / 128) % 16, (o / 2048) * 128 + o % 128)

/-- The cluster-memory offset of a scratchpad byte (R91). -/
def padToCluster (core off : Nat) : Nat := (off / 128) * 2048 + (core % 16) * 128 + off % 128

/-- A local address, read by core `own` (or by an agent without own ranges, R89). -/
def localRegion (own : Option Nat) (a : Nat) : Region :=
  if a < 0x20000000000 then .paged a
  else if a < 0x20400000000 then .pkg (a - 0x20000000000)
  else if 0x21000000000 ≤ a ∧ a < 0x21050000000 then .pad ((a - 0x21000000000) / 0x40000) ((a - 0x21000000000) % 0x40000)
  else if 0x21100000000 ≤ a ∧ a < 0x21150000000 then
    let p := clusterByte ((a - 0x21100000000) / 0x400000) ((a - 0x21100000000) % 0x400000)
    .pad p.1 p.2
  else if 0x3E000000000 ≤ a ∧ a < 0x3E400000000 then .text
  else if 0x3F000000000 ≤ a then .ctrl (a - 0x3F000000000)
  else
    match own with
    | none => .absent
    | some n =>
      if 0x22000000000 ≤ a ∧ a < 0x22000040000 then .pad n (a - 0x22000000000)
      else if 0x22000400000 ≤ a ∧ a < 0x22000800000 then
        let p := clusterByte (clusterOf n) (a - 0x22000400000)
        .pad p.1 p.2
      else if 0x22010000000 ≤ a ∧ a < 0x22020000000 then .window ((a - 0x22010000000) / 0x1000000) ((a - 0x22010000000) % 0x1000000)
      else .absent

/-- An effective address (R86): `nowhere` when it does not decode. -/
def State.region (s : State) (own : Option Nat) (ea : Word) : Region :=
  let a := (ea.extractLsb' 0 42).toNat
  let m := (ea.extractLsb' 42 12).toNat
  if ea.extractLsb' 55 9 ≠ 0#9 then .nowhere
  else if ea.getLsbD 54 then
    if Config.modules ≤ m then .nowhere
    else if m = s.tabs.moduleNo then localRegion own a
    else if s.tabs.domain.contains m then .remote
    else .nowhere
  else if m = 0 then localRegion own a
  else .nowhere

/-! Translation (R147 to R151). -/

/-- Page size of a size code (R148). -/
def pageSize (sz : Nat) : Nat := if sz ≤ 4 then 2 ^ (12 + 2 * sz) else if sz = 5 then 2 ^ 21 else 2 ^ (22 + 2 * (sz - 6))

/-- Level of a size code (R148). -/
def pageLevel (sz : Nat) : Nat := if sz ≤ 4 then 0 else if sz ≤ 9 then 1 else 2

/-- Is the access a store or an atomic? -/
def isWrite (k : Access) : Bool :=
  match k with
  | .store | .atomic => true
  | .fetch | .load => false

/-- One page-table entry read at its home, and the levels below it (R149): the entry, its address and its level. -/
def State.walkDown (s : State) (va ea lvl : Nat) : Nat → Except Stop (State × Nat × Nat × Nat)
  | 0 => .ok (s, 0, ea, lvl)
  | fuel + 1 => do
    let (s, e) ← s.homeRead (kLpddr ea) 8
    if natBit e 0 ∧ natBit e 1 ∧ 0 < lvl then
      let idx := if lvl = 2 then natBits va 29 21 else natBits va 20 12
      s.walkDown va (natBits e 63 24 * 4096 + 8 * idx) (lvl - 1) fuel
    else pure (s, e, ea, lvl)

/-- A walk (R149): the page, or `none` for a page fault. A and D are set at the entry's home. -/
def State.walk (s : State) (ten asid va : Nat) (k : Access) : Except Stop (State × Option TlbEntry) := do
  let p := s.part ten
  let (s, root) ← s.homeRead (kLpddr (partRoot p + 8 * asid)) 8
  let (s, e, at_, lvl) ← s.walkDown va (root + 8 * natBits va 40 30) 2 3
  let sz := natBits e 5 2
  let bk := natBits e 11 10
  let base := natBits e 63 24 * 4096
  let bad := !natBit e 0 || natBit e 1 || decide (natBits e 23 14 ≠ 0) || decide (bk = 3) || decide (pageLevel sz ≠ lvl) ||
    decide (base % pageSize sz ≠ 0) || (decide (bk = 0) && !decide (s.frameOwner base = some ten)) ||
    (match k with | .fetch => !natBit e 8 | .load => !natBit e 6 | .store | .atomic => !natBit e 7)
  if bad then pure (s, none)
  else
    let e' := e ||| 4096 ||| (if isWrite k then 8192 else 0)
    let s ← (if e' = e then pure s
      else do let (s, _) ← s.homeWrite (kLpddr at_) ((natToBytes 8 e').map some) 0 4; pure s : Except Stop State)
    pure (s, some ⟨ten, asid, va / pageSize sz * pageSize sz, pageSize sz, base, bk, natBit e' 6, natBit e' 7, natBit e' 8, natBit e' 9, natBit e' 13⟩)

/-- Does a TLB entry serve this access (R150)? A store through an entry with D = 0 walks again. An entry that lacks the access's permission
does not serve it and the access walks again, which may find other rights: R150 does not say whether such an entry faults by itself (DESIGN
CHOICE, log 73). -/
def TlbEntry.serves (e : TlbEntry) (ten asid va : Nat) (k : Access) : Bool :=
  decide (e.ten = ten) && decide (e.asid = asid) && decide (e.va ≤ va) && decide (va < e.va + e.size) &&
    (match k with | .fetch => e.x | .load => e.r | .store | .atomic => e.w && e.d)

/-- Put an entry in front of a TLB of `cap` entries; entries of the same page leave, then the least recently used. -/
def tlbPut (l : List TlbEntry) (e : TlbEntry) (cap : Nat) : List TlbEntry :=
  (e :: l.filter (fun a => !(decide (a.ten = e.ten) && decide (a.asid = e.asid) && decide (a.va = e.va)))).take cap

/-- The set of a cluster TLB in which an entry stands. -/
def TlbEntry.set (e : TlbEntry) : Nat := Config.tlbSet e.ten e.asid e.va e.size % 512

/-- Put an entry in front of a cluster TLB of 512 sets of 8 ways; the least recently used entry of its set leaves when the set is full (R150). -/
def tlbPutSet (l : List TlbEntry) (e : TlbEntry) : List TlbEntry :=
  let rest := l.filter (fun a => !(decide (a.ten = e.ten) && decide (a.asid = e.asid) && decide (a.va = e.va)))
  if rest.length < 8 then e :: rest
  else
    match (rest.filter (fun a => decide (a.set = e.set))).drop 7 with
    | [] => e :: rest
    | out => e :: rest.filter (fun a => !out.contains a)

/-- The frame address of a translated byte. -/
def TlbEntry.key (e : TlbEntry) (va : Nat) : Nat :=
  let pa := e.pa + (va - e.va)
  if e.bk = 0 then kLpddr pa else if e.bk = 1 then kHost pa else kPool pa

/-- Translate for core `n`: its L1 TLB, its cluster's TLB, then a walk, which fills both (R149, R150; log 8). -/
def State.translate (s : State) (n va : Nat) (k : Access) : Except Stop (State × Option TlbEntry) := do
  let c := s.coreAt n
  match c.tlb.find? (·.serves c.ten c.asid va k) with
  | some e => pure (s.updCore n (fun c => { c with tlb := tlbPut c.tlb e 64 }), some e)
  | none =>
    match (s.clusterAt (clusterOf n)).tlb.find? (·.serves c.ten c.asid va k) with
    | some e =>
      let s := s.updCluster (clusterOf n) (fun t => { t with tlb := tlbPutSet t.tlb e })
      pure (s.updCore n (fun c => { c with tlb := tlbPut c.tlb e 64 }), some e)
    | none =>
      let (s, r) ← s.walk c.ten c.asid va k
      match r with
      | some e =>
        let s := s.updCluster (clusterOf n) (fun t => { t with tlb := tlbPutSet t.tlb e })
        pure (s.updCore n (fun c => { c with tlb := tlbPut c.tlb e 64 }), some e)
      | none => pure (s, none)

/-! Workspaces, argument blocks and seals (R70, R370, R146). -/

/-- Bytes of a workspace (R68). -/
def wsBytes : Nat := 2368

/-- The scratchpad offset of the active workspace. -/
def Core.wsOff (c : Core) : Nat := c.csr.wsp.toNat - 0x22000000000

/-- Does wsp name a workspace that lies wholly in the own scratchpad (R69)? A Lens write can leave another value there, which then names no byte:
the registers stand in the core alone (DESIGN CHOICE, log 96). -/
def Core.wsIn (c : Core) : Bool := decide (0x22000000000 ≤ c.csr.wsp.toNat) && decide (c.wsOff + wsBytes ≤ 0x40000)

/-- Does the core hold a task and is no idle rank (R14)? -/
def Core.working (c : Core) : Bool := match c.task with | some t => !t.idle | none => false

/-- Does a core run (or stand frozen) with an active workspace (R70)? A server core always does. -/
def State.hasWs (s : State) (n : Nat) : Bool := (s.coreAt n).working || s.isServer n

/-- The core that stands saved for core `n` while its scratchpad stays in place (R211, R212). -/
def State.keptCore (s : State) (n : Nat) : Option Core :=
  if (s.coreAt n).task.isSome then none
  else
    match s.disp.ctxs.find? (fun e => e.2.cores.any (fun p => decide (p.1 = n)) && !e.2.pads.any (fun p => decide (p.1 = n))) with
    | some e => (e.2.cores.find? (fun p => decide (p.1 = n))).map Prod.snd
    | none => none

/-- The core whose active workspace lies in the scratchpad of core `n`: a running or frozen one, which may stand saved frozen (R70, R211). -/
def State.wsCore (s : State) (n : Nat) : Option Core :=
  if s.hasWs n then some (s.coreAt n) else (s.keptCore n).filter (fun c => c.working && c.frz.isSome)

/-- Do `k` bytes from `off` of a core's scratchpad touch its active workspace (R70)? -/
def State.inWs (s : State) (n off k : Nat) : Bool :=
  match s.wsCore n with
  | some c => c.wsIn && decide (off < c.wsOff + wsBytes) && decide (c.wsOff < off + k)
  | none => false

/-- Do they touch the argument block of its task, which may stand saved (R370)? -/
def State.inArgs (s : State) (n off k : Nat) : Bool :=
  ((s.coreAt n).working || (match s.keptCore n with | some c => c.working | none => false)) && decide (off < 0x40000) && decide (0x3FFB8 < off + k)

/-- The sealed entries of a cluster that `k` bytes at cluster-memory offset `o` touch (R145). -/
def State.sealsAt (s : State) (cluster o k : Nat) : List Nat :=
  (List.range 32).filter (fun i =>
    let e := (s.clusterAt cluster).seals.getD i ⟨false, 0, 0, 0⟩
    e.s && decide (o < e.base * 128 + (e.lm1 + 1) * 128) && decide (e.base * 128 < o + k))

/-- Do bytes of a scratchpad lie in a sealed buffer (R146)? The access lies within one 128-byte block. -/
def State.inSeal (s : State) (core off k : Nat) : Bool := !(s.sealsAt (clusterOf core) (padToCluster core off) k).isEmpty

/-- May a core name this scratchpad (R89)? Its own always; others only of its tenant's partition and no server core's. A server core is no task. -/
def State.padOpen (s : State) (n core : Nat) : Bool :=
  decide (n = core) || s.isServer n ||
    (partV (s.part (s.coreAt n).ten) && (partCmask (s.part (s.coreAt n).ten)).getLsbD (clusterOf core) && !s.isServer core)

/-- The bytes of a tenant's package scratchpad (R92). -/
def State.pkgBytes (s : State) (ten : Nat) : Nat :=
  let p := s.part ten
  if partV p then 2 ^ 29 * partPin p else 0

/-! Which control-region accesses are open (R184, R206, R222, R244, R268). -/

/-- Does `[off, off + n)` lie in `[lo, lo + len)`? -/
def inRange (off n lo len : Nat) : Bool := decide (lo ≤ off) && decide (off + n ≤ lo + len)

/-- The core whose Lens window of number `n` this is: live, or in a saved context of its tenant (log 14). -/
def State.savedIn (s : State) (n : Nat) : Option Nat :=
  if (s.coreAt n).task.isSome then none
  else (s.disp.ctxs.find? (fun e => e.2.cores.any (fun p => decide (p.1 = n)))).map Prod.fst

/-- The core as the Lens window shows it. -/
def State.lensCore (s : State) (n : Nat) : Core :=
  match s.savedIn n with
  | none => s.coreAt n
  | some t =>
    match (Tbl.get Ctx.empty s.disp.ctxs t).cores.find? (fun p => decide (p.1 = n)) with
    | some p => p.2
    | none => s.coreAt n

/-- Is a Lens offset open: LSTAT (read) and LCTL (write) always, the rest while the core is frozen (R222)? -/
def State.lensOpen (s : State) (core o n : Nat) (write : Bool) : Bool :=
  decide (core < Config.cores) &&
    (if inRange o n 0x2000 8 then !write
     else if inRange o n 0x2040 8 then write
     else (s.lensCore core).frz.isSome &&
       (inRange o n 0 0x940 || inRange o n 0x1000 0x800 || inRange o n 0x1800 0x180 || (inRange o n 0x2008 16 && !write)))

/-- Is the access to the control region open to server cores and host drivers? -/
def State.ctrlServer (s : State) (off n : Nat) (write : Bool) : Bool :=
  if off < 0x10000 then write && decide (off + n ≤ 0x10000) && decide (off % 256 + n ≤ 256)
  else if off < 0x10000000 then
    !write && (inRange off n 0x10000 0x800 || inRange off n 0x20000 0x40 || inRange off n 0x1000000 0x400000 || inRange off n 0x2000000 0x200000)
  else if off < 0x10001000 then
    let o := off - 0x10000000
    (decide (o < 0x100) && decide (n = 4) && !write) || (decide (o = 0x200) && decide (n = 8)) || (decide (o = 0x208) && decide (n = 8) && !write) ||
      (decide (0x400 ≤ o) && decide (o < 0x500) && decide (n = 4))
  else if off < 0x10020000 then inRange off n 0x10010000 0x800
  else if off < 0x10030000 then inRange off n 0x10020000 0xA000 && decide (n = 8)
  else if off < 0x10040000 then inRange off n 0x10030000 64
  else if off < 0x10080000 then !write && inRange off n 0x10040000 0x40000
  else if off < 0x100A0000 then
    inRange off n 0x10080000 64 || inRange off n 0x10088000 64 || inRange off n 0x10090000 64 || inRange off n 0x10090800 64
  else if off < 0x100B0000 then
    let o := (off - 0x100A0000) % 0x100
    decide (off < 0x100A1000) && ((decide (o = 0) && decide (n = 8)) || inRange o n 0x40 32)
  else if off < 0x100C0000 then
    let o := (off - 0x100B0000) % 0x100
    decide (off < 0x100B1000) && ((write && decide (o = 0) && decide (n = 64)) || (!write && decide (o = 0x40) && (decide (n = 8) || decide (n = 16))) ||
      (!write && decide (o = 0x48) && decide (n = 8)))
  else if off < 0x100C0100 then decide (n = 8)
  else if 0x100000000 ≤ off then s.lensOpen ((off - 0x100000000) / 0x10000) ((off - 0x100000000) % 0x10000) n write
  else false

/-- Is the access open to core `c`: in S as to a server core; in U the slots of its own tenant, slot status and journal (R184, R268)? -/
def State.ctrlOpen (s : State) (c : Core) (off n : Nat) (write : Bool) : Bool :=
  match c.mode with
  | .s => s.ctrlServer off n write
  | .u =>
    if off < 0x10000 then write && decide (off % 256 + n ≤ 256) && decide (off / 256 / 16 = c.ten)
    else !write && (inRange off n 0x10000 0x800 || inRange off n 0x20000 0x40 || inRange off n 0x1000000 0x400000)

/-! The checks of R260. -/

/-- The access-fault cause of an access kind. -/
def accCause (k : Access) : Nat :=
  match k with
  | .load => 5
  | .store | .atomic => 7
  | .fetch => 1

/-- The misalignment cause. -/
def alignCause (k : Access) : Nat :=
  match k with
  | .load => 4
  | .store | .atomic => 6
  | .fetch => 0

/-- The page-fault cause. -/
def pageCause (k : Access) : Nat :=
  match k with
  | .load => 13
  | .store | .atomic => 15
  | .fetch => 12

/-- KACC of an access kind (R205). -/
def kaccKind (k : Access) : Nat :=
  match k with
  | .fetch => 0
  | .load => 1
  | .store => 2
  | .atomic => 3

/-- Raise a trap of an access. -/
def trapAcc {α : Type} (s : State) (k : Access) (cause : Nat) (ea : Word) : Except Stop α := .error (.trap s cause ea (kaccKind k))

/-- Condition 8 for `n` bytes at a key (R260, R246). -/
def State.poisonStops (s : State) (key n : Nat) (k : Access) : Bool :=
  match k with
  | .load | .fetch | .atomic => s.anyPoison key n
  | .store => s.partPoison key n

/-- Conditions 5 to 8 for a scratchpad place (R260); the access covers `span` bytes from `back` bytes before the place. -/
def State.checkPadIn (s : State) (n core off size back span : Nat) (k : Access) (ea : Word) : Except Stop Place :=
  if !s.padOpen n core then trapAcc s k (accCause k) ea
  else if s.inWs core off size || (isWrite k && s.inArgs core off size) then trapAcc s k (accCause k) ea
  else if isWrite k && s.inSeal core off size then trapAcc s k 31 ea
  else if s.poisonStops (kPad core off - back) span k then trapAcc s k (accCause k) ea
  else .ok (.scratch core off)

/-- Conditions 5 to 8 for a scratchpad place (R260). -/
def State.checkPad (s : State) (n core off size : Nat) (k : Access) (ea : Word) : Except Stop Place := s.checkPadIn n core off size 0 size k ea

/-- The checks of R260 for `size` bytes at `ea`, in its order, with condition 3 testing `ea mod align`; the place reached. The access covers
`span` bytes from `back` bytes before `ea`, which condition 8 tests. A window address is answered as such: its own checks (R95) belong to the
window access. -/
def State.checkIn (s : State) (n : Nat) (ea : Word) (size align back span : Nat) (k : Access) : Except Stop (State × Place) :=
  match s.region (some n) ea with
  | .nowhere => trapAcc s k (accCause k) ea
  | .window w off => .ok (s, .window w off)
  | r =>
    if ea.toNat % align ≠ 0 then trapAcc s k (alignCause k) ea
    else
      match r with
      | .paged va => do
        let (s, t) ← s.translate n va k
        match t with
        | none => trapAcc s k (pageCause k) ea
        | some e =>
          if e.bk = 0 then
            if s.poisonStops (e.key va - back) span k then trapAcc s k (accCause k) ea else pure (s, .cached (e.key va))
          else pure (s, .cxl (e.key va))
      | .pkg off =>
        let ten := (s.coreAt n).ten
        if s.pkgBytes ten < off + size then trapAcc s k (accCause k) ea
        else if s.poisonStops (kPkg ten off - back) span k then trapAcc s k (accCause k) ea
        else .ok (s, .cached (kPkg ten off))
      | .pad core off => do let p ← s.checkPadIn n core off size back span k ea; pure (s, p)
      | .ctrl off =>
        match k with
        | .atomic | .fetch => trapAcc s k (accCause k) ea
        | .load => if s.ctrlOpen (s.coreAt n) off size false then .ok (s, .ctrl off) else trapAcc s k (accCause k) ea
        | .store => if s.ctrlOpen (s.coreAt n) off size true then .ok (s, .ctrl off) else trapAcc s k (accCause k) ea
      | .remote =>
        let a := (ea.extractLsb' 0 42).toNat
        if a < 0x20400000000 then .ok (s, .remote ea) else trapAcc s k (accCause k) ea
      | .window w off => .ok (s, .window w off)
      | .text | .absent | .nowhere => trapAcc s k (accCause k) ea

/-- The checks of R260 for an access of `size` bytes at `ea`. -/
def State.check (s : State) (n : Nat) (ea : Word) (size align : Nat) (k : Access) : Except Stop (State × Place) :=
  s.checkIn n ea size align 0 size k

end Sys2Proof.Machine
end

