-- ==== Sys2Proof/Machine/Task.lean ====
section
/-! DEFINITION. Tasks, leases and freezes: what ends a task and a field, the grant of an array's lease, and the orders of LCTL (R14, R18, R22, R222, R242, R306, R307). -/

namespace Sys2Proof.Machine

/-! Capsule entries (R225). -/

def State.cap (s : State) (c : Nat) : Caps := Tbl.get Caps.free s.tabs.caps c

def State.updCap (s : State) (c : Nat) (f : Caps → Caps) : State :=
  { s with tabs := { s.tabs with caps := Tbl.set Caps.free s.tabs.caps c (f (s.cap c)) } }

/-! Workspaces (R68, R71). -/

/-- Byte `o` of the workspace layout: the x, v and m registers (R68). -/
def Core.wsByte (c : Core) (o : Nat) : Byte :=
  if o < 256 then getByte (if o / 8 = 0 then 0#64 else c.x.getD (o / 8) 0#64) (o % 8)
  else if o < 2304 then getByte (c.v.getD ((o - 256) / 64) 0#512) ((o - 256) % 64)
  else getByte (c.m.getD ((o - 2304) / 8) 0#64) ((o - 2304) % 8)

/-- Set it; x0 stays 0 (R66). -/
def Core.setWsByte (c : Core) (o : Nat) (b : Byte) : Core :=
  if o < 8 then c
  else if o < 256 then { c with x := c.x.setIfInBounds (o / 8) (setByte (c.x.getD (o / 8) 0#64) (o % 8) b) }
  else if o < 2304 then
    { c with v := c.v.setIfInBounds ((o - 256) / 64) (setByte (c.v.getD ((o - 256) / 64) 0#512) ((o - 256) % 64) b) }
  else { c with m := c.m.setIfInBounds ((o - 2304) / 8) (setByte (c.m.getD ((o - 2304) / 8) 0#64) ((o - 2304) % 8) b) }

/-- Wake a core that sleeps in `waita`. The wake ends an episode of quiescence: the tenant's count becomes 0 (R243, R333). -/
def State.wakeWaita (s : State) (n : Nat) : State :=
  match (s.coreAt n).wait with
  | .waita _ =>
    let t := (s.coreAt n).ten
    let s := { s with disp := { s.disp with quiet := Tbl.set 0 s.disp.quiet t 0, quietRaised := removeAll s.disp.quietRaised t } }
    s.updCore n (fun c => { c with wait := .waita false })
  | _ => s

/-- Watchers of a scratchpad block are woken by a write (R333). -/
def State.wakeWatch (s : State) (core off n : Nat) : State :=
  let ws := (s.coreAt core).watches
  let hit (w : Nat × Nat) : Bool := decide (w.2 * 128 < off + n) && decide (off < w.2 * 128 + 128)
  let s := (ws.filter hit).foldl (fun s w => s.wakeWaita w.1) s
  s.updCore core (fun c => { c with watches := c.watches.filter (fun w => !hit w) })

/-- Write bytes into a scratchpad in arrival order (R114): poison of whole words clears and watchers wake. -/
def State.padWrite (s : State) (core off : Nat) (bytes : List (Option Byte)) : State :=
  let s := s.setMem (s.mem.overlay (kPad core off) bytes)
  (s.unpoison (kPad core off) bytes).wakeWatch core off bytes.length

/-- Write the registers back to the bytes of the active workspace, as far as there is one (log 96). -/
def State.writeBackWs (s : State) (n : Nat) : State :=
  let c := s.coreAt n
  if c.wsIn then s.padWrite n c.wsOff ((List.range wsBytes).map (fun i => some (c.wsByte i))) else s

/-- The core with the registers that a workspace at offset `o` of the scratchpad image `m` holds (R68); x0 stays 0 (R66). -/
def Core.withWs (c : Core) (m : Mem) (o : Nat) : Core :=
  { c with
    x := Vector.ofFn (fun (i : Fin 32) => if i.val = 0 then 0#64 else BitVec.ofNat 64 (m.read (o + 8 * i.val) 8))
    v := Vector.ofFn (fun (i : Fin 32) => BitVec.ofNat 512 (m.read (o + 256 + 64 * i.val) 64))
    m := Vector.ofFn (fun (i : Fin 8) => BitVec.ofNat 64 (m.read (o + 2304 + 8 * i.val) 8)) }

/-! The array's lease (R306, R307). -/

/-- The rank order in which a free lease is granted: from the previous holder's successor on, modulo 16. -/
def leaseOrder (last : Option Nat) : List Nat :=
  match last with
  | some p => (List.range 16).map (fun i => (p % 16 + 1 + i) % 16)
  | none => List.range 16

/-- The logical number of a task: 16t + k (R219). -/
def Task.logical (t : Task) : Nat := 16 * t.team + t.rank

/-- The logical core number of a core's task; of a core without task its place in the cluster. -/
def State.logicalOf (s : State) (n : Nat) : Nat :=
  match (s.coreAt n).task with
  | some t => t.logical
  | none => n % 16

/-- The core of a cluster with a logical number: ranks stand at the cores of their number (R13, R219). -/
def coreIn (cl l : Nat) : Nat := 16 * cl + l % 16

/-- The core that holds a cluster's lease. -/
def State.holderCore (s : State) (cl : Nat) : Option Nat := (s.clusterAt cl).holder.map (coreIn cl)

/-- Is the latest release of the lease complete? An `mrel` retires with it; a task that ended with the lease leaves its stores to be performed
(R18, R307, R309). The core takes no other task before they are (R21). -/
def State.leaseReleased (s : State) (cl : Nat) : Bool :=
  match (s.clusterAt cl).relFrom with
  | some n => (s.coreAt n).sb.isEmpty
  | none => true

/-- The clock that the latest release gives the next holder (R127, R306). -/
def State.leaseClock (s : State) (cl : Nat) : Nat :=
  match (s.clusterAt cl).relFrom with
  | some n => max (s.clusterAt cl).relClk (max (s.coreAt n).csr.lclk (s.coreAt n).swm)
  | none => (s.clusterAt cl).relClk

/-- Is a lease about to be granted: it is free, its latest release is complete, and cores wait for it? -/
def State.grantable (s : State) (cl : Nat) : Bool :=
  (s.clusterAt cl).holder.isNone && !(s.clusterAt cl).lwait.isEmpty && s.leaseReleased cl

/-- The core takes a lease that is free. -/
def Cluster.leaseTo (k : Cluster) (l clk : Nat) : Cluster := { k with holder := some l, lidle := 0, relFrom := none, relClk := clk }

/-- Grant a free lease, once its latest release is complete, to the waiting core whose rank comes first (R306). The new holder's clock
takes the releaser's, as an acquire that pairs with it (R174). -/
def State.grantLease (s : State) (cl : Nat) : State :=
  if !s.grantable cl then s
  else
    let k := s.clusterAt cl
    match (leaseOrder k.lastHolder).find? (fun r => k.lwait.any (fun n => decide (n % 16 = r))) with
    | none => s
    | some r =>
      let n := 16 * cl + r
      let prev := match k.lastHolder with | some p => p % 16 | none => 16
      let t := s.leaseClock cl
      let s := s.updCluster cl (fun k => { (k.leaseTo (s.logicalOf n) t) with lwait := removeAll k.lwait n })
      (s.updCore n (fun c => { c with contrib := .granted prev })).raise n t

/-- Grant every lease that is to be granted: at the end of a cycle, so that the requests of one cycle are ordered together (R306; log 87). -/
def State.grantLeases (s : State) : State := (s.clusters.map Prod.fst).foldl State.grantLease s

/-- Does the core hold its array's lease? -/
def State.leaseHeld (s : State) (n : Nat) : Bool := decide (s.holderCore (clusterOf n) = some n)

/-- The holder gives the lease back, with its clock, or a waiting request leaves (R307, R309). -/
def State.freeLease (s : State) (n : Nat) : State :=
  let cl := clusterOf n
  let held := s.leaseHeld n
  let clk := (s.coreAt n).csr.lclk
  s.updCluster cl (fun k =>
    if held then { k with lwait := removeAll k.lwait n, holder := none, lastHolder := k.holder, lidle := 0, relClk := max k.relClk clk }
    else { k with lwait := removeAll k.lwait n })

/-- The task of the core ends: a lease that it holds is freed as by `mrel`, once its stores are performed (R309). -/
def State.endLease (s : State) (n : Nat) : State :=
  if s.leaseHeld n then (s.freeLease n).updCluster (clusterOf n) (fun k => { k with relFrom := some n }) else s.freeLease n

/-! Fields and logical cores (R13, R219). -/

/-- The field a task runs in. -/
def State.fieldOf (s : State) (t : Task) : Option Field :=
  s.disp.fields.find? (fun f => decide (f.jseq = t.jseq) && decide (f.stage = t.stage) && decide (f.f = t.field))

/-- Change a field. -/
def State.updField (s : State) (t : Task) (g : Field → Field) : State :=
  { s with disp := { s.disp with fields := s.disp.fields.map (fun f =>
      if decide (f.jseq = t.jseq) && decide (f.stage = t.stage) && decide (f.f = t.field) then g f else f) } }

/-- The physical core of logical core `l`, if its entry is valid (R219). -/
def Field.core (f : Field) (l : Nat) : Option Nat :=
  if f.loaded.contains l then (f.teams[l / 16]?).map (fun c => 16 * c + l % 16) else none

/-- The tasks a field runs (R13). -/
def Field.tasks (f : Field) (st : StageRun) : Nat := min (st.tcnt - f.f * (16 * st.w)) (16 * st.w)

/-- Is a rank of a team of the field idle (R13, R14)? -/
def Field.idleRank (f : Field) (st : StageRun) (team rank : Nat) : Bool := decide (f.tasks st ≤ 16 * team + rank)

/-- A stage of a launch. -/
def Launch.stage (l : Launch) (n : Nat) : StageRun := l.stages.getD n ⟨0, 0, 0, 0⟩

def Launch.updStage (l : Launch) (n : Nat) (g : StageRun → StageRun) : Launch :=
  { l with stages := l.stages.set n (g (l.stage n)) }

/-- The physical cores of a field that hold a task (idle ranks too). -/
def Field.cores (f : Field) : List Nat := f.teams.flatMap (fun c => (List.range 16).map (16 * c + ·))

/-- Is every rank of the field loaded (R15)? -/
def Field.full (f : Field) : Bool := decide (16 * f.teams.length ≤ f.loaded.length)

/-- Has the field of a core's task started: every rank of it is loaded (R15, R30; log 42)? -/
def State.fieldStarted (s : State) (n : Nat) : Bool :=
  match (s.coreAt n).task with
  | none => true
  | some t => match s.fieldOf t with | some f => f.full | none => true

/-- The tasks of a field that have not ended, of `f.tasks st` in all. -/
def Field.running (f : Field) (st : StageRun) : Nat := f.tasks st - f.ended.length

/-- A core without its task: its registers stay, and it retires nothing more for it (R18). -/
def Core.dropTask (c : Core) : Core :=
  { c with
    task := none, vpend := [], lead := none, fwd := [], wait := .none, contrib := .none, reply := .none, frz := none, stepping := false
    frzReq := false, resume := 0, sweepTrap := none, check := false }

/-- The last task of a field has ended: its idle ranks leave, its logical entries are cleared and its clusters are free (R22, R219). -/
def State.fieldEnd (s : State) (f : Field) : State :=
  let s := f.cores.foldl (fun s n => s.updCore n Core.dropTask) s
  let s := (f.teams ++ f.held).foldl (fun s c => s.updCluster c (fun k =>
    { k with holder := none, lastHolder := none, lwait := [], relClk := 0, relFrom := none, lidle := 0, idleSince := s.time.gtc })) s
  { s with disp := { s.disp with fields := removeAll s.disp.fields f } }

/-- The task of a core ends (R18, R242): NRUN falls, if its field has started, its lease is freed, its workspace becomes ordinary memory that holds its registers
(R70, R71), and its field ends with its last task. -/
def State.endTask (s : State) (n : Nat) : State :=
  match (s.coreAt n).task with
  | none => s
  | some t =>
    let s := if s.fieldStarted n then s.updCap t.caps (fun c => { c with nrun := c.nrun - 1#16 }) else s
    let s := (s.endLease n).writeBackWs n
    let s := s.updCore n Core.dropTask
    let s := s.updLaunch t.jseq (fun l => ({ l with ntask := l.ntask + 1 }).updStage t.stage (fun g => { g with ended := g.ended + 1 }))
    let s := s.updField t (fun f => { f with ended := t.logical :: f.ended })
    match s.launch t.jseq with
    | none => s
    | some l =>
      let st := l.stage t.stage
      let s := if st.tcnt ≤ st.ended then
          { s with disp := { s.disp with queues := s.disp.queues.map (fun q => if q.jseq = t.jseq ∧ q.stage = t.stage then { q with cl := true } else q) } }
        else s
      match s.fieldOf t with
      | none => s
      | some f => if f.tasks st ≤ f.ended.length then s.fieldEnd f else s

/-! The orders of LCTL (R222). -/

/-- The saved scratchpad image of core `n`, if its scratchpad was saved, else its scratchpad as it stands (R211). -/
def State.savedPad (s : State) (t n : Nat) : Mem :=
  match (Tbl.get Ctx.empty s.disp.ctxs t).pads.find? (fun p => decide (p.1 = n)) with
  | some p => p.2
  | none => s.mem.take (kPad n 0) 0x40000

/-- Bytes written at an offset of the scratchpad of a core that stands saved; whole words lose their poison (R246). -/
def State.savedPadWrite (s : State) (t n o : Nat) (bytes : List (Option Byte)) : State :=
  let x := Tbl.get Ctx.empty s.disp.ctxs t
  if x.pads.any (fun p => decide (p.1 = n)) then
    let x := { x with
      pads := x.pads.map (fun p => if p.1 = n then (n, Mem.overlay p.2 o bytes) else p)
      poison := x.poison.filter (fun w => !((List.range 8).all (fun i => covers (kPad n o) bytes (8 * w + i)))) }
    { s with disp := { s.disp with ctxs := Tbl.set Ctx.empty s.disp.ctxs t x } }
  else (s.setMem (s.mem.overlay (kPad n o) bytes)).unpoison (kPad n o) bytes

/-- Change the core that the Lens window shows. -/
def State.updLens (s : State) (n : Nat) (f : Core → Core) : State :=
  match s.savedIn n with
  | none => s.updCore n f
  | some t =>
    let x := Tbl.get Ctx.empty s.disp.ctxs t
    let x := { x with cores := x.cores.map (fun p => if p.1 = n then (n, f p.2) else p) }
    { s with disp := { s.disp with ctxs := Tbl.set Ctx.empty s.disp.ctxs t x } }

/-- Does the core wait for something it has already sent out, or hold an answer that its instruction has not used yet (R211, R356, R357)? -/
def Core.sent (c : Core) : Bool :=
  (match c.wait with
   | .cxl | .atomicOp _ | .remote => true
   | _ => false) || !decide (c.reply = .none)

/-- Has the core sent something out, or does it stand in a matrix instruction that the array holds (R325), so that a freeze or an interrupt
waits for the instruction's end? -/
def Core.midway (c : Core) : Bool := c.sent || (match c.wait with | .ring | .gred => true | _ => false)

/-- LCTL 1: resume at pc (R222, R270). -/
def State.resumeCore (s : State) (n : Nat) : State :=
  if (s.coreAt n).frz.isSome then s.updCore n (fun c => { c with frz := none, resume := 0 }) else s

/-- LCTL 2: the entry of R269 with the recorded values (R270). -/
def State.trapResume (s : State) (n : Nat) : State :=
  match (s.coreAt n).frz with
  | some f => s.updCore n (fun c => ({ c with frz := none, resume := 0 }).enterTrap false f.code f.epc f.tval)
  | none => s

/-- LCTL 3: one instruction, then a freeze (R222). -/
def State.stepCore (s : State) (n : Nat) : State :=
  if (s.coreAt n).frz.isSome then s.updCore n (fun c => { c with frz := none, resume := 0, stepping := true, stepFrom := s.run.cmds }) else s

/-- LCTL 4: end the task as at task exit (R222). -/
def State.exitCore (s : State) (n : Nat) : State :=
  if (s.coreAt n).frz.isSome then s.endTask n else s

/-- The core leaves its `sweep`: a pass that runs stops at its next group boundary, one that waits leaves the queue (R166). -/
def State.stopSweep (s : State) (n : Nat) : State :=
  s.updCluster (clusterOf n) (fun k => { k with
    pass := k.pass.map (fun p => if p.core = n then { p with stop := true } else p)
    passes := k.passes.filter (fun p => !decide (p.core = n)) })

/-- Has the core come to an aggregated add (R330)? -/
def Core.hasAgg (c : Core) : Bool := match c.contrib with | .agg _ _ _ _ => true | _ => false

/-- Does the core stand in an aggregated add that another rank of its team has sent, so that the instruction completes first (R330)? -/
def State.aggAway (s : State) (n : Nat) : Bool :=
  (s.coreAt n).hasAgg && s.cores.any (fun e => decide (clusterOf e.1 = clusterOf n) && e.2.hasAgg && (e.2.sent || e.2.remAsked))

/-- LCTL 5: freeze at the next instruction boundary; CODE 3, both Lens words pc (R222). -/
def State.freezeCore (s : State) (n : Nat) : State :=
  let c := s.coreAt n
  if c.frz.isSome then s
  else if c.midway || s.aggAway n then s.updCore n (fun c => { c with frzReq := true })
  else
    let s := if c.wait = .sweep then s.stopSweep n else s
    (s.updCore n (fun c => { c with stepping := false })).updCore n (fun c => c.freeze 3 c.pc c.pc false s.time.gtc)

/-- Does the core run a task: it holds one and is no idle rank (R14)? -/
def State.busy (s : State) (n : Nat) : Bool := (s.coreAt n).working

/-- A write to LCTL of core `n` (R222): ignored for a core without task or of an idle rank, for other values, for 1 to 4 to a core that is not
frozen and for 5 to a frozen one. While the tenant is not active an order of 1 to 4 waits for its next slot; 5 freezes the saved core where it
stands, which is an instruction boundary. -/
def State.lctl (s : State) (n v : Nat) : State :=
  match s.savedIn n with
  | some _ =>
    let c := s.lensCore n
    if (match c.task with | some t => t.idle | none => true) then s
    else if 1 ≤ v ∧ v ≤ 4 ∧ c.frz.isSome then s.updLens n (fun c => { c with resume := v })
    else if v = 5 ∧ c.frz.isNone then s.updLens n (fun c => ({ c with stepping := false }).freeze 3 c.pc c.pc false s.time.gtc)
    else s
  | none =>
    if !s.busy n then s
    else if v = 1 then s.resumeCore n
    else if v = 2 then s.trapResume n
    else if v = 3 then s.stepCore n
    else if v = 4 then s.exitCore n
    else if v = 5 then s.freezeCore n
    else s

end Sys2Proof.Machine
end

