-- ==== Sys2Proof/Machine/Engine.lean ====
section
/-! DEFINITION. The copy engines: command fields and their checks, queues, sectors, ring fills, reports, results and faults (R197 to R202, R240, R314, R359, R371, R374). -/

namespace Sys2Proof.Machine

/-! Command fields (R199). -/

/-- Bytes `[i, i + n)` of a command as a number. -/
def cmdField (raw : BitVec 512) (i n : Nat) : Nat := raw.toNat / 2 ^ (8 * i) % 2 ^ (8 * n)

def Cmd.op (c : Cmd) : Nat := cmdField c.raw 0 1
def Cmd.flg (c : Cmd) : Nat := cmdField c.raw 1 1
def Cmd.cw (c : Cmd) : Bool := natBit c.flg 0
def Cmd.bar (c : Cmd) : Bool := natBit c.flg 1
def Cmd.res (c : Cmd) : Bool := natBit c.flg 2
def Cmd.barn (c : Cmd) : Nat := cmdField c.raw 2 1
def Cmd.rq (c : Cmd) : Nat := cmdField c.raw 3 1
def Cmd.ssz (c : Cmd) : Nat := cmdField c.raw 4 1
def Cmd.src (c : Cmd) : Nat := cmdField c.raw 8 8
def Cmd.dst (c : Cmd) : Nat := cmdField c.raw 16 8
def Cmd.len (c : Cmd) : Nat := cmdField c.raw 24 8
def Cmd.fsec (c : Cmd) : Nat := cmdField c.raw 32 4
def Cmd.nsec (c : Cmd) : Nat := cmdField c.raw 36 4
def Cmd.cwa (c : Cmd) : Nat := cmdField c.raw 40 8
def Cmd.cwv (c : Cmd) : Nat := cmdField c.raw 48 4
def Cmd.tag (c : Cmd) : Nat := cmdField c.raw 56 8

/-- Sector size. -/
def Cmd.size (c : Cmd) : Nat := 256 * 2 ^ min c.ssz 8
/-- Sectors of LEN. -/
def Cmd.total (c : Cmd) : Nat := (c.len + c.size - 1) / c.size
/-- One past the last sector to copy. -/
def Cmd.stop (c : Cmd) : Nat := if c.nsec = 0 then c.total else min c.total (c.fsec + c.nsec)
/-- Bytes of sector `k`. -/
def Cmd.sectorLen (c : Cmd) (k : Nat) : Nat := min c.len ((k + 1) * c.size) - k * c.size

/-! Engines by number: cluster engines 0 to 319, package engines 1000 + e. -/

def State.engAt (s : State) (e : Nat) : Engine :=
  if e < 1000 then (s.clusterAt e).eng else Tbl.get Engine.empty s.engines (e - 1000)

def State.setEng (s : State) (e : Nat) (x : Engine) : State :=
  if e < 1000 then s.updCluster e (fun k => { k with eng := x })
  else { s with engines := Tbl.set Engine.empty s.engines (e - 1000) x }

/-- The rate of the engine in a fault record: SRCK and UNIT (R205). -/
def engSrck (e : Nat) : Nat := if e < 1000 then 2 else 3
def engUnit (e : Nat) : Nat := if e < 1000 then e else e - 1000

/-! Ring descriptors (R73). -/

def ringV (q : Word) : Bool := q.getLsbD 63
def ringCnt (q : Word) : Nat := (q.extractLsb' 50 11).toNat
def ringHead (q : Word) : Nat := (q.extractLsb' 40 10).toNat
def ringFmt (q : Word) : Nat := (q.extractLsb' 36 4).toNat
def ringEsz (q : Word) : Nat := (q.extractLsb' 32 4).toNat
def ringDepth (q : Word) : Nat := (q.extractLsb' 22 10).toNat + 1
def ringBase (q : Word) : Nat := (q.extractLsb' 0 22).toNat

/-- A descriptor from its fields. -/
def ringMake (v : Bool) (cnt head fmt esz dm1 base : Nat) : Word :=
  BitVec.ofBool v ++ 0#2 ++ BitVec.ofNat 11 cnt ++ BitVec.ofNat 10 head ++ BitVec.ofNat 4 fmt ++ BitVec.ofNat 4 esz ++ BitVec.ofNat 10 dm1 ++ BitVec.ofNat 22 base

/-- The descriptor with another CNT and HEAD. -/
def ringMove (q : Word) (cnt head : Nat) : Word :=
  ringMake (ringV q) cnt head (ringFmt q) (ringEsz q) (ringDepth q - 1) (ringBase q)

/-- Entry bytes of a ring. -/
def ringEntry (q : Word) : Nat := 64 * 2 ^ ringEsz q

/-! Addresses of an engine (R89, R149, R199). -/

/-- How an engine's access ends other than well: a fault with ADDR and KACC, or a wait at a home. -/
inductive EStop where
  | fault (s : State) (addr kacc : Nat)
  | wait (s : State)
  deriving DecidableEq, Repr

/-- A home access that waits makes the engine wait. -/
def liftE {α : Type} (r : Except Stop α) : Except EStop α :=
  match r with
  | .ok a => .ok a
  | .error (.hold s _) => .error (.wait s)
  | .error (.trap s _ v k) => .error (.fault s v.toNat k)

/-- Where an engine's access reaches: a memory key at a home, a scratchpad, host or pool memory, or another module. -/
inductive EPlace where
  | home (key : Nat)
  | pad (core off : Nat)
  | outside (key : Nat)
  | remote
  deriving DecidableEq, Repr

/-- May a tenant's engine name this scratchpad (R89)? -/
def State.padOpenTo (s : State) (ten core : Nat) : Bool :=
  partV (s.part ten) && (partCmask (s.part ten)).getLsbD (clusterOf core) && !s.isServer core

/-- The checks of an engine's access of `n` bytes within one 128-byte block. -/
def State.engCheck (s : State) (ten asid ea n : Nat) (k : Access) : Except EStop (State × EPlace) :=
  let bad : Except EStop (State × EPlace) := .error (.fault s ea (kaccKind k))
  match s.region none (BitVec.ofNat 64 ea) with
  | .paged va => do
    let (s, t) ← liftE (s.walk ten asid va k)
    match t with
    | none => .error (.fault s ea (kaccKind k))
    | some e =>
      if e.bk = 0 then (if s.poisonStops (e.key va) n k then .error (.fault s ea (kaccKind k)) else pure (s, .home (e.key va)))
      else pure (s, .outside (e.key va))
  | .pkg off => if s.pkgBytes ten < off + n || s.poisonStops (kPkg ten off) n k then bad else .ok (s, .home (kPkg ten off))
  | .pad core off =>
    if !s.padOpenTo ten core || s.inWs core off n then bad
    else if isWrite k && (s.inArgs core off n || s.inSeal core off n) then bad
    else if s.poisonStops (kPad core off) n k then bad
    else .ok (s, .pad core off)
  | .remote => if ea % 2 ^ 42 < 0x20400000000 then .ok (s, .remote) else bad
  | .window _ _ | .text | .ctrl _ | .absent | .nowhere => bad

/-- A new value of one of an engine's marks (R371). -/
def State.raiseEwm (s : State) (e t : Nat) : State :=
  let x := s.engAt e
  s.setEng e { x with ewm := max x.ewm t }

/-- Read bytes for an engine; bytes of another module are free values (log 9). -/
def State.engRead (s : State) (ten asid ea n : Nat) : Except EStop (State × List Byte) := do
  let (s, p) ← s.engCheck ten asid ea n .load
  match p with
  | .home key => do
    let (s, _) ← liftE (s.homeRead key n)
    pure (s, s.mem.readBytes key n)
  | .pad core off => pure (s, s.mem.readBytes (kPad core off) n)
  | .outside key => pure (s, s.mem.readBytes key n)
  | .remote =>
    pure ({ s with run := { s.run with free := s.run.free + n } },
      (List.range n).map (fun i => (Config.freeWord (s.run.free + i)).setWidth 8))

/-- Write bytes for an engine; at a home its EWM follows (R124, R371). -/
def State.engWrite (s : State) (e ten asid ea : Nat) (bytes : List (Option Byte)) : Except EStop State := do
  let (s, p) ← s.engCheck ten asid ea bytes.length .store
  match p with
  | .home key => do
    let (s, t) ← liftE (s.homeWrite key bytes 0 4)
    pure (s.raiseEwm e t)
  | .pad core off => pure (s.padWrite core off bytes)
  | .outside key => pure (s.setMem (s.mem.overlay key bytes))
  | .remote => pure { s with net := { s.net with outs := s.net.outs ++ [.storeAsk (10000 + e) (BitVec.ofNat 64 ea) bytes] } }

/-- Bytes from `ea` up to the end of its 128-byte block, at most `n`. -/
def chunk (ea n : Nat) : Nat := min n (128 - ea % 128)

/-- Copy `n` bytes in pieces that lie within one block at both ends (`fuel` pieces at most). -/
def State.engCopy (s : State) (e ten asid src dst n : Nat) : Nat → Except EStop State
  | 0 => .ok s
  | fuel + 1 => do
    if n = 0 then pure s
    else
      let k := min (chunk src n) (chunk dst n)
      let (s, b) ← s.engRead ten asid src k
      let s ← s.engWrite e ten asid dst (b.map some)
      s.engCopy e ten asid (src + k) (dst + k) (n - k) fuel

/-- Each byte kept or left out by a free bit (log 9). -/
def State.freeMask (s : State) (l : List Byte) : State × List (Option Byte) :=
  ({ s with run := { s.run with free := s.run.free + l.length } },
    (l.zipIdx).map (fun p => if Config.freeBit (s.run.free + p.2) then some p.1 else none))

/-- What a sector that faults leaves: each destination byte before the faulting access new or old, the K5 does not say which (R200). R200 leaves the
bytes behind it, and those of the sectors above, as open: they keep their old values (DESIGN CHOICE, log 102). -/
def State.engCopyFree (s : State) (e ten asid src dst n : Nat) : Nat → State
  | 0 => s
  | fuel + 1 =>
    if n = 0 then s
    else
      let k := min (chunk src n) (chunk dst n)
      match s.engRead ten asid src k with
      | .error _ => s
      | .ok (s, b) =>
        let (s, b) := s.freeMask b
        match s.engWrite e ten asid dst b with
        | .error _ => s
        | .ok s => s.engCopyFree e ten asid (src + k) (dst + k) (n - k) fuel

/-! Checks of a command's own fields (R199, R200, R314, R359). -/

/-- Is CWA a 4-byte aligned address in a scratchpad, a cluster memory or the tenant's package scratchpad (R359)? -/
def State.cwaGood (s : State) (c : Cmd) : Bool :=
  decide (c.cwa % 4 = 0) &&
    (match s.region none (BitVec.ofNat 64 c.cwa) with
     | .pkg off => decide (off + 4 ≤ s.pkgBytes c.ten)
     | .pad core _ => s.padOpenTo c.ten core
     | _ => false)

/-- ADDR and KACC of the field that breaks its limit; `none` when all hold. OP 2 pushed at a port has no pushing core whose ring RQ could be meant:
no rule says what becomes of it, and it ends as a command with a bad OP field does (DESIGN CHOICE, log 103). -/
def State.cmdBad (s : State) (c : Cmd) : Option (Nat × Nat) :=
  let other : Option (Nat × Nat) := some (0, 0xFF)
  if c.op ≠ 1 ∧ c.op ≠ 2 then other
  else if 8 ≤ c.flg then other
  else if 8 < c.ssz then other
  else if c.core.isSome ∧ (cmdField c.raw 5 1 ≠ 0 ∨ cmdField c.raw 6 2 ≠ 0) then other
  else if cmdField c.raw 52 4 ≠ 0 then other
  else if c.len % 4 ≠ 0 ∨ 2 ^ 40 < c.len then other
  else if c.bar ∧ (c.core.isNone ∨ 128 ≤ c.barn) then other
  else if c.op = 2 ∧ (c.core.isNone ∨ 16 ≤ c.rq) then other
  else if c.src % 4 ≠ 0 then some (c.src, 1)
  else if c.dst % 4 ≠ 0 then some (c.dst, 2)
  else if c.cw ∧ !s.cwaGood c then some (c.cwa, 2)
  else if c.op = 2 then
    match c.core with
    | none => other
    | some n =>
      let q := (s.coreAt n).q.getD c.rq 0#64
      if c.dst ≠ 0 then some (c.dst, 2)
      else if !ringV q ∨ c.ssz + 2 ≠ ringEsz q ∨ c.len % ringEntry q ≠ 0 then other
      else none
  else none

/-! Seal references (R145, R240). -/

/-- Does the sealed entry `i` of a cluster meet the bytes `[a, a + n)` of a scratchpad of rank `r`? -/
def sealMeetsPad (e : Seal) (r a n : Nat) : Bool :=
  let lo := max (a / 128) ((e.base + 15 - r) / 16)
  e.s && decide (0 < n) && decide (lo ≤ (a + n - 1) / 128) && decide (16 * lo + r < e.base + e.lm1 + 1)

/-- Does a source range of `n` bytes from local address `a` on touch the sealed buffer of an entry of cluster `c`: through its cluster memory, or
through the scratchpad of a rank of it? -/
def sealMeets (e : Seal) (c a n : Nat) : Bool :=
  let lo := 0x21100000000 + c * 0x400000 + e.base * 128
  e.s && decide (0 < n) &&
    ((decide (a < lo + (e.lm1 + 1) * 128) && decide (lo < a + n)) ||
     (List.range 16).any (fun r =>
       let p := 0x21000000000 + (16 * c + r) * 0x40000
       let from_ := max a p
       let to_ := min (a + n) (p + 0x40000)
       decide (from_ < to_) && sealMeetsPad e r (from_ - p) (to_ - from_)))

/-- Does an effective address name this module (R86)? -/
def State.isLocal (s : State) (ea : Nat) : Bool :=
  match s.region none (BitVec.ofNat 64 ea) with
  | .nowhere | .remote => false
  | _ => true

/-- The sealed entries that a source range touches, as 32 × cluster + entry. -/
def State.sealRefs (s : State) (ea n : Nat) : List Nat :=
  if !s.isLocal ea then []
  else s.clusters.flatMap (fun k =>
    ((List.range 32).filter (fun i => sealMeets (k.2.seals.getD i ⟨false, 0, 0, 0⟩) k.1 (ea % 2 ^ 42) n)).map (32 * k.1 + ·))

/-- Does a source range touch a buffer that was unsealed in this cycle (R240)? -/
def State.unsealedNow (s : State) (ea n : Nat) : Bool :=
  s.isLocal ea && s.run.notes.any (fun p => decide (p.1 = s.time.gtc) &&
    (match p.2 with | .unseal c e => sealMeets e c (ea % 2 ^ 42) n | .pop _ _ | .wfe _ | .event _ _ | .yield _ => false))

/-- Add 1 to the CNT of each referenced entry. -/
def State.takeRefs (s : State) (refs : List Nat) : State :=
  refs.foldl (fun s r => s.updCluster (r / 32) (fun k =>
    let e := k.seals.getD (r % 32) ⟨false, 0, 0, 0⟩
    { k with seals := k.seals.setIfInBounds (r % 32) { e with cnt := min 0xFFFF (e.cnt + 1) } })) s

/-- Subtract it again. -/
def State.dropRefs (s : State) (refs : List Nat) : State :=
  refs.foldl (fun s r => s.updCluster (r / 32) (fun k =>
    let e := k.seals.getD (r % 32) ⟨false, 0, 0, 0⟩
    { k with seals := k.seals.setIfInBounds (r % 32) { e with cnt := e.cnt - 1 } })) s

/-! Results (R201, R374). -/

/-- One more than every place in the order of ends that a queue's elements hold. -/
def nextOrder (l : List ResElt) : Nat := l.foldl (fun k r => max k r.order) 0 + 1

/-- The element of command `id` ends where it stands, the reserved elements staying oldest first (R201, R359), and takes the next place in
the order of ends. -/
def endElt (l : List ResElt) (id done status fidx mark : Nat) : List ResElt :=
  l.map (fun r =>
    if r.cmd = id ∧ !r.ended then
      { r with
        ended := true, done := BitVec.ofNat 32 done, status := BitVec.ofNat 16 status, fidx := BitVec.ofNat 16 fidx, mark := mark
        order := nextOrder l }
    else r)

/-- Post the result of a command, if RES is set: to the pushing core, whose EV is set (R334), or to the port. -/
def State.postResult (s : State) (e : Nat) (c : Cmd) (status fidx : Nat) : State :=
  let mark := (s.engAt e).ewm
  if c.res then
    match c.core with
    | some n => (s.updCore n (fun k => { k with results := endElt k.results c.id c.done status fidx mark })).signalEv n
    | none => let x := s.engAt e; s.setEng e { x with results := endElt x.results c.id c.done status fidx mark }
  else s

/-! Starting and ending commands (R198 to R200). -/

/-- CUR clears and the queue moves up: the shadow set becomes current and the queue's head moves into the shadow set (R198). -/
def Engine.advance (x : Engine) : Engine :=
  match x.cur with
  | some _ => x
  | none =>
    match x.queue with
    | [] => { x with cur := x.shd, shd := none }
    | h :: t => { x with cur := x.shd, shd := some h, queue := t }

/-- Is a request of this agent on its way to another module? -/
def Out.askOf (o : Out) (a : Nat) : Bool :=
  match o with
  | .loadAsk c _ _ => decide (c = a)
  | .storeAsk c _ _ => decide (c = a)
  | .checkAsk c _ _ => decide (c = a)
  | .loadSome c _ _ => decide (c = a)
  | .checkSome c _ _ => decide (c = a)
  | .hintAsk c _ _ => decide (c = a)
  | .atomicAsk c _ _ _ _ _ => decide (c = a)
  | .answer _ _ | .hostData _ _ _ _ _ _ | .hostAbort => false

/-- Drop the current command and move up. Answers still to come to what it sent out concern no later command (R359). -/
def State.endCmd (s : State) (e : Nat) (c : Cmd) : State :=
  let s := s.dropRefs c.refs
  let s := { s with net := { s.net with outs := s.net.outs.filter (fun o => !o.askOf (10000 + e)) } }
  s.setEng e ({ s.engAt e with cur := none } : Engine).advance

/-- End the current command by a fault at sector `k` (R200). With the fault queue full the engine stands with its command (R205). -/
def State.faultCmd (s : State) (e : Nat) (c : Cmd) (k addr kacc : Nat) : State :=
  let r : FaultRec := ⟨50, engSrck e, engUnit e, addr, kacc, k, c.tag, c.jseq, c.lcore⟩
  let q := s.fq c.ten
  if q.next - q.head < 1024 then
    let (s, i) := s.faultRecord c.ten r c.raw
    (s.postResult e c 1 (i.getD 0xFFFF)).endCmd e c
  else
    let s := if c.pend.isSome then s else s.count cFQOVF 1
    s.setEng e { s.engAt e with cur := some { c with pend := some (k, addr, kacc) } }

/-- End the current command as done: its completion word, with the engine's mark, then its result (R178, R199, R371). -/
def State.finishCmd (s : State) (e : Nat) (c : Cmd) : State :=
  let mark := (s.engAt e).ewm
  if c.cw then
    match s.engCheck c.ten c.asid c.cwa 4 .store with
    | .error (.wait s) => s
    | .error (.fault s _ _) => s.faultCmd e c c.stop c.cwa 2
    | .ok (s, .pad core off) =>
      let s := s.updCore core (fun k => { k with scm := max k.scm mark })
      let s := s.padWrite core off ((natToBytes 4 c.cwv).map some)
      (s.postResult e c 0 0xFFFF).endCmd e c
    | .ok (s, .home key) =>
      match s.homeWrite key ((natToBytes 4 c.cwv).map some) mark 4 with
      | .error (.hold s _) => s
      | .error (.trap s _ _ _) => s.faultCmd e c c.stop c.cwa 2
      | .ok (s, t) => ((s.raiseEwm e t).postResult e c 0 0xFFFF).endCmd e c
    | .ok (s, _) => s.faultCmd e c c.stop c.cwa 2
  else (s.postResult e c 0 0xFFFF).endCmd e c

/-- What happens as a command becomes current: a port command of no valid tenant ends at once, its fields are checked, and a
command that selects no sector ends as done (R199, R200). `fuel` bounds the commands that end so one after another. -/
def State.startCmds (s : State) (e : Nat) : Nat → State
  | 0 => s
  | fuel + 1 =>
    let x := s.engAt e
    match x.cur with
    | none =>
      if x.shd.isSome then (s.setEng e x.advance).startCmds e fuel else s
    | some c =>
      if 0 < c.start then s
      else if c.core.isNone ∧ (16 ≤ c.ten ∨ !partV (s.part c.ten)) then
        ((s.postResult e c 1 0xFFFF).endCmd e c).startCmds e fuel
      else
        match s.cmdBad c with
        | some (addr, kacc) => (s.faultCmd e c c.fsec addr kacc).startCmds e fuel
        | none =>
          let c := { c with start := 1 }
          let s := s.setEng e { s.engAt e with cur := some c }
          if c.total ≤ c.fsec then (s.finishCmd e { c with sector := c.stop }).startCmds e fuel
          else s

/-- Let the engine move on. -/
def State.startEng (s : State) (e : Nat) : State := s.startCmds e 12

/-- Is the engine's queue full (R198)? -/
def Engine.full (x : Engine) : Bool := x.shd.isSome && decide (6 ≤ x.queue.length)

/-- A command enters: into the shadow set if that is empty, else behind the queue; it holds its seal references from now on (R198, R240). -/
def State.enterCmd (s : State) (e : Nat) (c : Cmd) : State :=
  let refs := s.sealRefs c.src c.len
  let s := s.takeRefs refs
  let c := { c with refs := refs, id := s.run.cmds }
  let s := { s with run := { s.run with cmds := s.run.cmds + 1 } }
  let x := s.engAt e
  let x := if x.shd.isNone then { x with shd := some c } else { x with queue := x.queue ++ [c] }
  (s.setEng e x).startEng e

/-- An element reserved for a command with RES = 1 (R201). -/
def reserve (raw : BitVec 512) (id : Nat) : ResElt := ⟨BitVec.ofNat 64 (cmdField raw 56 8), 0#32, 0#16, 0#16, false, 0, id, 0⟩

/-! Ports (R206, R374). -/

/-- A command as pushed at a port. -/
def portCmd (raw : BitVec 512) : Cmd :=
  ⟨raw, 0, none, cmdField raw 5 1, cmdField raw 6 2, 0xFFFFFFFF, 0, cmdField raw 32 4, 0, 0, [], none⟩

/-- Has the engine room for a command pushed at its port: a place in the queue and, when RES is set, a free element (R198, R374)? -/
def Engine.takes (x : Engine) (raw : BitVec 512) : Bool :=
  !x.full && (!natBit (cmdField raw 1 1) 2 || decide (x.results.length < 8))

/-- A command pushed at a port enters; with RES set it reserves an element (R374). -/
def State.portEnter (s : State) (e : Nat) (raw : BitVec 512) : State :=
  let x := s.engAt e
  let x := { x with results := if natBit (cmdField raw 1 1) 2 then x.results ++ [reserve raw s.run.cmds] else x.results }
  (s.setEng e x).enterCmd e (portCmd raw)

/-- A push at the port of package engine `e`. The port holds a push that finds no room, and every push behind one that it holds, in their
order (R198, R374). -/
def State.portPush (s : State) (e : Nat) (raw : BitVec 512) : State :=
  let x := s.engAt e
  if x.held.isEmpty && x.takes raw then s.portEnter e raw else s.setEng e { x with held := x.held ++ [raw] }

/-- At most `fuel` held pushes enter, oldest first, while room has come. -/
def State.portEnters (s : State) (e : Nat) : Nat → State
  | 0 => s
  | fuel + 1 =>
    let x := s.engAt e
    match x.held with
    | [] => s
    | raw :: rest => if x.takes raw then ((s.setEng e { x with held := rest }).portEnter e raw).portEnters e fuel else s

/-- Held pushes enter as far as room has come. -/
def State.portRetry (s : State) (e : Nat) : State := s.portEnters e (s.engAt e).held.length

/-- Let the engine move on, and its port's held pushes after it. -/
def State.moveEng (s : State) (e : Nat) : State := (s.startEng e).portRetry e

/-- Bytes 8 to 15 of an element. -/
def ResElt.high (r : ResElt) : Word := r.fidx ++ r.status ++ r.done

/-- An 8-byte or 16-byte read at + 0x40 of the port: the oldest reserved element is taken if it has ended, else all ones (R374). -/
def State.portPop (s : State) (e n : Nat) : State × Nat :=
  let x := s.engAt e
  match x.results with
  | r :: rest =>
    if r.ended then
      let latch := if n = 16 then x.latch else some r.high
      ((s.setEng e { x with results := rest, latch := latch }).portRetry e,
        if n = 16 then r.tag.toNat + r.high.toNat * 2 ^ 64 else r.tag.toNat)
    else (s, 2 ^ (8 * n) - 1)
  | [] => (s, 2 ^ (8 * n) - 1)

/-- The mark of the element that a pop at the port takes (R371); 0 when it takes none. -/
def State.portMark (s : State) (e : Nat) : Nat :=
  match (s.engAt e).results with
  | r :: _ => if r.ended then r.mark else 0
  | [] => 0

/-- A read at + 0x48: the latched bytes, and the latch clears (R374). -/
def State.portLatch (s : State) (e : Nat) : State × Nat :=
  let x := s.engAt e
  match x.latch with
  | some w => (s.setEng e { x with latch := none }, w.toNat)
  | none => (s, 2 ^ 64 - 1)

/-! Sectors (R199, R200, R314). -/

/-- How many pops of a ring have retired in this cycle: their slots are written in the next cycle at the earliest (R325). -/
def State.popsNow (s : State) (core ring : Nat) : Nat := s.run.notes.countP (fun p => decide (p = (s.time.gtc, Note.pop core ring)))

/-- Where sector `k` of a command goes: DST + k × S, or the ring entry at (HEAD + CNT) mod depth in the pushing core's cluster memory. -/
def State.sectorDst (s : State) (c : Cmd) (k : Nat) : Option Nat :=
  if c.op = 2 then
    match c.core with
    | none => none
    | some n =>
      let q := (s.coreAt n).q.getD c.rq 0#64
      if ringCnt q + s.popsNow n c.rq < ringDepth q then
        some (0x21100000000 + clusterOf n * 0x400000 + ringBase q + (ringHead q + ringCnt q) % ringDepth q * ringEntry q)
      else none
  else some (c.dst + k * c.size)

/-- Every source byte of the sector is read: the references to buffers of which no later sector reads a byte are subtracted (R240). -/
def State.sectorRead (s : State) (e : Nat) (c : Cmd) : State × Cmd :=
  let next := (c.sector + 1) * c.size
  let later := s.sealRefs (c.src + next) (min c.len (c.stop * c.size) - next)
  let s := s.dropRefs (c.refs.filter (fun r => !later.contains r))
  let c := { c with refs := c.refs.filter later.contains }
  (s.setEng e { s.engAt e with cur := some c }, c)

/-- Has an engine writes to another module that are not acknowledged? -/
def State.engAsking (s : State) (e : Nat) : Bool := s.net.outs.any (fun o => o.askOf (10000 + e))

/-- A sector's last byte is performed: its bytes are reported, a ring's CNT rises, and the command ends after its last
sector (R199, R314, R371). -/
def State.sectorDone (s : State) (e : Nat) (c : Cmd) : State :=
  let mark := (s.engAt e).ewm
  let n := c.sectorLen c.sector
  let s := if c.bar then
      match c.core with
      | some core => { s with net := { s.net with reports := s.net.reports ++ [⟨core, c.barn, none, n, mark, 10000 + e, s.agentInc (10000 + e)⟩] } }
      | none => s
    else s
  let s := if c.op = 2 then
      match c.core with
      | some core => s.updCore core (fun k =>
          let q := k.q.getD c.rq 0#64
          { k with q := k.q.setIfInBounds c.rq (ringMove q (ringCnt q + 1) (ringHead q)) })
      | none => s
    else s
  let c := { c with sector := c.sector + 1, done := c.done + 1, start := 1 }
  let s := s.setEng e { s.engAt e with cur := some c }
  if c.stop ≤ c.sector then (s.finishCmd e c).moveEng e else s

/-- The engine performs the next sector of its current command; a fault ends the command (R199, R200). A sector with bytes in another
module is performed once that module has acknowledged them (R178). -/
def State.sector (s : State) (e : Nat) : State :=
  match (s.engAt e).cur with
  | none => s
  | some c =>
    match c.pend with
    | some (k, addr, kacc) => (s.faultCmd e c k addr kacc).moveEng e
    | none =>
      if c.start = 2 then (if s.engAsking e then s else s.sectorDone e c)
      else if c.stop ≤ c.sector then (s.finishCmd e c).moveEng e
      else
        match s.sectorDst c c.sector with
        | none => s
        | some dst =>
          match s.engCopy e c.ten c.asid (c.src + c.sector * c.size) dst (c.sectorLen c.sector) (2 * c.size / 4) with
          | .ok s =>
            let (s, c) := s.sectorRead e c
            if s.engAsking e then s.setEng e { s.engAt e with cur := some { c with start := 2 } } else s.sectorDone e c
          | .error (.wait s) => s
          | .error (.fault _ addr kacc) =>
            let s := s.engCopyFree e c.ten c.asid (c.src + c.sector * c.size) dst (c.sectorLen c.sector) (2 * c.size / 4)
            (s.faultCmd e c c.sector addr kacc).moveEng e

/-- Another module answers a write of the engine with an error: its sector faults (R200). -/
def State.engDenied (s : State) (e : Nat) (ea : Word) : State :=
  match (s.engAt e).cur with
  | some c => if c.start = 2 then (s.faultCmd e { c with start := 1 } c.sector ea.toNat 2).moveEng e else s
  | none => s

/-- Engines that stand with a fault of a tenant try their record again (R205). -/
def State.retryEngines (s : State) (ten : Nat) : State :=
  let ids := (s.clusters.map Prod.fst) ++ s.engines.map (fun p => 1000 + p.1)
  ids.foldl (fun s e =>
    match (s.engAt e).cur with
    | some c =>
      match c.pend with
      | some (k, addr, kacc) => if c.ten = ten then (s.faultCmd e c k addr kacc).moveEng e else s
      | none => s
    | none => s) s

end Sys2Proof.Machine
end

