-- ==== Sys2Proof/Machine/Ctrl.lean ====
section
/-! DEFINITION. The control region: what its registers read as and what a write of each does: launch window, slot table, partitions, pairing, command blocks, fault-queue heads, checkpoint configuration, engine ports, error counters and Lens windows (R184 to R188, R206, R207, R209, R217, R220, R222, R244, R360). -/

namespace Sys2Proof.Machine

/-! A core as its Lens window shows it (R68, R82, R222). -/

/-- Dword `i` of the first 112 bytes of the core save block (R82). -/
def Core.saveWord (c : Core) (i : Nat) : Word :=
  match i with
  | 0 => c.pc
  | 1 => c.csr.wsp.setWidth 64
  | 2 => BitVec.ofNat 64 c.csr.lclk
  | 3 => c.csr.lease.setWidth 64
  | 4 => c.csr.acfg.setWidth 64
  | 5 => c.csr.srstate
  | 6 => c.csr.vmsel.setWidth 64
  | 7 => c.csr.scbchk.setWidth 64
  | 8 => c.csr.dsel.setWidth 64
  | 9 => c.csr.coord
  | 10 => c.csr.lcore.setWidth 64
  | 11 => c.csr.ptag.setWidth 64
  | 12 => c.csr.ckstep.setWidth 64
  | 13 => c.csr.hintdrop.setWidth 64
  | _ => 0#64

/-- Set dword `i` of those; writes of read-only CSRs are accepted (R83). Bits a CSR lacks or reserves are dropped. Any value of wsp is stored
as written, which R83 says, although it may name no workspace (log 96). A write of lclk above C waits first (log 80). -/
def Core.setSaveWord (c : Core) (i : Nat) (w : Word) : Core :=
  match i with
  | 0 => { c with pc := w }
  | 1 => { c with csr := { c.csr with wsp := w.setWidth 42 } }
  | 2 => { c with csr := { c.csr with lclk := w.toNat % 2 ^ 32 } }
  | 3 => { c with csr := { c.csr with lease := w.setWidth 11 } }
  | 4 => { c with csr := { c.csr with acfg := w.setWidth 5 } }
  | 5 => { c with csr := { c.csr with srstate := w } }
  | 6 => { c with csr := { c.csr with vmsel := w.setWidth 4 } }
  | 7 => { c with csr := { c.csr with scbchk := w.setWidth 1 } }
  | 8 => { c with csr := { c.csr with dsel := w.setWidth 4 } }
  | 9 => { c with csr := { c.csr with coord := w &&& 0xFFFFFFFF0001FFFF#64 } }
  | 10 => { c with csr := { c.csr with lcore := w.setWidth 32 } }
  | 11 => { c with csr := { c.csr with ptag := w.setWidth 32 &&& 0xFFFF000F#32 } }
  | 12 => { c with csr := { c.csr with ckstep := w.setWidth 32 } }
  | 13 => { c with csr := { c.csr with hintdrop := w.setWidth 32 } }
  | _ => c

/-- Bytes 0 to 15 of a result element (R201). -/
def ResElt.word (r : ResElt) : BitVec 128 := r.fidx ++ r.status ++ r.done ++ r.tag

def ResElt.setWord (r : ResElt) (w : BitVec 128) : ResElt :=
  { r with tag := w.extractLsb' 0 64, done := w.extractLsb' 64 32, status := w.extractLsb' 96 16, fidx := w.extractLsb' 112 16 }

/-- LSTAT (R222). -/
def State.lstat (s : State) (n : Nat) : Word :=
  let c := s.lensCore n
  let saved := (s.savedIn n).isSome
  match c.frz with
  | some f => 0#48 ++ BitVec.ofNat 8 f.code ++ 0#6 ++ BitVec.ofBool saved ++ 1#1
  | none => 0#62 ++ BitVec.ofBool saved ++ 0#1

/-- Byte `o` of the core save block (R82). -/
def Core.saveByte (c : Core) (o : Nat) : Byte :=
  if o < 256 then getByte (c.saveWord (o / 8)) (o % 8)
  else if o < 384 then getByte (c.q.getD ((o - 256) / 8) 0#64) (o % 8)
  else if o < 448 then getByte (c.mc.getD ((o - 384) / 4) 0#32) (o % 4)
  else if o < 512 then 0#8
  else if o < 1536 then getByte (c.bar.getD ((o - 512) / 8) 0#64) (o % 8)
  else getByte (BitVec.ofNat 32 (c.bm.getD ((o - 1536) / 4) 0)) (o % 4)

/-- Set it; the reserved bits of ring descriptors and barrier words stay 0 (R73, R75). A write of a mark BM above C waits first (log 80). -/
def Core.setSaveByte (c : Core) (o : Nat) (b : Byte) : Core :=
  if o < 256 then c.setSaveWord (o / 8) (setByte (c.saveWord (o / 8)) (o % 8) b)
  else if o < 384 then { c with q := c.q.setIfInBounds ((o - 256) / 8) (setByte (c.q.getD ((o - 256) / 8) 0#64) (o % 8) b &&& 0x9FFFFFFFFFFFFFFF#64) }
  else if o < 448 then { c with mc := c.mc.setIfInBounds ((o - 384) / 4) (setByte (c.mc.getD ((o - 384) / 4) 0#32) (o % 4) b) }
  else if o < 512 then c
  else if o < 1536 then { c with bar := c.bar.setIfInBounds ((o - 512) / 8) (setByte (c.bar.getD ((o - 512) / 8) 0#64) (o % 8) b &&& 0x03FFFFFFFFFFFFFF#64) }
  else
    { c with bm := c.bm.setIfInBounds ((o - 1536) / 4) (setByte (BitVec.ofNat 32 (c.bm.getD ((o - 1536) / 4) 0)) (o % 4) b).toNat }

/-- Byte `o` of the Lens window of core `n` (R222). -/
def State.lensByte (s : State) (n o : Nat) : Byte :=
  let c := s.lensCore n
  if o < 0x940 then
    match s.savedIn n with
    | some t => if c.wsIn then (c.withWs (s.savedPad t n) c.wsOff).wsByte o else c.wsByte o
    | none => c.wsByte o
  else if 0x1000 ≤ o ∧ o < 0x1800 then c.saveByte (o - 0x1000)
  else if 0x1800 ≤ o ∧ o < 0x1880 then getByte (c.win.getD ((o - 0x1800) / 8) 0#64) (o % 8)
  else if 0x1880 ≤ o ∧ o < 0x1900 then getByte (c.rb.getD ((o - 0x1880) / 8) 0#64) (o % 8)
  else if 0x1900 ≤ o ∧ o < 0x1980 then
    match c.results[(o - 0x1900) / 16]? with
    | some r => getByte r.word (o % 16)
    | none => 0#8
  else if 0x2000 ≤ o ∧ o < 0x2008 then getByte (s.lstat n) (o % 8)
  else if 0x2008 ≤ o ∧ o < 0x2018 then
    match c.frz with
    | some f => getByte (if o < 0x2010 then f.epc else f.tval) (o % 8)
    | none => 0#8
  else 0#8

/-- A byte written through the Lens window (R222, R359); reserved bits of window entries and receive descriptors stay 0 (R93, R203). -/
def Core.lensPut (c : Core) (o : Nat) (b : Byte) : Core :=
  if o < 0x940 then c.setWsByte o b
  else if 0x1000 ≤ o ∧ o < 0x1800 then c.setSaveByte (o - 0x1000) b
  else if 0x1800 ≤ o ∧ o < 0x1880 then
    { c with win := c.win.setIfInBounds ((o - 0x1800) / 8) (setByte (c.win.getD ((o - 0x1800) / 8) 0#64) (o % 8) b &&& 0x8FE3FFFFFFFFFFFF#64) }
  else if 0x1880 ≤ o ∧ o < 0x1900 then
    { c with rb := c.rb.setIfInBounds ((o - 0x1880) / 8) (setByte (c.rb.getD ((o - 0x1880) / 8) 0#64) (o % 8) b &&& 0x83FFF0000003FFFF#64) }
  else if 0x1900 ≤ o ∧ o < 0x1980 then
    match c.results[(o - 0x1900) / 16]? with
    | some r => { c with results := c.results.set ((o - 0x1900) / 16) (r.setWord (setByte r.word (o % 16) b)) }
    | none => c
  else c

/-- Bytes written through the Lens window from offset `o` on. -/
def Core.lensWrite (c : Core) (o : Nat) : List (Option Byte) → Core
  | [] => c
  | none :: t => Core.lensWrite c (o + 1) t
  | some b :: t => Core.lensWrite (c.lensPut o b) (o + 1) t

/-- Has the core a clock or a barrier mark above `ceil`? -/
def Core.aboveCeil (c : Core) (ceil : Nat) : Bool := decide (ceil < c.csr.lclk) || c.bm.toList.any (fun b => decide (ceil < b))

/-- A Lens write that would leave lclk or a mark BM above C waits until C has reached the value, so that the core still resumes with exactly
the values written (R83, R120, R371; log 80). -/
def State.lensWaits (s : State) (n o : Nat) (bytes : List (Option Byte)) : Bool :=
  decide (0x1000 ≤ o) && ((s.lensCore n).lensWrite o bytes).aboveCeil s.ceil

/-- Does a write of `k` bytes at offset `o` of a Lens window reach the state word or the mark of barrier `b` (R82)? -/
def lensHits (o k b : Nat) : Bool :=
  (decide (o < 0x1200 + 8 * (b + 1)) && decide (0x1200 + 8 * b < o + k)) || (decide (o < 0x1600 + 4 * (b + 1)) && decide (0x1600 + 4 * b < o + k))

/-- A write of bytes through the Lens window of core `n` (R83, R222). Registers of a core that stands saved lie in its workspace (R65, R82). A
barrier word that is written starts anew: updates of the same cycle that reached it before are part of what was overwritten. -/
def State.lensStore (s : State) (n o : Nat) (bytes : List (Option Byte)) : State :=
  let s := s.updLens n (fun c => c.lensWrite o bytes)
  let s := { s with run := { s.run with bars := s.run.bars.filter (fun e => !(decide (e.core = n) && lensHits o bytes.length e.bar)) } }
  match s.savedIn n with
  | some t =>
    let c := s.lensCore n
    if o < 0x940 ∧ c.wsIn then s.savedPadWrite t n (c.wsOff + o) (bytes.zipIdx.map (fun p => if o + p.2 < 8 then none else p.1)) else s
  | none => s

/-! The capsule table as it reads (R225). -/

/-- ST of a capsule state. -/
def CapSt.code (c : CapSt) : Nat :=
  match c with
  | .free => 0 | .installing => 1 | .sealed => 2 | .void => 3 | .deleted => 4

/-- The 64 bytes of an entry. -/
def Caps.raw (c : Caps) : BitVec 512 :=
  0#64 ++ c.digest ++ c.pf ++ (c.gen ++ c.fw ++ 0#16) ++
    (BitVec.ofNat 3 c.st.code ++ BitVec.ofBool c.rb ++ BitVec.ofNat 4 c.ten ++ c.dsel ++ BitVec.ofNat 20 c.nins ++ c.nctx ++ c.nrun)

/-! Reading the control region. -/

/-- The slot table's control word (R209). -/
def State.slotControl (s : State) : Word :=
  0#46 ++ BitVec.ofBool s.tabs.pend ++ BitVec.ofBool s.tabs.run ++ 0#4 ++ s.tabs.dfl ++ 0#2 ++ BitVec.ofNat 6 s.tabs.cur

/-- A tenant's checkpoint configuration as 32 bytes (R229). -/
def Ckpt.raw (k : Ckpt) : BitVec 256 := k.next ++ k.last ++ k.ckt ++ k.ckn ++ k.safe

/-- Byte `off` of the control region, where reading changes nothing. -/
def State.ctrlByte (s : State) (off : Nat) : Byte :=
  if 0x10000 ≤ off ∧ off < 0x10800 then getByte (Tbl.get 0#64 s.tabs.status ((off - 0x10000) / 8)) (off % 8)
  else if 0x20000 ≤ off ∧ off < 0x20008 then getByte (BitVec.ofNat 64 s.tabs.head) (off % 8)
  else if 0x20008 ≤ off ∧ off < 0x20010 then getByte (BitVec.ofNat 64 s.tabs.tail) (off % 8)
  else if 0x10000000 ≤ off ∧ off < 0x10000100 then getByte (s.tabs.slots.getD ((off - 0x10000000) / 4) 0#32) (off % 4)
  else if 0x10000200 ≤ off ∧ off < 0x10000208 then getByte s.slotControl (off % 8)
  else if 0x10000208 ≤ off ∧ off < 0x10000210 then getByte (BitVec.ofNat 64 s.tabs.epoch) (off % 8)
  else if 0x10000400 ≤ off ∧ off < 0x10000500 then getByte (s.tabs.shadow.getD ((off - 0x10000400) / 4) 0#32) (off % 4)
  else if 0x10010000 ≤ off ∧ off < 0x10010800 then getByte (s.part ((off - 0x10010000) / 128)) (off % 128)
  else if 0x10020000 ≤ off ∧ off < 0x1002A000 then getByte (s.pair ((off - 0x10020000) / 8)) (off % 8)
  else if 0x10040000 ≤ off ∧ off < 0x10080000 then getByte (s.cap ((off - 0x10040000) / 64)).raw (off % 64)
  else if 0x100A0000 ≤ off ∧ off < 0x100A1000 then
    let t := (off - 0x100A0000) / 0x100
    let o := off % 0x100
    if o < 8 then getByte (BitVec.ofNat 64 (s.fq t).head) o
    else getByte (Tbl.get Ckpt.reset s.tabs.cks t).raw (o - 0x40)
  else if 0x100C0000 ≤ off ∧ off < 0x100C00B0 then getByte (BitVec.ofNat 64 (Tbl.get 0 s.tabs.errs ((off - 0x100C0000) / 8))) (off % 8)
  else if 0x100000000 ≤ off then s.lensByte ((off - 0x100000000) / 0x10000) ((off - 0x100000000) % 0x10000)
  else s.mem.byte (kCtrl off)

/-- Is the offset in the ports of the package engines (R206)? -/
def isPort (off : Nat) : Bool := decide (0x100B0000 ≤ off) && decide (off < 0x100B1000)

/-- The engine of a port. -/
def portOf (off : Nat) : Nat := 1000 + (off - 0x100B0000) / 0x100

/-- Does a read at the offset pop a result (R374)? -/
def isPortPop (off : Nat) : Bool := isPort off && decide (off % 0x100 = 0x40)

/-- `n` bytes of the control region as a number, and the state after the read: reads at an engine port take elements (R374). -/
def State.ctrlRead (s : State) (off n : Nat) : State × Nat :=
  if isPort off then (if isPortPop off then s.portPop (portOf off) n else s.portLatch (portOf off))
  else (s, bytesToNat ((List.range n).map (fun i => s.ctrlByte (off + i))))

/-! The launch window (R186, R187). -/

/-- SEQ of a landing: byte 255 of its record. -/
def Landing.seq (l : Landing) : Byte := l.record.getD 255 0#8

/-- The pending value of a slot (R186). -/
def State.pendingSeq (s : State) (slot : Nat) : Byte :=
  match s.disp.landings.find? (fun l => decide (l.slot = slot)) with
  | some l => l.seq
  | none => (Tbl.get 0#64 s.tabs.status slot).extractLsb' 56 8

/-- A landing takes its place: behind those of earlier cycles, and among those of one cycle in ascending slot number (R187). -/
def placeLanding (l : Landing) (m : List Landing) : List Landing :=
  let before (a : Landing) : Bool := decide (a.cycle < l.cycle) || decide (a.slot < l.slot)
  m.takeWhile before ++ l :: m.dropWhile before

/-- A write that contains byte 255 of a slot lands: accepted when its value is not 0 and not the pending one; it replaces a
landing of the slot that waits (R186, R187). -/
def State.land (s : State) (slot : Nat) : State :=
  let l : Landing := ⟨slot, s.mem.readBytes (kCtrl (256 * slot)) 256, s.time.gtc⟩
  if l.seq = 0#8 ∨ l.seq = s.pendingSeq slot then s
  else { s with disp := { s.disp with landings := placeLanding l (s.disp.landings.filter (fun m => !decide (m.slot = slot))) } }

/-! The slot table and the running tenant (R209, R211, R214). -/

/-- V, TEN and LEN of a slot entry. -/
def slotV (e : BitVec 32) : Bool := e.getLsbD 31
def slotTen (e : BitVec 32) : Nat := (e.extractLsb' 22 4).toNat
def slotLen (e : BitVec 32) : Nat := (e.extractLsb' 0 22).toNat

/-- May a shadow be installed: some entry valid, and no valid LEN below 64 (R209)? -/
def shadowGood (v : Vector (BitVec 32) 64) : Bool :=
  v.toList.any slotV && v.toList.all (fun e => !slotV e || decide (64 ≤ slotLen e))

/-- The valid entries of the table, lowest first. -/
def validSlots (v : Vector (BitVec 32) 64) : List Nat := (List.range 64).filter (fun i => slotV (v.getD i 0#32))

/-- Install the shadow if one is pending and good (R209). -/
def State.installShadow (s : State) : State :=
  if s.tabs.pend ∧ shadowGood s.tabs.shadow then { s with tabs := { s.tabs with slots := s.tabs.shadow, pend := false } } else s

/-- Put listed bytes back from `dst` on. -/
def Mem.restore (m : Mem) (dst : Nat) : List (Nat × BitVec 8) → Mem
  | [] => m
  | (o, b) :: t => Mem.restore (m.put (dst + o) b) dst t

/-- Is the cluster's power on: SRAM that lost its power is not restored (R20)? -/
def State.powered (s : State) (c : Nat) : Bool := decide ((s.clusterAt c).power = .awake)

/-- Restore a tenant's context (R82, R204, R211, R242, R334): scratchpads, clusters, engines, the captured messages ahead of any new
send, and cores, whose x, v and m registers are those of their workspaces (R65); EV is 1; NCTX falls; a resume order written meanwhile takes
effect. The power-gating clock stays the cluster's own (R20). -/
def State.restoreCtx (s : State) (t : Nat) : State :=
  let x := Tbl.get Ctx.empty s.disp.ctxs t
  let s := { s with disp := { s.disp with ctxs := Tbl.set Ctx.empty s.disp.ctxs t Ctx.empty } }
  let s := x.pads.foldl (fun s p => if s.powered (clusterOf p.1) then s.setMem (s.mem.restore (kPad p.1 0) p.2) else s) s
  let s := x.poison.foldl State.poison s
  let s := { s with net := { s.net with msgs := x.msgs ++ s.net.msgs } }
  let s := x.clusters.foldl (fun s p =>
    if s.powered p.1 then
      s.updCluster p.1 (fun k => { p.2 with
        power := k.power, idleSince := k.idleSince, eng := { p.2.eng with ewm := k.eng.ewm }, sweepEwm := k.sweepEwm, tlb := k.tlb })
    else s) s
  let s := x.engines.foldl (fun s p =>
    let e := s.engAt p.1
    let e := { e with queue := e.queue ++ p.2 }
    (s.setEng p.1 (if e.shd.isNone then { e with shd := e.queue.head?, queue := e.queue.tail } else e)).startEng p.1) s
  let s := x.cores.foldl (fun s p =>
    let live := s.coreAt p.1
    let s := match p.2.task with
      | some k => if k.idle then s else s.updCap k.caps (fun c => { c with nctx := c.nctx - 1#16 })
      | none => s
    let c := if p.2.working ∧ p.2.wsIn then p.2.withWs (s.mem.take (kPad p.1 0) 0x40000) p.2.wsOff else p.2
    (s.forgetCycle p.1).setCore p.1 { c with
      ev := true, inc := live.inc, sup := live.sup, scm := live.scm, lastRet := s.time.gtc, watches := live.watches, tlb := live.tlb,
      csr := { p.2.csr with lclk := max live.csr.lclk (min p.2.csr.lclk s.ceil) }
      bm := p.2.bm.map (fun b => min b s.ceil), results := p.2.results.map (fun r => { r with mark := min r.mark s.ceil }) }) s
  x.cores.foldl (fun s p =>
    let r := p.2.resume
    let s := if r = 0 then s else s.lctl p.1 r
    s.boundary p.1) s

/-- Let a tenant run (or none). -/
def State.activate (s : State) (t : Option Nat) : State :=
  let s := { s with disp := { s.disp with active := t } }
  match t with
  | some t => s.restoreCtx t
  | none => s

/-- Does a field of a running launch wait for clusters of a tenant (R19, R20)? -/
def State.fieldWaits (s : State) (ten : Nat) : Bool :=
  s.disp.launches.any (fun l => decide (l.ten = ten) && l.running && l.stages.any (fun g => decide (g.placed * (16 * g.w) < g.tcnt)))

/-- The placed fields of a tenant. -/
def State.fieldsOf (s : State) (t : Nat) : List Field :=
  s.disp.fields.filter (fun f => match s.launch f.jseq with | some l => decide (l.ten = t) | none => false)

/-- Has the tenant a placed team or a waiting field (R214)? -/
def State.hasWork (s : State) (t : Nat) : Bool := !(s.fieldsOf t).isEmpty || s.fieldWaits t

/-- Who receives time that a tenant gives up: the tenant named, if it is valid, no donor and has work, else DEF under the same
conditions, else nobody (R214). -/
def State.donate (s : State) (donor : Nat) (named : Option Nat) : Option Nat :=
  let good (t : Nat) : Bool := partV (s.part t) && !decide (t = donor) && s.hasWork t
  let dfl := if good s.tabs.dfl.toNat then some s.tabs.dfl.toNat else none
  match named with
  | some t => if good t then some t else dfl
  | none => dfl

/-- Does a checkpoint of the tenant stream (R229)? -/
def State.streams (s : State) (t : Nat) : Bool := match s.tabs.stream with | some p => decide (p.1 = t) | none => false

/-- Who runs in an entry: its tenant, or DEF while the tenant has forfeited the entry (R213) or its checkpoint streams (R229). -/
def State.incoming (s : State) (i : Nat) : State × Option Nat :=
  let t := slotTen (s.tabs.slots.getD i 0#32)
  if s.disp.forfeit.contains t then ({ s with disp := { s.disp with forfeit := s.disp.forfeit.erase t } }, s.donate t none)
  else if s.streams t then (s, s.donate t none)
  else (s, some t)

/-- Run the entry `i` from the present cycle on (R209, R231). -/
def State.runEntry (s : State) (i : Nat) : State :=
  let s := { s with tabs := { s.tabs with cur := i, epoch := s.time.gtc } }
  let (s, t) := s.incoming i
  s.activate t

/-- CUR moves to the next valid entry; at the wrap the shadow is installed if one is pending and good (R209). -/
def State.nextEntry (s : State) : State × Option Nat :=
  match (validSlots s.tabs.slots).find? (fun i => decide (s.tabs.cur < i)) with
  | some i => (s, some i)
  | none =>
    let s := s.installShadow
    (s, (validSlots s.tabs.slots).head?)

/-- The table restarts at the entry after CUR, with EPOCH the present cycle (R231). -/
def State.restartTable (s : State) : State :=
  match s.nextEntry with
  | (s, some i) => s.runEntry i
  | (s, none) => s

/-- Start the table: a pending shadow is installed, CUR takes the lowest valid entry after an install and else the entry after
CUR, EPOCH is the present cycle, and the entry's tenant runs (R209, R231; log 15). -/
def State.startTable (s : State) : State :=
  let fresh := s.tabs.pend && shadowGood s.tabs.shadow
  let s := s.installShadow
  let v := validSlots s.tabs.slots
  match (if fresh then v.head? else (v.find? (fun i => decide (s.tabs.cur < i))).or v.head?) with
  | none => s
  | some i => s.runEntry i

/-- A write of a shadow entry: PEND is set (R209). R209 installs the shadow at the wrap and at a start of the table only; with RUN = 1, no valid
entry in the table and nothing running there is no wrap to come, and the write itself starts the table (DESIGN CHOICE, log 105). -/
def State.shadowWrite (s : State) (i : Nat) (v : BitVec 32) : State :=
  let s := { s with tabs := { s.tabs with shadow := s.tabs.shadow.setIfInBounds i (v &&& 0x83FFFFFF#32), pend := true, badCfg := removeAll s.tabs.badCfg 0 } }
  if s.tabs.run ∧ validSlots s.tabs.slots = [] ∧ s.disp.drain.isNone ∧ s.disp.active.isNone then s.startTable else s

/-- Begin the drain of the running tenant, or let the next one run at once when none does. -/
def State.switchTo (s : State) (next : Option Nat) (edge : Nat) : State :=
  match s.disp.drain with
  | some d => { s with disp := { s.disp with drain := some { d with next := next, edge := edge } } }
  | none =>
    match s.disp.active with
    | none => s.activate next
    | some t => { s with disp := { s.disp with drain := some ⟨some t, s.time.gtc, edge, false, next, false, none, none⟩ } }

/-- RUN becomes 1: the table starts, or, while the drain of a cleared RUN still goes on, its entry's tenant follows that drain. -/
def State.runSet (s : State) : State :=
  match s.disp.drain with
  | none => if s.disp.active.isNone then s.startTable else s
  | some d =>
    if d.update then s
    else
      let (s, t) := s.incoming s.tabs.cur
      s.switchTo t s.time.gtc

/-- A write of the control word: RUN and DEF (R209). Setting RUN starts the table when nothing runs and no table is bad (R215); clearing
it drains the running tenant at once, and nobody runs after it (log 44). -/
def State.controlWrite (s : State) (v : Word) : State :=
  let was := s.tabs.run
  let s := { s with tabs := { s.tabs with run := v.getLsbD 16, dfl := v.extractLsb' 8 4 } }
  if was ∧ !v.getLsbD 16 then s.switchTo none s.time.gtc
  else if !was ∧ v.getLsbD 16 ∧ !s.tabs.bootRom ∧ s.tabs.badCfg = [] then s.runSet
  else s

/-! Partitions and pairing (R217, R220). -/

/-- Has the tenant a launch in STATE 1 or 2? -/
def State.launching (s : State) (t : Nat) : Bool := s.disp.launches.any (fun l => decide (l.ten = t))

/-- Ones in a way mask. -/
def popcount (w : BitVec 32) : Nat := (waysOf w).length

/-- The limits of a partition entry (R217). -/
def State.partGood (s : State) (t : Nat) (p : BitVec 1024) : Bool :=
  decide (p.extractLsb' 2 6 = 0#6) && decide (p.extractLsb' 24 40 = 0#40) && decide (p.extractLsb' 416 32 = 0#32) && decide (p.extractLsb' 640 384 = 0#384) &&
  (!partV p ||
    (decide (partPin p ≤ 24) && decide (partPin p ≤ popcount (partWays p)) && decide (1 ≤ partLbw p) && decide (partLbw p ≤ 64) &&
     s.tabs.servers.all (fun c => !(partCmask p).getLsbD c) &&
     (List.range 16).all (fun u => decide (u = t) || !partV (s.part u) || decide (partWays (s.part u) &&& partWays p = 0#32)) &&
     decide (p.extractLsb' 484 28 = 0#28) && decide (partRoot p % 4096 = 0) && decide (s.frameOwner (partRoot p) = some t)))

/-! Zeroing under new timestamps (R92, R124, R153). -/

/-- Do lines `[lo, hi)` hold no line whose new write time is above the ceiling, and no host hold? -/
def State.linesReady (s : State) (lo hi : Nat) : Bool :=
  s.home.llc.all (fun l => !(decide (lo ≤ l.line) && decide (l.line < hi)) || decide ((s.recallOwner l.line).lineRts l.line < s.ceil)) &&
    !s.home.dir.any (fun e => decide (e.base < hi) && decide (lo < e.base + dirLines e.sz))

/-- Recall the host holds that overlap lines `[lo, hi)` (R216). -/
def State.recallLines (s : State) (lo hi : Nat) : State :=
  (s.home.dir.filter (fun e => decide (e.base < hi) && decide (lo < e.base + dirLines e.sz))).foldl
    (fun s e => if s.recalling e then s else s.recallRegion e) s

/-- The owner of a line gives it up and keeps no copy (R153). -/
def State.takeLine (s : State) (line : Nat) : State :=
  match s.llcFind line with
  | some l => if l.ov then (s.recallOwner line).updCore l.owner (fun c => { c with l1 := l1Drop c.l1 line }) else s
  | none => s

/-- Every resident line of `[lo, hi)` is taken from its owner, takes WTS := RTS := RTS + 1, loses its replicas and wakes its waiters (R124,
R126, R144, R153). -/
def State.bumpLines (s : State) (lo hi : Nat) : State :=
  let mine := (s.home.llc.filter (fun l => decide (lo ≤ l.line) && decide (l.line < hi))).map LlcLine.line
  mine.foldl (fun s n =>
    let s := (s.takeLine n).dropReplicas n
    match s.llcFind n with
    | some l => (s.llcPut { l with wts := l.rts + 1, rts := l.rts + 1 }).noteWrite n
    | none => s) s

/-- Every line of `[lo, hi)` as its home holds it: an owner gives its latest data, and a host that may hold a line's latest data is recalled
first (R123, R139). -/
def State.homeRange (s : State) (lo hi : Nat) : Except Stop State :=
  let wrote (e : DirEntry) : Bool := (List.range 4).any (fun a => (List.range 2).any (fun h => decide (2 ≤ agGet e.ag a h)))
  if s.home.dir.any (fun e => decide (e.base < hi) && decide (lo < e.base + dirLines e.sz) && wrote e) then hold (s.recallLines lo hi) .home
  else
    .ok (((s.home.llc.filter (fun l => l.ov && decide (lo ≤ l.line) && decide (l.line < hi))).map LlcLine.line).foldl State.recallOwner s)

/-- The lines that meet a test as their homes hold them, in the same way. -/
def State.homeWhere (s : State) (p : Nat → Bool) : Except Stop State :=
  let wrote (e : DirEntry) : Bool := (List.range 4).any (fun a => (List.range 2).any (fun h => decide (2 ≤ agGet e.ag a h)))
  let held := s.home.dir.filter (fun e => wrote e && (List.range (dirLines e.sz)).any (fun i => p (e.base + i)))
  if held.isEmpty then .ok (((s.home.llc.filter (fun l => l.ov && p l.line)).map LlcLine.line).foldl State.recallOwner s)
  else hold (held.foldl (fun s e => if s.recalling e then s else s.recallRegion e) s) .home

/-- Zeros to bytes `[lo, hi)` of memory; poison of the words goes with them (R246). -/
def State.zeroBytes (s : State) (lo hi : Nat) : State :=
  let s := s.setMem (Tbl.clear s.mem lo hi)
  { s with home := { s.home with poison := s.home.poison.filter (fun w => !(decide (lo ≤ 8 * w) && decide (8 * w < hi))) } }

/-- Zero the bytes `[o, e)` of a tenant's package scratchpad, whose lines are ready (R92, R124). -/
def State.zeroPkg (s : State) (t o e : Nat) : State := (s.bumpLines (kPkg t o / 128) (kPkg t e / 128)).zeroBytes (kPkg t o) (kPkg t e)

/-- Is the cluster in the mask of some valid partition (R20)? -/
def State.owned (s : State) (c : Nat) : Bool := (List.range 16).any (fun t => partV (s.part t) && (partCmask (s.part t)).getLsbD c)

/-- Does the cluster hold a team, live or saved? -/
def State.hasTeam (s : State) (c : Nat) : Bool := s.disp.fields.any (fun f => f.teams.contains c || f.held.contains c)

/-- The cluster's SRAM reads as zero: scratchpads, accumulator memory with status, progress and scale words, seal table (R20, R216). -/
def State.zeroSram (s : State) (c : Nat) : State :=
  let lo := kPad (16 * c) 0
  let hi := kPad (16 * c + 16) 0
  let s := s.setMem (Tbl.clear s.mem lo hi)
  let s := { s with home := { s.home with poison := s.home.poison.filter (fun w => !(decide (lo ≤ w * 8) && decide (w * 8 < hi))) } }
  s.updCluster c (fun k => { k with
    acc := [], accPoison := [], status := Cluster.gated.status, prog := Cluster.gated.prog, scale := Cluster.gated.scale, seals := Cluster.gated.seals
    badRow := none })

/-- Power a cluster down: dirty lines are written back (R20, R135). Its SRAM is lost, so that no later tenant reads it (R216). -/
def State.gate (s : State) (c : Nat) : State :=
  let s := (List.range 16).foldl (fun s k => s.flushL1 (16 * c + k)) s
  (s.zeroSram c).updCluster c (fun k => { k with power := .gated })

/-- The scratchpads of a cluster that a tenant used alone move to its context area, as step 6 would have moved them had the cluster been
time-shared before (R211, R216; log 106). -/
def State.parkPads (s : State) (u c : Nat) : State :=
  let cores := (List.range 16).map (16 * c + ·)
  let x := Tbl.get Ctx.empty s.disp.ctxs u
  let lo := kPad (16 * c) 0
  let hi := kPad (16 * c + 16) 0
  let inPads (w : Nat) : Bool := decide (lo ≤ w * 8) && decide (w * 8 < hi)
  let x := { x with
    pads := x.pads ++ cores.map (fun n => (n, s.mem.take (kPad n 0) 0x40000))
    poison := x.poison ++ s.home.poison.filter inPads
    clusters := if x.clusters.any (fun p => decide (p.1 = c)) then x.clusters else x.clusters ++ [(c, s.clusterAt c)] }
  let s := { s with disp := { s.disp with ctxs := Tbl.set Ctx.empty s.disp.ctxs u x } }
  (s.zeroSram c).updCluster c (fun k => { k with user := none })

/-- A cluster comes to a tenant: what another tenant that keeps it left there is that tenant's own, and is put by while that tenant does not run
(R216; log 106). -/
def State.giveCluster (s : State) (t c : Nat) : State :=
  match (s.clusterAt c).user with
  | some u =>
    if u = t ∨ s.disp.active = some u then s
    else if partV (s.part u) ∧ (partCmask (s.part u)).getLsbD c then s.parkPads u c
    else (s.zeroSram c).updCluster c (fun k => { k with user := none })
  | none => s

/-- A cluster leaves a tenant's partition, which has no launch: what the tenant left there is zeroed (R216). -/
def State.leaveCluster (s : State) (t c : Nat) : State :=
  if (s.clusterAt c).user = some t then (s.zeroSram c).updCluster c (fun k => { k with user := none }) else s

/-- A partition entry as a write of bytes would make it; CTXB stays the K5's own (R217). -/
def State.partNext (s : State) (t o : Nat) (bytes : List (Option Byte)) : BitVec 1024 :=
  overlay (overlay (s.part t) o bytes) 64 ((natToBytes 8 ((s.part t).extractLsb' 512 64).toNat).map some)

/-- May the write be made: the entry it gives keeps its limits and moves nothing under a launch (R217)? -/
def State.partTakes (s : State) (t : Nat) (p : BitVec 1024) : Bool :=
  let old := s.part t
  let moved := partCmask p ≠ partCmask old ∨ partWays p ≠ partWays old ∨ partPin p ≠ partPin old
  s.partGood t p && !(decide moved && s.launching t)

/-- The pinned ways of an entry, lowest first (R217). -/
def pinnedWays (p : BitVec 1024) : List Nat := if partV p then (waysOf (partWays p)).take (partPin p) else []

/-- The bytes of the tenant's package scratchpad whose ways the entry releases: from, to (R92). The k-th lowest pinned way holds the k-th 512 MiB
(DESIGN CHOICE, log 107). -/
def State.partReleases (s : State) (t : Nat) (p : BitVec 1024) : Nat × Nat :=
  let old := pinnedWays (s.part t)
  (2 ^ 29 * ((old.zip (pinnedWays p)).takeWhile (fun w => decide (w.1 = w.2))).length, 2 ^ 29 * old.length)

/-- A write of a partition entry that releases pinned ways waits until their lines can be zeroed (R92, R120, R124). -/
def State.partWaits (s : State) (t o : Nat) (bytes : List (Option Byte)) : Bool :=
  let p := s.partNext t o bytes
  let z := s.partReleases t p
  s.partTakes t p && decide (z.1 < z.2) && !s.linesReady (kPkg t z.1 / 128) (kPkg t z.2 / 128)

/-- A write of bytes in a partition entry: refused when the entry it gives breaks a limit, or changes CMASK, WAYS or PIN under a
launch; clearing V, and pins that leave, zero the pinned bytes; CTXB is the K5's own at validation (R217, R92, R20, R144). -/
def State.partWrite (s : State) (t o : Nat) (bytes : List (Option Byte)) : State :=
  let old := s.part t
  let p := s.partNext t o bytes
  let z := s.partReleases t p
  if !s.partTakes t p then s
  else
    let fresh := partV p && !partV old
    let (w, s') := s.freeWord
    let p := if fresh then overlay p 64 ((natToBytes 8 w.toNat).map some) else p
    let s := if fresh then s' else s
    let s := if z.1 < z.2 then s.zeroPkg t z.1 z.2 else s
    let s := if partWays p ≠ partWays old ∨ !partV p then s.dropReplicasIf (fun r => decide (r.ten = t)) else s
    let holds (q : BitVec 1024) (c : Nat) : Bool := partV q && (partCmask q).getLsbD c
    let s := ((List.range 320).filter (fun c => holds old c && !holds p c)).foldl (fun s c => s.leaveCluster t c) s
    let s := ((List.range 320).filter (fun c => holds p c && !holds old c)).foldl (fun s c => s.giveCluster t c) s
    let s := { s with tabs := { s.tabs with parts := Tbl.set 0#1024 s.tabs.parts t p, badCfg := removeAll s.tabs.badCfg 1 } }
    ((List.range 320).filter (fun c => (partCmask old).getLsbD c && !s.owned c && !s.hasTeam c && !s.tabs.servers.contains c)).foldl State.gate s

/-- A write of a pairing entry: refused when BUDDY is no server core or a route is 11 (R220). -/
def State.pairWrite (s : State) (n : Nat) (v : Word) : State :=
  let routes := (List.range 6).all (fun i => decide ((v.extractLsb' (2 * i) 2) ≠ 3#2))
  if routes ∧ s.isServer (buddyOf v) then
    { s with tabs := { s.tabs with pairs := Tbl.set pairReset s.tabs.pairs n (v &&& 0xFFF8000000000FFF#64), badCfg := removeAll s.tabs.badCfg 2 } }
  else s

/-! Command blocks (R207). -/

/-- The offset of each block: translation, checkpoint, firmware, decode tables, capsules. -/
def blockOff (b : Nat) : Nat :=
  match b with
  | 0 => 0x10080000 | 1 => 0x10090000 | 2 => 0x10090800 | 3 => 0x10030000 | _ => 0x10088000

def State.block (s : State) (b : Nat) : Block := Tbl.get Block.reset s.tabs.blocks b

def State.setBlock (s : State) (b : Nat) (k : Block) : State :=
  { s with tabs := { s.tabs with blocks := Tbl.set Block.reset s.tabs.blocks b k } }

/-- Bytes 0 to 55 of a block as they stand. -/
def State.blockRaw (s : State) (b : Nat) : BitVec 448 := BitVec.ofNat 448 (s.mem.read (kCtrl (blockOff b)) 56)

/-- A command of the capsule block takes its place among the requests of the server core that performs it (R228). -/
def State.blockJob (s : State) (b : Nat) : State := if b = 4 then s.addJob (s.larupCore 0) none else s

/-- A landing of a block's sequence dword: accepted when not 0 and not the latest accepted value. It starts its command, which reads bytes
0 to 55, or waits behind the one that runs in place of an earlier landing that waits (R207). -/
def State.blockLand (s : State) (b : Nat) : State :=
  let v := BitVec.ofNat 64 (s.mem.read (kCtrl (blockOff b + 56)) 8)
  let k := Tbl.get Block.reset s.tabs.blocks b
  if v = 0#64 ∨ v = k.latest then s
  else if k.running.isSome then s.setBlock b { k with latest := v, pending := some v }
  else (s.setBlock b { k with latest := v, running := some (v, 0), raw := s.blockRaw b }).blockJob b

/-- Is any of the bytes `[lo, hi)` of a write written? -/
def writesIn (bytes : List (Option Byte)) (lo hi : Nat) : Bool := ((bytes.take hi).drop lo).any Option.isSome

/-- Bytes written into a block. -/
def State.blockWrite (s : State) (b o : Nat) (bytes : List (Option Byte)) : State :=
  let s := s.setMem (s.mem.overlay (kCtrl (blockOff b + o)) bytes)
  if writesIn bytes (56 - o) (64 - o) then s.blockLand b else s

/-- Bytes of a block as its command read them. -/
def State.blockField (s : State) (b o n : Nat) : Nat := (s.block b).raw.toNat / 2 ^ (8 * o) % 2 ^ (8 * n)

/-- Has a command of the block started that is not under way yet (R207)? -/
def State.blockPending (s : State) (b : Nat) : Bool := match (s.block b).running with | some r => decide (r.2 = 0) | none => false

/-- Is a command of the block under way? -/
def State.blockUnder (s : State) (b : Nat) : Bool := match (s.block b).running with | some r => decide (0 < r.2) | none => false

/-- The command is under way: it keeps its argument, and ends in a later step. -/
def State.blockStart (s : State) (b arg : Nat) : State :=
  let k := s.block b
  s.setBlock b { k with running := k.running.map (fun r => (r.1, arg + 1)) }

/-- The block's command is done: STATUS at 48 and the sequence value at 40, and a landing that waits starts its command (R207). -/
def State.blockDone (s : State) (b status : Nat) : State :=
  let k := s.block b
  let v := match k.running with | some r => r.1 | none => 0#64
  let s := s.setMem (s.mem.write (kCtrl (blockOff b + 48)) 8 status)
  let s := s.setMem (s.mem.write (kCtrl (blockOff b + 40)) 8 v.toNat)
  let s := if b = 4 then s.dropJob none else s
  let s := s.setBlock b { k with pending := none, running := k.pending.map (fun v => (v, 0)), raw := if k.pending.isSome then s.blockRaw b else k.raw }
  if k.pending.isSome then s.blockJob b else s

/-! Fault-queue heads, checkpoint configuration, counters (R360, R229, R244). -/

/-- A write of a tenant's head pointer (R360): ignored below the head or above the next FSEQN; records that wait find room. -/
def State.fqHeadWrite (s : State) (t : Nat) (h : Nat) : State :=
  let q := s.fq t
  if h < q.head ∨ q.next < h then s
  else
    let s := s.setFq t { q with head := h }
    (s.drainFq t q.waiting.length).retryEngines t

/-- A write of a tenant's checkpoint configuration; LAST and NEXT are read-only (R229). -/
def State.ckWrite (s : State) (t o : Nat) (bytes : List (Option Byte)) : State :=
  let k := Tbl.get Ckpt.reset s.tabs.cks t
  let r := overlay k.raw o bytes
  let k' := { k with safe := r.extractLsb' 0 64, ckn := r.extractLsb' 64 32, ckt := r.extractLsb' 96 32 }
  { s with tabs := { s.tabs with cks := Tbl.set Ckpt.reset s.tabs.cks t k' } }

/-- A write of any value to a counter's dword clears it (R244). -/
def State.errClear (s : State) (i : Nat) : State := { s with tabs := { s.tabs with errs := Tbl.set 0 s.tabs.errs i 0 } }

/-! Writing the control region. -/

/-- The number that whole bytes give; a byte that is not written reads as 0 here. -/
def optBytes (l : List (Option Byte)) : Nat := bytesToNat (l.map (fun b => b.getD 0#8))

/-- What must come about before a write of the control region can be made: the lines of released ways can be zeroed (R92), or the clock
ceiling reaches a value that a Lens write sets (R120). `none` lets it be made; otherwise the host holds in the way are recalled. -/
def State.ctrlWaits (s : State) (off : Nat) (bytes : List (Option Byte)) : Option State :=
  if 0x10010000 ≤ off ∧ off < 0x10010800 then
    let t := (off - 0x10010000) / 128
    if s.partWaits t (off % 128) bytes then
      let z := s.partReleases t (s.partNext t (off % 128) bytes)
      some (s.recallLines (kPkg t z.1 / 128) (kPkg t z.2 / 128))
    else none
  else if 0x100000000 ≤ off ∧ s.lensWaits ((off - 0x100000000) / 0x10000) ((off - 0x100000000) % 0x10000) bytes then some s
  -- a push that reads a buffer unsealed in this cycle waits for the next (R240)
  else if isPort off && s.unsealedNow (portCmd (BitVec.ofNat 512 (optBytes bytes))).src (portCmd (BitVec.ofNat 512 (optBytes bytes))).len then some s
  else none

/-- Entries of the shadow table from entry `i` on, `n` of them, each written if its bytes are (R209). -/
def State.shadowWrites (s : State) (i : Nat) (bytes : List (Option Byte)) : Nat → State
  | 0 => s
  | n + 1 =>
    let s := if writesIn bytes 0 4 then s.shadowWrite i (BitVec.ofNat 32 (optBytes (bytes.take 4))) else s
    s.shadowWrites (i + 1) (bytes.drop 4) n

/-- A write of bytes at an offset of the control region. Which writes are open is checked before (R260). -/
def State.ctrlWrite (s : State) (off : Nat) (bytes : List (Option Byte)) : State :=
  if off < 0x10000 then
    let s := s.setMem (s.mem.overlay (kCtrl off) bytes)
    if writesIn bytes (255 - off % 256) (256 - off % 256) then s.land (off / 256) else s
  else if off < 0x10000000 then s
  else if off < 0x10001000 then
    let o := off - 0x10000000
    if o = 0x200 then s.controlWrite (BitVec.ofNat 64 (optBytes bytes))
    else if 0x400 ≤ o ∧ o < 0x500 then s.shadowWrites ((o - 0x400) / 4) bytes (bytes.length / 4)
    else s
  else if off < 0x10010800 then s.partWrite ((off - 0x10010000) / 128) (off % 128) bytes
  else if off < 0x1002A000 then s.pairWrite ((off - 0x10020000) / 8) (BitVec.ofNat 64 (optBytes bytes))
  else if off < 0x10040000 then s.blockWrite 3 (off - 0x10030000) bytes
  else if off < 0x10080000 then s
  else if off < 0x10080040 then s.blockWrite 0 (off - 0x10080000) bytes
  else if off < 0x10090000 then s.blockWrite 4 (off - 0x10088000) bytes
  else if off < 0x10090040 then s.blockWrite 1 (off - 0x10090000) bytes
  else if off < 0x100A0000 then s.blockWrite 2 (off - 0x10090800) bytes
  else if off < 0x100A1000 then
    let t := (off - 0x100A0000) / 0x100
    if off % 0x100 < 8 then s.fqHeadWrite t (optBytes bytes) else s.ckWrite t (off % 0x100 - 0x40) bytes
  else if off < 0x100B1000 then s.portPush (portOf off) (BitVec.ofNat 512 (optBytes bytes))
  else if off < 0x100C0100 then s.errClear ((off - 0x100C0000) / 8)
  else if 0x100000000 ≤ off then
    let n := (off - 0x100000000) / 0x10000
    let o := (off - 0x100000000) % 0x10000
    if o = 0x2040 then s.lctl n (optBytes bytes) else s.lensStore n o bytes
  else s

end Sys2Proof.Machine
end

