-- ==== Sys2Proof/Machine/Num.lean ====
section
/-! DEFINITION. Number formats as exact dyadic values: decoding, one rounding with its modes, conversions with their events, and exact arithmetic (R99 to R113). -/

namespace Sys2Proof.Machine

/-- A number a format can hold, exactly: (−1)^neg × mant × 2^exp, an infinity, or not a number. -/
inductive Num where
  | nan
  | inf (neg : Bool)
  | fin (neg : Bool) (mant : Nat) (exp : Int)
  deriving DecidableEq, Repr

/-- Storage formats; the number is the STORED code of R93. -/
inductive Fmt where
  | fp32 | bf16 | fp16 | e4m3 | e5m2 | int8 | int32 | i4x
  deriving DecidableEq, Repr

/-- The format of a STORED code. -/
def Fmt.ofCode (c : Nat) : Option Fmt :=
  match c with
  | 0 => some .fp32 | 1 => some .bf16 | 2 => some .fp16 | 3 => some .e4m3 | 4 => some .e5m2 | 5 => some .int8
  | 6 => some .int32 | 7 => some .i4x | _ => none

/-- Bits of an element. -/
def Fmt.bits (f : Fmt) : Nat :=
  match f with
  | .fp32 | .int32 => 32
  | .bf16 | .fp16 => 16
  | .e4m3 | .e5m2 | .int8 => 8
  | .i4x => 4

/-- Is it an integer format? -/
def Fmt.isInt (f : Fmt) : Bool :=
  match f with
  | .int8 | .int32 | .i4x => true
  | .fp32 | .bf16 | .fp16 | .e4m3 | .e5m2 => false

/-- Exponent bits, mantissa bits and bias of a floating format (R99). -/
def Fmt.shape (f : Fmt) : Nat × Nat × Nat :=
  match f with
  | .fp32 => (8, 23, 127)
  | .bf16 => (8, 7, 127)
  | .fp16 => (5, 10, 15)
  | .e4m3 => (4, 3, 7)
  | .e5m2 => (5, 2, 15)
  | .int8 | .int32 | .i4x => (8, 23, 127)

/-- The canonical NaN of a format (R100). -/
def Fmt.canonNan (f : Fmt) : Nat :=
  match f with
  | .fp32 => 0x7FC00000
  | .bf16 => 0x7FC0
  | .fp16 => 0x7E00
  | .e4m3 => 0x7F
  | .e5m2 => 0x7E
  | .int8 | .int32 | .i4x => 0

/-- Does FTZ apply to the format (R105)? -/
def Fmt.flushes (f : Fmt) : Bool :=
  match f with
  | .fp32 | .bf16 | .fp16 => true
  | _ => false

/-- A signed integer as a number. -/
def Num.ofInt (i : Int) : Num := .fin (decide (i < 0)) i.natAbs 0

/-- The two's-complement integer of the low `n` bits. -/
def signedOf (n v : Nat) : Int :=
  let v := v % 2 ^ n
  if v < 2 ^ (n - 1) then (v : Int) else (v : Int) - (2 ^ n : Nat)

/-- The value of a code (R99, R101); an I4X code is decoded with its block elsewhere. -/
def Fmt.decode (f : Fmt) (raw : Nat) : Num :=
  match f with
  | .int8 => Num.ofInt (signedOf 8 raw)
  | .int32 => Num.ofInt (signedOf 32 raw)
  | .i4x => Num.ofInt (signedOf 4 raw)
  | .fp32 | .bf16 | .fp16 | .e4m3 | .e5m2 =>
    let (eb, mb, bias) := f.shape
    let s := natBit' raw (eb + mb)
    let e := raw / 2 ^ mb % 2 ^ eb
    let m := raw % 2 ^ mb
    if decide (e = 2 ^ eb - 1) && (if f = .e4m3 then decide (m = 7) else decide (m ≠ 0)) then .nan
    else if decide (e = 2 ^ eb - 1) && !decide (f = .e4m3) then .inf s
    else if e = 0 then .fin s m (1 - (bias : Int) - mb)
    else .fin s (2 ^ mb + m) ((e : Int) - bias - mb)
where
  natBit' (v i : Nat) : Bool := v.testBit i

/-- A subnormal input of a format that FTZ governs reads as zero of its sign (R105). -/
def Fmt.decodeFtz (f : Fmt) (ftz : Bool) (raw : Nat) : Num :=
  let (eb, mb, _) := f.shape
  match f.decode raw with
  | .fin s m e => if ftz && f.flushes && decide (raw / 2 ^ mb % 2 ^ eb = 0) then .fin s 0 e else .fin s m e
  | n => n

/-- How a magnitude between two neighbours is rounded: a mode of acfg.RM, or a 16-bit random field (R105, R110). -/
inductive Rounding where
  | rne | rtz | rdn | rup
  | stochastic (rnd : Nat)
  deriving DecidableEq, Repr

/-- The mode of acfg.RM (R78). -/
def Rounding.ofRm (rm : Nat) : Rounding :=
  match rm with
  | 0 => .rne | 1 => .rtz | 2 => .rdn | _ => .rup

/-- Does a magnitude q + rem/2^sh round up? -/
def Rounding.up (r : Rounding) (neg : Bool) (q rem sh : Nat) : Bool :=
  match r with
  | .rne => decide (2 ^ sh < 2 * rem) || (decide (2 * rem = 2 ^ sh) && decide (q % 2 = 1))
  | .rtz => false
  | .rdn => neg && decide (0 < rem)
  | .rup => !neg && decide (0 < rem)
  | .stochastic rnd => decide (2 ^ 16 ≤ rem * 2 ^ 16 / 2 ^ sh + rnd)

/-- Round mant × 2^exp to `p` bits, with units no finer than 2^lo when `lo` is given: the integer and its unit's exponent. -/
def roundMag (r : Rounding) (neg : Bool) (mant : Nat) (exp : Int) (p : Nat) (lo : Option Int) : Nat × Int :=
  let u0 : Int := exp + (mant.log2 + 1 : Nat) - p
  let u := match lo with | some l => max u0 l | none => u0
  if u ≤ exp then (mant * 2 ^ (exp - u).toNat, u)
  else
    let sh := (u - exp).toNat
    let q := mant / 2 ^ sh
    let rem := mant % 2 ^ sh
    (if r.up neg q rem sh then q + 1 else q, u)

/-- The events of one conversion (R107). -/
structure Events where
  ovf : Bool
  nan : Bool
  inv : Bool
  sat : Bool
  deriving DecidableEq, Repr

def Events.none : Events := ⟨false, false, false, false⟩

/-- Either's events. -/
def Events.or (a b : Events) : Events := ⟨a.ovf || b.ovf, a.nan || b.nan, a.inv || b.inv, a.sat || b.sat⟩

/-- The modes a conversion uses. -/
structure Modes where
  round : Rounding
  ftz : Bool
  satf8 : Bool
  deriving DecidableEq, Repr

/-- Sign bit, exponent field and mantissa field as a code. -/
def Fmt.code (f : Fmt) (neg : Bool) (e m : Nat) : Nat :=
  let (eb, mb, _) := f.shape
  (if neg then 2 ^ (eb + mb) else 0) + e * 2 ^ mb + m

/-- ±0. -/
def Fmt.zero (f : Fmt) (neg : Bool) : Nat := f.code neg 0 0

/-- The largest finite magnitude. -/
def Fmt.maxFinite (f : Fmt) (neg : Bool) : Nat :=
  let (eb, mb, _) := f.shape
  if f = .e4m3 then f.code neg 15 6 else f.code neg (2 ^ eb - 2) (2 ^ mb - 1)

/-- ±∞; E4M3 has none. -/
def Fmt.infinity (f : Fmt) (neg : Bool) : Nat :=
  let (eb, _, _) := f.shape
  f.code neg (2 ^ eb - 1) 0

/-- A finite value that rounds beyond the largest magnitude (R106). -/
def Fmt.overflow (f : Fmt) (m : Modes) (neg : Bool) : Nat × Events :=
  let ev : Events := ⟨true, false, false, false⟩
  if f = .e4m3 then (if m.satf8 then f.maxFinite neg else f.canonNan, ev)
  else
    match m.round with
    | .rne | .stochastic _ => (f.infinity neg, ev)
    | .rtz => (f.maxFinite neg, ev)
    | .rdn => (if neg then f.infinity neg else f.maxFinite neg, ev)
    | .rup => (if neg then f.maxFinite neg else f.infinity neg, ev)

/-- Round an exact finite value into a floating format (R105, R106, R110). -/
def Fmt.encodeFinite (f : Fmt) (m : Modes) (neg : Bool) (mant : Nat) (exp : Int) : Nat × Events :=
  let (eb, mb, bias) := f.shape
  if mant = 0 then (f.zero neg, Events.none)
  else
    let lo : Int := 1 - (bias : Int) - mb
    let (qf, uf) := roundMag m.round neg mant exp (mb + 1) Option.none
    let tiny : Bool := if uf < lo then decide (qf < 2 ^ (mb + (lo - uf).toNat)) else false
    if m.ftz && f.flushes && tiny then (f.zero neg, Events.none)
    else
      let (q, u) := roundMag m.round neg mant exp (mb + 1) (some lo)
      let (q, u) := if q = 2 ^ (mb + 1) then (2 ^ mb, u + 1) else (q, u)
      if q < 2 ^ mb then (f.code neg 0 q, Events.none)
      else
        let e := (u + mb + bias).toNat
        if 2 ^ eb - 1 < e ∨ (e = 2 ^ eb - 1 ∧ (f ≠ .e4m3 ∨ q = 2 ^ mb + 7)) then f.overflow m neg
        else (f.code neg e (q - 2 ^ mb), Events.none)

/-- Round an exact value to an integer. -/
def roundInt (r : Rounding) (neg : Bool) (mant : Nat) (exp : Int) : Int :=
  let q := if 0 ≤ exp then mant * 2 ^ exp.toNat
    else
      let sh := (-exp).toNat
      let q := mant / 2 ^ sh
      if r.up neg q (mant % 2 ^ sh) sh then q + 1 else q
  if neg then -(q : Int) else (q : Int)

/-- Clamp to a range; was it outside? -/
def clampInt (i lo hi : Int) : Int × Bool := if i < lo then (lo, true) else if hi < i then (hi, true) else (i, false)

/-- The low `n` bits of an integer. -/
def intBits (n : Nat) (i : Int) : Nat := (i % (2 ^ n : Nat)).toNat

/-- Convert an exact value to a format (R106, R107); I4X codes are −7 to 7 in scale units (R96, R106). -/
def Fmt.encode (f : Fmt) (m : Modes) (x : Num) : Nat × Events :=
  if f.isInt then
    let (lo, hi, n) : Int × Int × Nat :=
      match f with
      | .int8 => (-128, 127, 8)
      | .i4x => (-7, 7, 4)
      | _ => (-(2 ^ 31), 2 ^ 31 - 1, 32)
    match x with
    | .nan => (0, ⟨false, false, true, false⟩)
    | .inf neg => (intBits n (if neg then lo else hi), ⟨false, false, false, true⟩)
    | .fin neg mant exp =>
      let (i, sat) := clampInt (roundInt m.round neg mant exp) lo hi
      (intBits n i, ⟨false, false, false, sat⟩)
  else
    match x with
    | .nan => (f.canonNan, Events.none)
    | .inf neg =>
      if f = .e4m3 then (if m.satf8 then (f.maxFinite neg, ⟨false, false, false, true⟩) else (f.canonNan, ⟨false, true, false, false⟩))
      else (f.infinity neg, Events.none)
    | .fin neg mant exp => f.encodeFinite m neg mant exp

/-- Convert a stored code from one format to another (R106). -/
def convert (src dst : Fmt) (m : Modes) (raw : Nat) : Nat × Events := dst.encode m (src.decodeFtz m.ftz raw)

/-! Exact arithmetic (R277, R111). -/

/-- A finite number as a signed mantissa. -/
def signedMant (neg : Bool) (m : Nat) : Int := if neg then -(m : Int) else (m : Int)

/-- The product, exactly; 0 × ∞ is not a number. -/
def Num.mul (a b : Num) : Num :=
  match a, b with
  | .nan, _ | _, .nan => .nan
  | .inf s, .inf t => .inf (s != t)
  | .inf s, .fin t m _ => if m = 0 then .nan else .inf (s != t)
  | .fin s m _, .inf t => if m = 0 then .nan else .inf (s != t)
  | .fin s m e, .fin t n f => .fin (s != t) (m * n) (e + f)

/-- The sum, exactly; ∞ − ∞ is not a number. A zero sum of opposite signs is +0, or −0 when rounding down (IEEE 754-2019). -/
def Num.add (down : Bool) (a b : Num) : Num :=
  match a, b with
  | .nan, _ | _, .nan => .nan
  | .inf s, .inf t => if s = t then .inf s else .nan
  | .inf s, .fin _ _ _ => .inf s
  | .fin _ _ _, .inf t => .inf t
  | .fin s m e, .fin t n f =>
    let g := min e f
    let v := signedMant s m * 2 ^ (e - g).toNat + signedMant t n * 2 ^ (f - g).toNat
    if v = 0 then .fin (if s = t then s else down) 0 g else .fin (decide (v < 0)) v.natAbs g

/-- The negation. -/
def Num.neg (a : Num) : Num :=
  match a with
  | .nan => .nan
  | .inf s => .inf !s
  | .fin s m e => .fin (!s) m e

/-- Is it not a number? -/
def Num.isNan (a : Num) : Bool := decide (a = .nan)

/-- Is it zero? -/
def Num.isZero (a : Num) : Bool :=
  match a with
  | .fin _ m _ => decide (m = 0)
  | _ => false

/-- Is it an infinity? -/
def Num.isInf (a : Num) : Bool :=
  match a with
  | .inf _ => true
  | _ => false

/-- a < b for numbers that are not NaN; zeros of either sign are equal. -/
def Num.lt (a b : Num) : Bool :=
  match a, b with
  | .nan, _ | _, .nan => false
  | .inf s, .inf t => s && !t
  | .inf s, .fin _ _ _ => s
  | .fin _ _ _, .inf t => !t
  | .fin s m e, .fin t n f =>
    let g := min e f
    decide (signedMant s m * 2 ^ (e - g).toNat < signedMant t n * 2 ^ (f - g).toNat)

/-- a = b as values. -/
def Num.eq (a b : Num) : Bool := !a.isNan && !b.isNan && !Num.lt a b && !Num.lt b a

/-- A number scaled by 2^k. -/
def Num.scale (a : Num) (k : Int) : Num :=
  match a with
  | .fin s m e => .fin s m (e + k)
  | a => a

/-- FP32 round-to-nearest modes of matrix accumulation (R111): no FTZ. -/
def rneModes : Modes := ⟨.rne, false, false⟩

/-! I4X (R102 to R104). -/

/-- What an I4X element decodes to in scale units, given its byte and slot: the integer, and whether it is invalid (R102, R103). -/
def i4xUnits (b : Nat) (odd : Bool) : Int × Bool :=
  let lo := b % 16
  let hi := b / 16 % 16
  if odd then
    if lo = 8 then (0, false)
    else if hi = 8 then (0, true)
    else (signedOf 4 hi, false)
  else if lo = 8 then
    let v : Int := 2 ^ (hi % 8 + 3)
    (if 8 ≤ hi then -v else v, false)
  else (signedOf 4 lo, false)

/-- Is the element one of an outlier pair? -/
def i4xOutlier (b : Nat) : Bool := decide (b % 16 = 8)

/-! Stochastic rounding (R108, R109). -/

/-- One generator step (R108). -/
def srNext (x : Word) : Word :=
  let x := x ^^^ (x <<< 13)
  let x := x ^^^ (x >>> 7)
  x ^^^ (x >>> 17)

/-- The generator after `n` steps. -/
def srSteps (x : Word) : Nat → Word
  | 0 => x
  | n + 1 => srSteps (srNext x) n

/-- Field of element position `p`: field p mod 4 of step p div 4, counted from the state before the instruction. -/
def srField (x : Word) (p : Nat) : Nat := ((srSteps x (p / 4 + 1)).extractLsb' (16 * (p % 4)) 16).toNat

end Sys2Proof.Machine
end

