-- ==== Sys2Proof/Machine/Access.lean ====
section
/-! DEFINITION. Memory accesses of a core: loads and stores at each kind of place, the store buffer, prism windows, releases and acquires (R93 to R97, R102 to R104, R122 to R128, R142, R173 to R175, R258, R259, R261, R369). -/

namespace Sys2Proof.Machine

/-! Prism windows (R93 to R97, R102 to R104, R369). -/

def winV (e : Word) : Bool := e.getLsbD 63
def winStored (e : Word) : Nat := (e.extractLsb' 56 4).toNat
def winDecode (e : Word) : Nat := (e.extractLsb' 54 2).toNat
def winBlk (e : Word) : Bool := e.getLsbD 53
def winScale (e : Word) : Nat := (e.extractLsb' 32 18).toNat

/-- The stored format; a reserved code reads as FP32 and is never consistent. -/
def winFmt (e : Word) : Fmt := (Fmt.ofCode (winStored e)).getD .fp32

/-- The decode target. -/
def winTarget (e : Word) : Fmt :=
  match winDecode e with
  | 0 => .fp32 | 1 => .bf16 | 2 => .int8 | _ => .int32

/-- Is the format one that may have a block scale (R94)? -/
def Fmt.blockable (f : Fmt) : Bool :=
  match f with
  | .i4x | .e4m3 | .e5m2 => true
  | .fp32 | .bf16 | .fp16 | .int8 | .int32 => false

/-- Is an entry consistent (R94)? -/
def winConsistent (e : Word) : Bool :=
  winV e && decide (winStored e < 8) && decide (e.extractLsb' 60 3 = 0#3) && decide (e.extractLsb' 50 3 = 0#3) &&
    (!decide (winFmt e = .i4x) || winBlk e) && (!winBlk e || (winFmt e).blockable)

/-- The checks of R95 that raise cause 28. -/
def Core.winPlace (c : Core) (w a size : Nat) : Option WinPlace :=
  let e := c.win.getD w 0#64
  let d := (winTarget e).bits / 8
  let sbits := (winFmt e).bits
  let i := a / d
  let off := i * sbits / 8
  let k := max (sbits / 8) 1
  let sc := winScale e + i / 32
  if !winConsistent e || !decide (size = d) || !decide (a % d = 0) || decide (0x40000 < off + k) then none
  else if winBlk e then (if 0x40000 ≤ sc then none else some ⟨e, off, k, decide (i % 2 = 1), some sc⟩)
  else some ⟨e, off, k, decide (i % 2 = 1), none⟩

/-- The modes that acfg gives a conversion (R79, R95). -/
def modesOf (acfg : BitVec 5) : Modes := ⟨Rounding.ofRm (acfg.extractLsb' 0 2).toNat, acfg.getLsbD 4, acfg.getLsbD 2⟩

/-- The modes of a conversion: acfg as it stands. -/
def Core.modes (c : Core) : Modes := modesOf c.csr.acfg

/-- An E8M0 scale byte as a power of two (R99). -/
def e8m0 (b : Nat) : Int := (b : Int) - 127

/-- A stored element decoded for a load, with its events (R95, R102 to R104, R369). -/
def winLoadValue (p : WinPlace) (stored : Nat) (scale : Nat) (m : Modes) : Nat × Events :=
  let f := winFmt p.entry
  let t := winTarget p.entry
  if f = .i4x then
    let (u, inv) := i4xUnits stored p.odd
    let ev : Events := ⟨false, false, inv, false⟩
    if t.isInt then
      let (v, ev') := t.encode m (Num.ofInt u)
      (v, ev.or ev')
    else if scale = 255 then (t.canonNan, Events.none)
    else
      -- exact, but for a product beyond the range, which gives an infinity in every rounding mode (R104)
      let (v, ev') := t.encode { m with round := .rne } ((Num.ofInt u).scale (e8m0 scale))
      (v, ev.or ev')
  else if p.scale.isSome then
    if scale = 255 then t.encode m .nan else t.encode m ((f.decode stored).scale (e8m0 scale))
  else convert f t m stored

/-- A value encoded for a store, as the stored element and events (R95, R96, R369). -/
def winStoreValue (p : WinPlace) (v scale : Nat) (m : Modes) : Nat × Events :=
  let f := winFmt p.entry
  let t := winTarget p.entry
  let x := t.decodeFtz m.ftz v
  if f = .i4x then (if scale = 255 then (0, ⟨false, false, true, false⟩) else f.encode m (x.scale (-(e8m0 scale))))
  else if p.scale.isSome then
    if scale = 255 then (f.canonNan, ⟨false, false, true, false⟩) else f.encode m (x.scale (-(e8m0 scale)))
  else convert t f m v

/-- Add 1 to an 8-bit counter of an entry, saturating (R93). -/
def bump8 (e : Word) (at_ : Nat) (b : Bool) : Word :=
  if b && !decide (e.extractLsb' at_ 8 = 0xFF#8) then e + (1#64 <<< at_) else e

/-- Count a conversion's events in an entry. -/
def winCount (e : Word) (ev : Events) : Word := bump8 (bump8 (bump8 (bump8 e 0 ev.ovf) 8 ev.sat) 16 ev.nan) 24 ev.inv

def State.winEvents (s : State) (n w : Nat) (ev : Events) : State :=
  s.updCore n (fun c => { c with win := c.win.setIfInBounds w (winCount (c.win.getD w 0#64) ev) })

/-- Where an encoded element stands: its number and its pieces in order, in units of 4 bits of an I4X window, else of bytes. -/
def WinPlace.cells (p : WinPlace) (r : Nat) : Nat × List Byte :=
  if winFmt p.entry = .i4x then (2 * p.byteoff + (if p.odd then 1 else 0), [BitVec.ofNat 8 r]) else (p.byteoff, natToBytes p.count r)

/-- Cells in rising order as one run from cell `at_` on; what lies between them is not written. -/
def cellRun (at_ : Nat) : List (Nat × List Byte) → List (Option Byte)
  | [] => []
  | (o, b) :: t => List.replicate (o - at_) none ++ b.map some ++ cellRun (o + b.length) t

/-- Elements of a window encoded with scale bytes `sc` (R95, R96): each at its cells, with its events. -/
def winEncode (m : Modes) (sc : Nat → Nat) (l : List (WinPlace × Nat)) : List ((Nat × List Byte) × Events) :=
  l.map (fun p =>
    let r := winStoreValue p.1 p.2 (match p.1.scale with | some o => sc o | none => 0) m
    (p.1.cells r.1, r.2))

/-- Encoded elements, in rising order, as one store of core `n` (R96, R97). -/
def winStore (n asid : Nat) (p : WinPlace) (cells : List (Nat × List Byte)) : Store :=
  if winFmt p.entry = .i4x then ⟨.nibbles n p.byteoff, cellRun (2 * p.byteoff) cells, asid⟩
  else ⟨.scratch n p.byteoff, cellRun p.byteoff cells, asid⟩

/-- A block-scaled store as the plain store that it makes where byte `k` reads as `byte k` (R97); any other store as it is. -/
def Store.plain (st : Store) (byte : Nat → Byte) : Store :=
  match st.place with
  | .scaled n _ acfg l =>
    (match l with
     | (p, _) :: _ => winStore n st.asid p ((winEncode (modesOf acfg) (fun o => (byte (kPad n o)).toNat) l).map Prod.fst)
     | [] => ⟨.words n [], [], st.asid⟩)
  | _ => st

/-! The store buffer (R125, R172, R173, R259). -/

/-- One number for every byte a piece of a row covers. -/
def Spot.key (p : Spot) : Nat :=
  match p with
  | .cached k | .cxl k => k
  | .scratch c o => kPad c o
  | .remote ea => space 300 + ea.toNat
  | .ctrl off => kCtrl off

/-- The piece as a place of its own. -/
def Spot.place (p : Spot) : Place :=
  match p with
  | .cached k => .cached k
  | .cxl k => .cxl k
  | .scratch c o => .scratch c o
  | .remote ea => .remote ea
  | .ctrl off => .ctrl off

/-- One number for every byte a place names, for the comparison of accesses. -/
def Place.key (p : Place) : Nat :=
  match p with
  | .cached k | .cxl k => k
  | .scratch c o => kPad c o
  | .remote ea => space 300 + ea.toNat
  | .ctrl off => kCtrl off
  | .window w off => space 301 + w * 2 ^ 24 + off
  | .nibbles c o => kPad c o
  | .words c _ => kPad c 0
  | .scaled c _ _ l => kPad c ((l.head?.map (fun e => e.1.byteoff)).getD 0)
  | .row l => (l.head?.map (fun e => e.1.key)).getD 0

/-- A byte after its 4-bit element `code` is stored: of an outlier pair the other element becomes 0 (R96). -/
def nibbleByte (odd : Bool) (code old : Byte) : Byte :=
  let other := if i4xOutlier old.toNat then 0 else (if odd then old.toNat % 16 else old.toNat / 16)
  BitVec.ofNat 8 (if odd then other + 16 * (code.toNat % 16) else code.toNat % 16 + 16 * other)

/-- A byte after its low and its high element are stored, as far as they are. -/
def nibblesByte (lo hi : Option Byte) (old : Byte) : Byte :=
  let b := match lo with | some c => nibbleByte false c old | none => old
  match hi with | some c => nibbleByte true c b | none => b

/-- The byte at key `k`, which is `old`, after the pieces of a row are written. -/
def rowByte (k : Nat) (bytes : List (Option Byte)) (old : Byte) : List (Spot × Nat) → Byte
  | [] => old
  | (p, n) :: t =>
    rowByte k (bytes.drop n) (if p.key ≤ k ∧ k < p.key + n then (bytes.getD (k - p.key) none).getD old else old) t

/-- The byte at key `k`, which is `old`, after a store. -/
def Store.effect (st : Store) (k : Nat) (old : Byte) : Byte :=
  match st.place with
  | .nibbles c o =>
    if kPad c o ≤ k then nibblesByte (st.bytes.getD (2 * (k - kPad c o)) none) (st.bytes.getD (2 * (k - kPad c o) + 1) none) old else old
  | .words c offs =>
    (match offs.zipIdx.find? (fun p => decide (kPad c p.1 ≤ k) && decide (k < kPad c p.1 + 4)) with
     | some p => (st.bytes.getD (4 * p.2 + (k - kPad c p.1)) none).getD old
     | none => old)
  | .row l => rowByte k st.bytes old l
  | p => if p.key ≤ k then (st.bytes.getD (k - p.key) none).getD old else old

/-- Bytes at key `k` as they read after a store. -/
def Store.seen (st : Store) (k : Nat) (l : List Byte) : List Byte := l.zipIdx.map (fun p => st.effect (k + p.2) p.1)

/-- The stores of a buffer as they write: each block-scaled one encoded with the scale bytes that the earlier ones leave. -/
def plainStores (m : Mem) (before : List Store) : List Store → List Store
  | [] => before
  | st :: t => plainStores m (before ++ [st.plain (fun k => before.foldl (fun b a => a.effect k b) (m.byte k))]) t

/-- Bytes at key `k` of memory `m` as the core itself sees them: its own waiting stores lie over them (R172). -/
def Core.forwarded (c : Core) (m : Mem) (k : Nat) (l : List Byte) : List Byte := (plainStores m [] c.sb).foldl (fun l st => st.seen k l) l

/-- Do `k` bytes from `off` of a core's scratchpad touch the active workspace of the core that runs there, whose registers hold them? -/
def State.liveWs (s : State) (core off k : Nat) : Bool := s.hasWs core && s.inWs core off k

/-- A store that reaches a scratchpad: bytes of an active workspace become register values (R261), the others memory. -/
def State.lateStore (s : State) (core off : Nat) (bytes : List (Option Byte)) : State :=
  if s.liveWs core off bytes.length then
    let o := (s.coreAt core).wsOff
    let inside (i : Nat) : Bool := decide (o ≤ off + i) && decide (off + i < o + wsBytes)
    let s := s.updCore core (fun c => bytes.zipIdx.foldl (fun c p =>
      match p.1 with
      | some b => if inside p.2 then c.setWsByte (off + p.2 - o) b else c
      | none => c) c)
    s.padWrite core off (bytes.zipIdx.map (fun p => if inside p.2 then none else p.1))
  else s.padWrite core off bytes

/-- A byte of a core's scratchpad as it stands: of an active workspace, the register that holds it (R71). -/
def State.padByte (s : State) (core off : Nat) : Byte :=
  if s.liveWs core off 1 then (s.coreAt core).wsByte (off - (s.coreAt core).wsOff) else s.mem.byte (kPad core off)

/-- Store 4-bit elements from a byte of a scratchpad on (R96). -/
def State.performNibbles (s : State) (core off : Nat) (codes : List (Option Byte)) : State :=
  s.lateStore core off ((List.range ((codes.length + 1) / 2)).map (fun i =>
    let lo := codes.getD (2 * i) none
    let hi := codes.getD (2 * i + 1) none
    if lo.isNone ∧ hi.isNone then none else some (nibblesByte lo hi (s.padByte core (off + i)))))

/-- Store words of 4 bytes at offsets of a scratchpad (R297). -/
def State.performWords (s : State) (core : Nat) (bytes : List (Option Byte)) : List Nat → State
  | [] => s
  | o :: t => (s.lateStore core o (bytes.take 4)).performWords core (bytes.drop 4) t

/-- Write the elements of a block-scaled window store: encoded with the scale bytes as they stand, in one access, with its events counted (R95,
R97). -/
def State.performScaled (s : State) (core w : Nat) (st : Store) : State :=
  let ev : List Events := match st.place with
    | .scaled n _ acfg l => (winEncode (modesOf acfg) (fun o => (s.mem.byte (kPad n o)).toNat) l).map Prod.snd
    | _ => []
  let q := st.plain s.mem.byte
  let s := match q.place with
    | .nibbles c o => s.performNibbles c o q.bytes
    | .scratch c o => s.lateStore c o q.bytes
    | _ => s
  ev.foldl (fun s e => s.winEvents core w e) s

/-- Is a posted write to a host-backed or pool page on its way? -/
def CxlReq.isWrite (r : CxlReq) : Bool :=
  match r with
  | .write _ _ => true
  | .read _ _ | .readSome _ _ | .atomic _ _ _ _ _ => false

/-- Has the core a write to a host-backed or pool page on its way (R142)? -/
def Core.posting (c : Core) : Bool := c.cxl.any CxlReq.isWrite

/-- Has the core stores that left the package and are not performed? -/
def Core.away (c : Core) : Bool := !c.remStores.isEmpty || c.posting

/-- The module that an address names (R86). -/
def moduleOf (ea : Word) : Nat := (ea.extractLsb' 42 12).toNat

/-- Must a store to this place wait for earlier stores of the core that left the package and are not performed (R173)? Writes of one way
out to one module follow one another there in their order. -/
def Core.mustWait (c : Core) (p : Place) : Bool :=
  let away (ea : Word) : Bool :=
    c.posting || c.remStores.any (fun st => match st.place with | .remote e => !decide (moduleOf e = moduleOf ea) | _ => false)
  match p with
  | .cxl _ => !c.remStores.isEmpty
  | .remote ea => away ea
  | .row l => l.any (fun q => match q.1 with | .cxl _ => !c.remStores.isEmpty | .remote ea => away ea | _ => c.away)
  | .cached _ | .scratch _ _ | .ctrl _ | .window _ _ | .nibbles _ _ | .words _ _ | .scaled _ _ _ _ => c.away

/-- A store of a register of the control region. It waits while the write cannot be made; a push at an engine port is a release (R177). -/
def State.performCtrl (s : State) (n off : Nat) (bytes : List (Option Byte)) : Except Stop State :=
  match s.ctrlWaits off bytes with
  | some s => hold s .home
  | none => .ok ((if isPort off then s.raise n (s.coreAt n).swm else s).ctrlWrite off bytes)

/-- Perform a store at its place (R123, R142, R259). -/
def State.performAt (s : State) (n : Nat) (st : Store) : Except Stop State :=
    match st.place with
    | .cached key => s.performCached n key st.bytes
    | .scratch core off => .ok (s.lateStore core off st.bytes)
    | .nibbles core off => .ok (s.performNibbles core off st.bytes)
    | .words core offs => .ok (s.performWords core st.bytes offs)
    | .scaled core w _ _ => .ok (s.performScaled core w st)
    | .cxl key => .ok (s.updCore n (fun c => { c with cxl := c.cxl ++ [.write key st.bytes] }))
    | .remote ea =>
      .ok ({ s with net := { s.net with outs := s.net.outs ++ [Out.storeAsk n ea st.bytes] } }.updCore n
        (fun c => { c with remStores := c.remStores ++ [st] }))
    | .ctrl off => s.performCtrl n off st.bytes
    | .window _ _ | .row _ => .ok s

/-- Can every piece of a row be written now: the lines are owned and their clocks lie below the ceiling, and registers take their writes (R120,
R123)? -/
def State.rowReady (s : State) (n : Nat) (bytes : List (Option Byte)) : List (Spot × Nat) → Except Stop State
  | [] => .ok s
  | (p, k) :: t => do
    let s ← (match p with
      | .cached key => do
        let s ← s.own n (lineOf key) (halvesOf (key % 128) k)
        let c := s.coreAt n
        match l1Find c.l1 (lineOf key) with
        | some a => if s.ceil < max c.csr.lclk (a.fin + 1) then hold s .home else pure s
        | none => pure s
      | .ctrl off => match s.ctrlWaits off (bytes.take k) with | some s => hold s .home | none => .ok s
      | _ => .ok s : Except Stop State)
    s.rowReady n (bytes.drop k) t

/-- Write the pieces of a row. -/
def State.performRow (s : State) (n asid : Nat) (bytes : List (Option Byte)) : List (Spot × Nat) → Except Stop State
  | [] => .ok s
  | (p, k) :: t => do
    let s ← s.performAt n ⟨p.place, bytes.take k, asid⟩
    s.performRow n asid (bytes.drop k) t

/-- Perform a store after the core's earlier stores (R173); a row of the array in one access (R318). -/
def State.perform (s : State) (n : Nat) (st : Store) : Except Stop State :=
  if (s.coreAt n).mustWait st.place then hold s .fence
  else
    match st.place with
    | .row l => do
      let s ← s.rowReady n st.bytes l
      s.performRow n st.asid st.bytes l
    | _ => s.performAt n st

/-- Perform the oldest store of core `n`, if it holds one (R173). -/
def State.performOldest (s : State) (n : Nat) : Except Stop State :=
  match (s.coreAt n).sb with
  | [] => .ok s
  | st :: _ => do
    let s ← s.perform n st
    pure (s.updCore n (fun c => { c with sb := c.sb.tail }))

/-- Perform at most `fuel` stores of core `n`. -/
def State.drainN (s : State) (n : Nat) : Nat → Except Stop State
  | 0 => .ok s
  | fuel + 1 => do
    let s ← s.performOldest n
    s.drainN n fuel

/-- Drain the store buffer of core `n`. -/
def State.drain (s : State) (n : Nat) : Except Stop State := s.drainN n (s.coreAt n).sb.length

/-- A retired store enters the store buffer; a full buffer performs its oldest store first (R125). -/
def State.push (s : State) (n : Nat) (st : Store) : Except Stop State := do
  let s ← (if (s.coreAt n).sb.length < 32 then pure s else s.performOldest n : Except Stop State)
  pure (s.updCore n (fun c => { c with sb := c.sb ++ [st] }))

/-! Releases and acquires (R127, R128, R175). -/

/-- A release at a scope (0 core to 5 system): the store buffer drains, lclk := Max(lclk, SWM), and the writes that the scope adds are confirmed. -/
def State.release (s : State) (n scope : Nat) : Except Stop State := do
  let s ← s.drain n
  let s := s.raise n (s.coreAt n).swm
  let c := s.coreAt n
  if (decide (4 ≤ scope) && !c.remStores.isEmpty) || (decide (5 ≤ scope) && c.posting) then hold s .fence
  else pure s

/-- A release that a signal to another agent carries: every earlier store is performed before the signal is sent, those that left the
package too, so that an acquire that pairs with it sees them all (R174). -/
def State.signal (s : State) (n scope : Nat) : Except Stop State := do
  let s ← s.release n scope
  if (s.coreAt n).away then hold s .fence else pure s

/-- An acquire at a scope: the core's loads are performed in program order, so every earlier load has performed; at domain and
system scope later mirror-hint loads ignore the replicas of before (R175). -/
def State.acquire (s : State) (n scope : Nat) : State :=
  if 4 ≤ scope then s.updCore n (fun c => { c with mirMark := s.time.gtc + 1 }) else s

/-- Scopes (R170). -/
def scopeTeam : Nat := 1
def scopePkg : Nat := 3

/-! Loads at a place (R114, R122, R258). -/

/-- Ask for something outside the package and wait for its answer. -/
def askCxl {α : Type} (s : State) (n : Nat) (r : CxlReq) : Except Stop α :=
  let c := s.coreAt n
  if c.wait = .cxl then hold s .cxl else hold (s.updCore n (fun c => { c with cxl := c.cxl ++ [r] })) .cxl

/-- Ask another module and wait for its answer. -/
def askRemote {α : Type} (s : State) (n : Nat) (o : Out) : Except Stop α :=
  if (s.coreAt n).remAsked then hold s .remote
  else hold ({ s with net := { s.net with outs := s.net.outs ++ [o] } }.updCore n (fun c => { c with remAsked := true })) .remote

/-- What has come back for access `j` of the instruction, each access being `size` bytes: `none` when nothing has. -/
def Reply.at (r : Reply) (j size : Nat) : Option (Except Bool (List Byte)) :=
  match r with
  | .none => Option.none
  | .value v => if (j + 1) * size ≤ v.length then Option.some (.ok ((v.drop (j * size)).take size)) else Option.none
  | .error v page => if (j + 1) * size ≤ v.length then Option.some (.ok ((v.drop (j * size)).take size)) else Option.some (.error page)

/-- The cause of an access that another module refused: a page fault of its walk, or an access fault (R87, R149, R260). -/
def awayCause (k : Access) (page : Bool) : Nat := if page then pageCause k else accCause k

/-- `size` bytes that core `n` loads at a place; `j` counts the instruction's earlier accesses that left the package. -/
def State.loadAt (s : State) (n : Nat) (p : Place) (size j : Nat) (ea : Word) : Except Stop (State × List Byte × Nat) :=
  match p with
  | .cached key => do
    let (s, d) ← s.loadLine n (lineOf key)
    pure (s, (s.coreAt n).forwarded s.mem key ((List.range size).map (fun i => getByte d (key % 128 + i))), j)
  | .scratch core off =>
    let s := s.raise n (s.coreAt core).scm
    .ok (s, (s.coreAt n).forwarded s.mem (kPad core off) (s.mem.readBytes (kPad core off) size), j)
  | .cxl key => do
    match (s.coreAt n).reply.at j size with
    | some (.ok v) => pure (s, v, j + 1)
    | some (.error _) => trapAcc s .load 5 ea
    | none =>
      let s ← s.drain n
      askCxl s n (.read key size)
  | .remote a => do
    match (s.coreAt n).reply.at j size with
    | some (.ok v) => pure (s, v, j + 1)
    | some (.error page) => trapAcc s .load (awayCause .load page) ea
    | none =>
      let s ← s.drain n
      askRemote s n (.loadAsk n a size)
  | .ctrl off => do
    let s ← s.drain n
    -- a pop at an engine port is an acquire of what its element announces (R177, R371)
    let t := if isPortPop off then s.portMark (portOf off) else 0
    let (s, v) := s.ctrlRead off size
    pure ((if isPortPop off then s.raise n t else s), natToBytes size v, j)
  | .window _ _ | .nibbles _ _ | .words _ _ | .scaled _ _ _ _ | .row _ => .ok (s, List.replicate size 0#8, j)

/-- The checks that another module makes of a store of `size` bytes there, before the store retires (R87, R149, R259, R260); `j` counts the
instruction's earlier accesses that left the package. -/
def State.checkAway (s : State) (n : Nat) (p : Place) (size j : Nat) (ea : Word) : Except Stop (State × Nat) :=
  match p with
  | .remote a =>
    match (s.coreAt n).reply.at j size with
    | some (.ok _) => .ok (s, j + 1)
    | some (.error page) => trapAcc s .store (awayCause .store page) ea
    | none => askRemote s n (.checkAsk n a size)
  | .cached _ | .scratch _ _ | .cxl _ | .ctrl _ | .window _ _ | .nibbles _ _ | .words _ _ | .scaled _ _ _ _ | .row _ => .ok (s, j)

/-! Accesses through prism windows (R95 to R97, R297). -/

/-- Does a store that covers the offsets for which `cov` holds cover part of a poisoned word among `k` bytes from `off`, but not all of it (R246,
R260)? -/
def State.partOf (s : State) (n off k : Nat) (cov : Nat → Bool) : Bool :=
  s.home.poison.any (fun w => decide (kPad n off / 8 ≤ w) && decide (w * 8 < kPad n off + k) &&
    !((List.range 8).all (fun i => decide (kPad n 0 ≤ 8 * w + i) && cov (8 * w + i - kPad n 0))))

/-- The checks of a window access after R95's own (R70, R370, R146, R246); the access covers the offsets for which `cov` holds. -/
def State.winOpen (s : State) (n : Nat) (p : WinPlace) (cov : Nat → Bool) (k : Access) (ea : Word) : Except Stop Unit :=
  let scaleIn (f : Nat → Bool) : Bool := match p.scale with | some sc => f sc | none => false
  if s.inWs n p.byteoff p.count || scaleIn (fun sc => s.inWs n sc 1) then trapAcc s k (accCause k) ea
  else if isWrite k && s.inArgs n p.byteoff p.count then trapAcc s k (accCause k) ea
  else if isWrite k && s.inSeal n p.byteoff p.count then trapAcc s k 31 ea
  else
    -- a store to an I4X element and a read of a scale byte read what they lie in
    let reads : Bool := match k with | .store => decide (winFmt p.entry = .i4x) | _ => true
    if (if reads then s.anyPoison (kPad n p.byteoff) p.count else s.partOf n p.byteoff p.count cov) ||
        scaleIn (fun sc => s.anyPoison (kPad n sc) 1) then trapAcc s k (accCause k) ea
    else .ok ()

/-- The offsets that an element covers. -/
def WinPlace.covers (p : WinPlace) (o : Nat) : Bool := decide (p.byteoff ≤ o) && decide (o < p.byteoff + p.count)

/-- The place of a window access after every check of R260, as one of an access that covers `cov` beside it. -/
def State.winCheckIn (s : State) (n w a size : Nat) (cov : Nat → Bool) (k : Access) (ea : Word) : Except Stop WinPlace :=
  match (s.coreAt n).winPlace w a size with
  | none => trapAcc s k 28 ea
  | some p => do
    s.winOpen n p (fun o => p.covers o || cov o) k ea
    pure p

/-- The place of a window access after every check of R260. -/
def State.winCheck (s : State) (n w a size : Nat) (k : Access) (ea : Word) : Except Stop WinPlace := s.winCheckIn n w a size (fun _ => false) k ea

/-- Bytes of the own scratchpad as the core sees them. -/
def State.ownBytes (s : State) (n off k : Nat) : Nat :=
  bytesToNat ((s.coreAt n).forwarded s.mem (kPad n off) (s.mem.readBytes (kPad n off) k))

/-- The scale byte of a window place. -/
def State.winScaleByte (s : State) (n : Nat) (p : WinPlace) : Nat :=
  match p.scale with
  | some sc => s.ownBytes n sc 1
  | none => 0

/-- A load through a window, its checks made: the converted element; the counters count its events (R95). -/
def State.winLoad (s : State) (n w : Nat) (p : WinPlace) : State × List Byte :=
  let s := s.raise n (s.coreAt n).scm
  let (v, ev) := winLoadValue p (s.ownBytes n p.byteoff p.count) (s.winScaleByte n p) (s.coreAt n).modes
  (s.winEvents n w ev, natToBytes ((winTarget p.entry).bits / 8) v)

/-- A store of elements through a window, which stand in rising order, its checks made: into the store buffer as one access (R97, R259). Elements of
a block-scaled window wait there unencoded, since their scale bytes are part of the access; others are encoded at retirement (DEDUCED, log 55). -/
def State.winStores (s : State) (n w : Nat) (l : List (WinPlace × Nat)) : Except Stop State :=
  match l with
  | [] => .ok s
  | (p, _) :: _ =>
    if p.scale.isSome then s.push n ⟨.scaled n w (s.coreAt n).csr.acfg l, [], (s.coreAt n).asid⟩
    else do
      let e := winEncode (s.coreAt n).modes (fun _ => 0) l
      let s ← s.push n (winStore n (s.coreAt n).asid p (e.map Prod.fst))
      pure (e.foldl (fun s e => s.winEvents n w e.2) s)

/-! The accesses of an instruction. -/

/-- A load of `size` bytes at `ea`, all checks made (R258, R260). -/
def State.loadBytes (s : State) (n : Nat) (ea : Word) (size align j : Nat) : Except Stop (State × List Byte × Nat) := do
  let (s, p) ← s.check n ea size align .load
  match p with
  | .window w a => do
    let q ← s.winCheck n w a size .load ea
    let (s, l) := s.winLoad n w q
    pure (s, l, j)
  | p => s.loadAt n p size j ea

/-- A store of bytes at `ea`, all checks made: into the store buffer (R259, R260). -/
def State.storeBytes (s : State) (n : Nat) (ea : Word) (align : Nat) (bytes : List Byte) : Except Stop State := do
  let (s, p) ← s.check n ea bytes.length align .store
  match p with
  | .window w a => do
    let q ← s.winCheck n w a bytes.length .store ea
    s.winStores n w [(q, bytesToNat bytes)]
  | p => do
    let (s, _) ← s.checkAway n p bytes.length 0 ea
    s.push n ⟨p, bytes.map some, (s.coreAt n).asid⟩

end Sys2Proof.Machine
end

