-- ==== Sys2Proof/Machine/Pass.lean ====
section
/-! DEFINITION. The sweep engine: descriptors, planes, contexts, groups of lanes, wakes, body faults, stops and the end of a pass (R154 to R169, R364, R365). -/

namespace Sys2Proof.Machine

/-! Contexts (R155). -/

/-- Replace `w` bits of a bit vector from bit `lo` on. -/
def putBits {n : Nat} (d : BitVec n) (lo w v : Nat) : BitVec n :=
  (d &&& ~~~(BitVec.ofNat n (2 ^ w - 1) <<< lo)) ||| (BitVec.ofNat n (v % 2 ^ w) <<< lo)

/-- A flag of a context. -/
def ctxFlag (c : BitVec 128) (i : Nat) (b : Bool) : BitVec 128 := putBits c i 1 (if b then 1 else 0)

def ctxStep (c : BitVec 128) : Nat := (c.extractLsb' 0 16).toNat
def ctxSlp (c : BitVec 128) : Bool := c.getLsbD 16
def ctxWkp (c : BitVec 128) : Bool := c.getLsbD 17
def ctxDone (c : BitVec 128) : Bool := c.getLsbD 18
def ctxFlt (c : BitVec 128) : Bool := c.getLsbD 19
def ctxCw (c : BitVec 128) : Bool := c.getLsbD 20
def ctxWkey (c : BitVec 128) : Nat := (c.extractLsb' 32 32).toNat
def ctxLoc0 (c : BitVec 128) : Nat := (c.extractLsb' 64 32).toNat
def ctxLoc1 (c : BitVec 128) : Nat := (c.extractLsb' 96 32).toNat

/-- What a wake with key `k` makes of a context, and whether it ended a sleep; `none` when it has no effect (R164). -/
def ctxWake (c : BitVec 128) (k : Nat) : Option (BitVec 128 × Bool) :=
  if ctxDone c || ctxFlt c then none
  else if ctxSlp c then (if ctxWkey c = k then some (ctxFlag (ctxFlag c 16 false) 17 true, true) else none)
  else some (ctxFlag c 17 true, false)

/-! Passes and lanes. -/

/-- The pass a cluster's engine runs. -/
def State.passAt (s : State) (c : Nat) : Option Pass := (s.clusterAt c).pass

/-- Change it. -/
def State.updPass (s : State) (c : Nat) (f : Pass → Pass) : State := s.updCluster c (fun k => { k with pass := k.pass.map f })

/-- A lane. -/
def State.laneAt (s : State) (c j : Nat) : Option Lane :=
  match s.passAt c with
  | some p => p.lanes[j]?
  | none => none

/-- Change a lane. -/
def State.updLane (s : State) (c j : Nat) (f : Lane → Lane) : State :=
  s.updPass c (fun p => { p with lanes := p.lanes.modify j f })

/-- Bytes of a data element (R154). -/
def Pass.elemBytes (p : Pass) : Nat := ((Fmt.ofCode p.fmt).getD .fp32).bits / 8

/-- Is the data plane of an integer format? -/
def Pass.intData (p : Pass) : Bool := ((Fmt.ofCode p.fmt).getD .fp32).isInt

/-- Plane addresses (R154). -/
def Pass.dataAddr (p : Pass) (i : Nat) : Nat := p.dbase + i * p.elemBytes
def Pass.ctxAddr (p : Pass) (i : Nat) : Nat := p.dbase + p.ctxoff + 16 * i
def Pass.skipAddr (p : Pass) (i : Nat) : Nat := p.dbase + p.ctxoff + 16 * p.count + 8 * (i / 64)

/-! Memory of the engine: the cluster memory of its core and the tenant's package scratchpad (R157). -/

/-- Where an address of a plane lies. -/
def State.planePlace (s : State) (p : Pass) (ea : Nat) : Option EPlace :=
  match s.region (some p.core) (BitVec.ofNat 64 ea) with
  | .pad core off => if clusterOf core = clusterOf p.core then some (.pad core off) else none
  | .pkg off => some (.home (kPkg p.ten off))
  | _ => none

/-- Do `n` bytes at `ea` lie in the core's own cluster memory or the tenant's package scratchpad (R157)? -/
def State.planeOpen (s : State) (core ten ea n : Nat) : Bool :=
  let a := ea % 2 ^ 42
  let inside (lo len : Nat) : Bool := decide (lo ≤ a) && decide (a + n ≤ lo + len)
  (match s.region (some core) (BitVec.ofNat 64 ea) with
   | .pad _ _ => inside 0x22000400000 0x400000 || inside (0x21100000000 + clusterOf core * 0x400000) 0x400000
   | .pkg off => decide (off + n ≤ s.pkgBytes ten)
   | _ => false)

/-- Is an access of the engine to bytes of a plane closed: an active workspace (R70), for a write an argument block or a sealed buffer
(R370, R146), or a poisoned word (R246)? -/
def State.planeShut (s : State) (p : Pass) (ea n : Nat) (k : Access) : Bool :=
  match s.planePlace p ea with
  | some (.pad core off) =>
    s.inWs core off n || (isWrite k && (s.inArgs core off n || s.inSeal core off n)) || s.poisonStops (kPad core off) n k
  | some (.home key) => s.poisonStops key n k
  | _ => false

/-- Read bytes of a plane at their home. -/
def State.planeRead (s : State) (p : Pass) (ea n : Nat) : Except Stop (State × Nat) :=
  match s.planePlace p ea with
  | some (.pad core off) => .ok (s, s.mem.read (kPad core off) n)
  | some (.home key) => s.homeRead key n
  | _ => .ok (s, 0)

/-- Write bytes of a plane at their home; the engine's mark follows (R371). Closed bytes are never written (R66, R67, R70, R146, R370). -/
def State.planeWrite (s : State) (p : Pass) (ea n v : Nat) : Except Stop State :=
  match s.planePlace p ea with
  | some (.pad core off) =>
    .ok (if s.inWs core off n || s.inArgs core off n || s.inSeal core off n then s else s.padWrite core off ((natToBytes n v).map some))
  | some (.home key) => do
    let (s, t) ← s.homeWrite key ((natToBytes n v).map some) 0 4
    pure (s.updCluster (clusterOf p.core) (fun k => { k with sweepEwm := max k.sweepEwm t }))
  | _ => .ok s

/-- The first of these bytes, each an address and a length, that is closed to an access of the engine: ADDR and KACC of its fault (R205). -/
def State.firstShut (s : State) (p : Pass) (k : Access) (l : List (Nat × Nat)) : Option (Nat × Nat) :=
  (l.find? (fun q => s.planeShut p q.1 q.2 k)).map (fun q => (q.1, kaccKind k))

/-- The descriptor's fields that show progress, and those of a body fault (R157). -/
def Pass.progress (p : Pass) : List (Nat × Nat) := [(p.desc + 28, 4), (p.desc + 32, 4), (p.desc + 20, 4)]
def Pass.faultFields (p : Pass) : List (Nat × Nat) := [(p.desc + 36, 4), (p.desc + 40, 8)]

/-- Write CUR with its ACT bit, WAITN and ECNT (R157), as far as the descriptor is open. -/
def State.putProgress (s : State) (p : Pass) (cur : Nat) (act : Bool) (waitn ecnt : Nat) : Except Stop State := do
  let s ← s.planeWrite p (p.desc + 28) 4 (cur + if act then 2 ^ 31 else 0)
  let s ← s.planeWrite p (p.desc + 32) 4 waitn
  s.planeWrite p (p.desc + 20) 4 ecnt

/-! The body's words. -/

/-- The decode table a tenant's `dsel` value selects; none for table 0 (R50, R52). -/
def State.table (s : State) (ten : Nat) (sel : BitVec 4) : Option (List (BitVec 16)) :=
  if sel = 0#4 then none else some (Tbl.get [] s.tabs.dec (16 * ten + sel.toNat))

/-- Is the table installed (R79, R223)? -/
def State.tableIn (s : State) (ten : Nat) (sel : BitVec 4) : Bool :=
  decide (sel = 0#4) || !(Tbl.get [] s.tabs.dec (16 * ten + sel.toNat)).isEmpty

/-- The first address of a capsule's native body (R225). -/
def textBase (caps : Nat) : Nat := 0x3E000000000 + caps * 0x400000

/-- Word `i` of the pass's body. -/
def State.bodyWord (s : State) (p : Pass) (i : Nat) : IWord :=
  BitVec.ofNat 32 (s.mem.read (kText (textBase p.caps + 4 * (p.body + i))) 4)

/-- The word as the pass's decode table maps it; 0, which is no instruction, when unmapped. -/
def State.mappedWord (s : State) (p : Pass) (i : Nat) : IWord :=
  match s.table p.ten p.dsel with
  | none => s.bodyWord p i
  | some t => (mapWord t (s.bodyWord p i)).getD 0#32

/-- Is the word a `swait.key` (R346)? -/
def isSwaitKey (w : IWord) : Bool := decide (w &&& 0xFFF07FFF#32 = 0x2E00607B#32)

/-! Segments (R159, R162). -/

/-- Start or resume a segment: registers are zero, and after a `swait.key` WKP clears (R77, R162). -/
def State.startSegment (s : State) (p : Pass) (l : Lane) : Lane :=
  let i := ctxStep l.ctx
  let woken := decide (0 < i) && decide (i ≤ p.words) && isSwaitKey (s.mappedWord p (i - 1))
  { l with
    st := .running, idx := i, x := Vector.replicate 8 0#64, e := Vector.replicate 8 0#32, near := false, visited := true
    ctx := if woken then ctxFlag l.ctx 17 false else l.ctx }

/-- A lane as its group loads (R156, R159). -/
def State.loadLane (s : State) (p : Pass) (e : Nat) (ctx : BitVec 128) (data : List Byte) (skip : Bool) : Lane :=
  let l : Lane := ⟨e, .idle, 0, 0, Vector.replicate 8 0#64, Vector.replicate 8 0#32, ctx, data, skip, [], false, false, ctx, data⟩
  if skip then l
  else if ctxSlp ctx || ctxDone ctx then { l with visited := true }
  else if ctxCw ctx ∧ 0 < ctxWkey ctx then { l with visited := true, ctx := putBits ctx 32 32 (ctxWkey ctx - 1) }
  else s.startSegment p { l with ctx := ctxFlag ctx 20 false }

/-- Read contexts, data and skip bits of `n` elements from `e` on. -/
def State.loadElems (s : State) (p : Pass) (e : Nat) : Nat → Except Stop (State × List (Nat × BitVec 128 × List Byte × Bool))
  | 0 => .ok (s, [])
  | n + 1 => do
    let (s, c) ← s.planeRead p (p.ctxAddr e) 16
    let (s, d) ← s.planeRead p (p.dataAddr e) p.elemBytes
    let (s, k) ← s.planeRead p (p.skipAddr e) 8
    let (s, rest) ← s.loadElems p (e + 1) n
    pure (s, (e, BitVec.ofNat 128 c, natToBytes p.elemBytes d, natBit k (e % 64)) :: rest)

/-! Wakes (R164, R165). -/

/-- A wake that the engine applies meets closed bytes: ADDR and KACC (R70, R146, R246, R370). -/
def State.wakeShut (s : State) (p : Pass) (e : Nat) : Option (Nat × Nat) :=
  let l := [(p.ctxAddr e, 16), (p.skipAddr e, 8)]
  match s.firstShut p .load l with
  | some q => some q
  | none => s.firstShut p .store l

/-- The engine applies a wake to a context in memory, with its skip bit first; says whether it ended a sleep (R164). -/
def State.wakeMemory (s : State) (p : Pass) (e k : Nat) : Except Stop (State × Bool) := do
  let (s, c) ← s.planeRead p (p.ctxAddr e) 16
  match ctxWake (BitVec.ofNat 128 c) k with
  | none => pure (s, false)
  | some (c', woke) =>
    let s ← (if woke then do
        let (s, d) ← s.planeRead p (p.skipAddr e) 8
        s.planeWrite p (p.skipAddr e) 8 (d - if natBit d (e % 64) then 2 ^ (e % 64) else 0)
      else pure s : Except Stop State)
    let s ← s.planeWrite p (p.ctxAddr e) 16 c'.toNat
    pure (s, woke)

/-- Apply the wakes that cluster `c`'s pass holds, in order, each leaving the list when it is applied, up to the first that meets closed bytes:
ADDR and KACC of it. An element before the cursor whose sleep ends is one that the next pass will run, which WAITN counts (R158, R164). -/
def State.applyWakes (s : State) (c : Nat) : Nat → Except Stop (State × Option (Nat × Nat))
  | 0 => .ok (s, none)
  | fuel + 1 =>
    match s.passAt c with
    | none => .ok (s, none)
    | some p =>
      match p.wakes with
      | [] => .ok (s, none)
      | (e, k) :: t =>
        match s.wakeShut p e with
        | some q => .ok (s, some q)
        | none => do
          let (s, woke) ← s.wakeMemory p e k.toNat
          (s.updPass c (fun p => { p with wakes := t, waitn := p.waitn + if woke ∧ e < p.cur then 1 else 0 })).applyWakes c fuel

/-- Held wakes that meet closed bytes are dropped, as a pass ends that cannot apply them. -/
def State.dropShutWakes (s : State) (c : Nat) : State :=
  s.updPass c (fun p => { p with wakes := p.wakes.filter (fun w => (s.wakeShut p w.1).isNone) })

/-- A lane that waits in `swait.nb` goes on when its neighbour has ended or idled (R163). -/
def nearDone (lanes : List Lane) (j : Nat) : Bool :=
  match j with
  | 0 => true
  | j' + 1 =>
    match lanes[j']? with
    | some l => (match l.st with | .ended _ | .idle => true | .running | .neighbour => false)
    | none => true

/-- Let every lane go on whose neighbour has ended. -/
def Pass.settle (p : Pass) : Pass :=
  { p with lanes := p.lanes.zipIdx.map (fun q =>
      match q.1.st with
      | .neighbour => if nearDone p.lanes q.2 then { q.1 with st := .running, near := true } else q.1
      | _ => q.1) }

/-! How a pass ends, stops or faults. -/

/-- The pass leaves the engine. -/
def State.dropPass (s : State) (c : Nat) : State := s.updCluster c (fun k => { k with pass := none })

/-- The issuing core's clock takes the engine's mark (R169, R371). -/
def State.raiseEwmOf (s : State) (p : Pass) : State := s.raise p.core (s.clusterAt (clusterOf p.core)).sweepEwm

/-- The pass leaves the engine by a trap of its `sweep`; on a core that stands frozen, or that has left the `sweep`, the re-executed
`sweep` raises it (R167, R169). -/
def State.trapPass (s : State) (c : Nat) (p : Pass) (cause : Nat) (tval : Word) : State :=
  let s := (s.raiseEwmOf p).dropPass c
  let k := s.coreAt p.core
  if k.frz.isSome || !decide (k.wait = .sweep) then s.updCore p.core (fun k => { k with sweepTrap := some (p.pc, cause, tval) })
  else s.takeTrap p.core cause tval

/-- An access of the engine itself to closed or poisoned bytes, or a check of its own state: the group's effects are discarded and the
`sweep` ends with cause 50 and a fault record, stopped at its cursor (R70, R245, R246; log 75). Held wakes are applied and progress is written
where their bytes are open. With the fault queue full the engine waits with its pass (R205), and a stop comes first: the re-executed `sweep`
meets the closed bytes again. -/
def State.enginePassFault (s : State) (c : Nat) (addr kacc : Nat) : Except Stop State := do
  match s.passAt c with
  | none => pure s
  | some p =>
    let q := s.fq p.ten
    if q.next - q.head < 1024 then do
      let s := s.dropShutWakes c
      let (s, _) ← s.applyWakes c p.wakes.length
      let waitn := match s.passAt c with | some p => p.waitn | none => p.waitn
      let s ← s.putProgress p p.cur true waitn p.ecnt
      let k := s.coreAt p.core
      let (s, i) := s.faultRecord p.ten ⟨50, s.openField 7, c, addr, kacc, s.openField 0, s.openField 1, k.jseq, k.csr.lcore.toNat⟩ s.openCopy
      pure (s.trapPass c p 50 (BitVec.ofNat 64 (i.getD 0xFFFF)))
    else
      let s := if p.recordWaits.isSome then s else s.count cFQOVF 1
      pure (s.updPass c (fun p => { p with recordWaits := some (addr, kacc), loaded := false, lanes := [], bodyWakes := [] }))

/-- The group is discarded: its held wakes are applied, and its cursor, WAITN and ECNT are written with ACT = 1 (R165, R167); closed bytes among
what is written end the pass with cause 50 instead, and the answer says so. -/
def State.discard (s : State) (c : Nat) (l : List (Nat × Nat)) : Except Stop (State × Bool) := do
  let n := match s.passAt c with | some p => p.wakes.length | none => 0
  let (s, shut) ← s.applyWakes c n
  match s.passAt c with
  | none => pure (s, false)
  | some p =>
    match shut, s.firstShut p .store (p.progress ++ l) with
    | some q, _ | none, some q =>
      let s ← s.enginePassFault c q.1 q.2
      pure (s, false)
    | none, none =>
      let s ← s.putProgress p p.cur true p.waitn p.ecnt
      pure (s, true)

/-- A body fault: the group's effects are discarded, FLT is set, the descriptor is written, held wakes are applied, and the
`sweep` raises cause 29 (R165, R167). FLT is set before the held wakes are applied, so that a held wake of the faulting element has
no effect: the spec gives no order of the two (DESIGN CHOICE, log 74). -/
def State.bodyFault (s : State) (c e code addr : Nat) : Except Stop State := do
  match s.passAt c with
  | none => pure s
  | some p =>
    let at_ := p.ctxAddr e
    match s.firstShut p .load [(at_, 16)], s.firstShut p .store [(at_, 16)] with
    | some q, _ | none, some q => s.enginePassFault c q.1 q.2
    | none, none =>
      let (s, x) ← s.planeRead p at_ 16
      let s ← s.planeWrite p at_ 16 (ctxFlag (BitVec.ofNat 128 x) 19 true).toNat
      let (s, good) ← s.discard c p.faultFields
      if good then
        let s ← s.planeWrite p (p.desc + 36) 4 code
        let s ← s.planeWrite p (p.desc + 40) 8 addr
        pure (s.trapPass c p 29 (BitVec.ofNat 64 e))
      else pure s

/-- Stop the pass at a group boundary (R166): the `sweep` does not retire and re-executes. -/
def State.stopPass (s : State) (c : Nat) (p : Pass) : Except Stop State := do
  match s.firstShut p .store p.progress with
  | some q => s.enginePassFault c q.1 q.2
  | none =>
    let s ← s.putProgress p p.cur true p.waitn p.ecnt
    let s := s.updCore p.core (fun k => if k.wait = .sweep then { k with wait := .none } else k)
    pure ((s.raiseEwmOf p).dropPass c)

/-- The pass ends: the descriptor is written, rd takes waitn, and the `sweep` retires (R158, R169). -/
def State.endPass (s : State) (c : Nat) (p : Pass) : Except Stop State := do
  match s.firstShut p .store p.progress with
  | some q => s.enginePassFault c q.1 q.2
  | none =>
    let s ← s.putProgress p p.count false p.waitn p.ecnt
    let s := (s.raiseEwmOf p).updCore p.core (fun k =>
      { k with x := if p.rd = 0 then k.x else k.x.setIfInBounds p.rd (BitVec.ofNat 64 p.waitn) })
    let s := s.dropPass c
    pure (s.retireTo p.core ((s.coreAt p.core).pc + 4#64))

/-- Must the pass stop: a drain of its tenant is in progress, or its core is frozen, was frozen during the group, or is ordered to
freeze (R166)? -/
def State.stopPending (s : State) (p : Pass) : Bool :=
  p.stop || (s.coreAt p.core).frz.isSome || (s.coreAt p.core).frzReq ||
    (match s.disp.drain with | some d => decide (d.ten = some p.ten) | none => false)

/-- The first access of a group load that is closed: ADDR and KACC (R70, R246, R370). The group's places are checked as written too, since
its commit writes them. -/
def State.groupShut (s : State) (p : Pass) (lo n : Nat) : Option (Nat × Nat) :=
  let places (e : Nat) : List (Nat × Nat) := [(p.ctxAddr e, 16), (p.dataAddr e, p.elemBytes), (p.skipAddr e, 8)]
  match s.firstShut p .load ((List.range (n + lo)).flatMap (fun i => places (p.cur - lo + i))) with
  | some q => some q
  | none => s.firstShut p .store ((List.range n).flatMap (fun i => places (p.cur + i)))

/-- From a group boundary on, no wake being held: end or stop the pass, skip runs of 64 skipped elements, or load the next group (R158, R159).
`fuel` bounds the runs skipped in one step. -/
def State.nextGroup (s : State) (c : Nat) (p : Pass) : Nat → Except Stop State
  | 0 => .ok (s.updPass c (fun _ => { p with lanes := [], loaded := false }))
  | fuel + 1 => do
    let s := s.updPass c (fun _ => p)
    if s.stopPending p then s.stopPass c p
    else if p.count ≤ p.cur then s.endPass c p
    else if let some q := s.firstShut p .load [(p.skipAddr p.cur, 8)] then s.enginePassFault c q.1 q.2
    else
      let (s, k) ← s.planeRead p (p.skipAddr p.cur) 8
      let run := min 64 (p.count - p.cur)
      if p.cur % 64 = 0 ∧ k % 2 ^ run = 2 ^ run - 1 then s.nextGroup c { p with cur := p.cur + 64 } fuel
      else
        let lo := if p.cur = 0 then 0 else 1
        let n := min p.width (p.count - p.cur)
        if let some q := s.groupShut p lo n then return (← s.enginePassFault c q.1 q.2)
        let (s, l) ← s.loadElems p (p.cur - lo) (n + lo)
        let mine := l.drop lo
        match mine.find? (fun q => ctxFlt q.2.1) with
        | some q => s.bodyFault c q.1 0x101 0
        | none =>
          let p := { p with
            loaded := true, snap := l.map (fun q => (q.1, q.2.1, q.2.2.1)), bodyWakes := []
            lanes := mine.map (fun q => s.loadLane p q.1 q.2.1 q.2.2.1 q.2.2.2) }
          pure (s.updPass c (fun _ => p))

/-- Runs of 64 elements that one step may skip: a tensor has at most 2^18 of them (R154). -/
def groupFuel (p : Pass) : Nat := (p.count - p.cur) / 64 + 2

/-- A pass between groups goes on: the wakes it holds are applied, then the next group (R158, R165), unless a fault of it waits for room in the
fault queue (R205). -/
def State.goOn (s : State) (c : Nat) : Except Stop State := do
  let waiting := match s.passAt c with | some p => if s.stopPending p then none else p.recordWaits | none => none
  if let some q := waiting then return (← s.enginePassFault c q.1 q.2)
  let s := match s.passAt c with | some p => if p.recordWaits.isSome then s.dropShutWakes c else s | none => s
  let n := match s.passAt c with | some p => p.wakes.length | none => 0
  let (s, shut) ← s.applyWakes c n
  match s.passAt c, shut with
  | none, _ => pure s
  | some _, some q => s.enginePassFault c q.1 q.2
  | some p, none => s.nextGroup c p (groupFuel p)

/-- Can the group commit: no lane runs or can go on? -/
def Pass.quiet (p : Pass) : Bool :=
  p.lanes.all (fun l => match l.st with | .ended _ | .idle => true | .running | .neighbour => false)

/-- Write one lane's element: context, data and skip bit (R155, R156, R163). Of a lane that ran nothing only a latched wake is written (R164). -/
def State.commitLane (s : State) (p : Pass) (l : Lane) : Except Stop State := do
  if l.visited then
    let s ← s.planeWrite p (p.ctxAddr l.elem) 16 l.ctx.toNat
    let s ← s.planeWrite p (p.dataAddr l.elem) p.elemBytes (bytesToNat l.data)
    let (s, d) ← s.planeRead p (p.skipAddr l.elem) 8
    let bit := 2 ^ (l.elem % 64)
    let d := d - if natBit d (l.elem % 64) then bit else 0
    s.planeWrite p (p.skipAddr l.elem) 8 (d + if ctxSlp l.ctx || ctxDone l.ctx then bit else 0)
  else if l.ctx = l.leftCtx then pure s
  else s.planeWrite p (p.ctxAddr l.elem) 16 l.ctx.toNat

/-- Write the lanes of a group in order. -/
def State.commitLanes (s : State) (p : Pass) : List Lane → Except Stop State
  | [] => .ok s
  | l :: t => do
    let s ← s.commitLane p l
    s.commitLanes p t

/-- Write emitted words from place `i` of the emit area on (R163). -/
def State.commitEmits (s : State) (p : Pass) (i : Nat) : List (BitVec 32) → Except Stop State
  | [] => .ok s
  | w :: t => do
    let s ← s.planeWrite p (p.ebase + 4 * i) 4 w.toNat
    s.commitEmits p (i + 1) t

/-- Elements of a committed lane that the next pass will run, unless a later wake ends their sleep (R158). -/
def laneWaits (l : Lane) : Nat :=
  if l.visited ∧ !ctxDone l.ctx ∧ !ctxSlp l.ctx ∧ !ctxFlt l.ctx then 1 else 0

/-- The group commits: its writes, then the wakes of its bodies, then the held wakes of cores, then the next group (R163 to R165). -/
def State.commitGroup (s : State) (c : Nat) (p : Pass) : Except Stop State := do
  let emits := p.lanes.flatMap Lane.emits
  let places := (List.range emits.length).map (fun i => (p.ebase + 4 * (p.ecnt + i), 4))
  let out := p.lanes.flatMap (fun l => [(p.ctxAddr l.elem, 16), (p.dataAddr l.elem, p.elemBytes), (p.skipAddr l.elem, 8)])
  if let some q := s.firstShut p .store (out ++ places) then return (← s.enginePassFault c q.1 q.2)
  if let some q := s.firstShut p .load (p.lanes.map (fun l => (p.skipAddr l.elem, 8))) then return (← s.enginePassFault c q.1 q.2)
  let s ← s.commitLanes p p.lanes
  let s ← s.commitEmits p p.ecnt emits
  let s := s.updPass c (fun p => { p with
    cur := p.cur + p.width, waitn := p.waitn + (p.lanes.map laneWaits).sum, ecnt := p.ecnt + emits.length
    lanes := [], snap := [], wakes := p.bodyWakes ++ p.wakes, bodyWakes := [], loaded := false })
  s.goOn c

/-- What happens to a state whose agent is no core: a wait keeps what was sent, a trap is none of it. -/
def absorb (r : Except Stop State) : State :=
  match r with
  | .ok s => s
  | .error (.hold s _) => s
  | .error (.trap s _ _ _) => s

/-! Lanes at work. -/

/-- FCODE and FADDR of a trap cause of a body load (R167); any other cause is an operand of the body out of range. -/
def bodyCode (cause : Nat) (tval : Word) : Nat × Nat :=
  if cause = 4 ∨ cause = 5 ∨ cause = 13 ∨ cause = 28 then (cause, tval.toNat) else (0x103, 0)

/-- A lane raises a body fault. -/
def State.laneFault (s : State) (c j code addr : Nat) : State :=
  match s.passAt c, s.laneAt c j with
  | some _, some l => absorb (s.bodyFault c l.elem code addr)
  | _, _ => s

/-- A lane meets a word that no body may hold: the group is discarded, the pass leaves the engine with its cursor at the
group, and its core raises cause 2 with the word in stval. R40 has sepc hold the word's address; the core that takes the trap stands at its
`sweep`, whose address sepc takes (DEDUCED, log 16). -/
def State.laneIllegal (s : State) (c j : Nat) : State :=
  match s.passAt c, s.laneAt c j with
  | some p, some l =>
    let w := s.bodyWord p l.idx
    let r : Except Stop State := do
      let (s, good) ← s.discard c []
      pure (if good then s.trapPass c p 2 (w.setWidth 64) else s)
    absorb r
  | _, _ => s

/-- A lane's body instruction retires, the next being index `i` (R160). -/
def State.laneRetire (s : State) (c j i : Nat) : State :=
  match s.laneAt c j with
  | none => s
  | some l =>
    if 2048 < l.count + 1 then s.laneFault c j 0x100 0
    else s.updLane c j (fun l => { l with idx := i, count := l.count + 1 })

/-- A lane ends its segment with this context (R162): STEP names the next instruction, and a lane that waits for it goes on. STEP has
16 bits, and the index of a body longer than 65,535 words is cut to them (DESIGN CHOICE, log 76). -/
def State.laneEnd (s : State) (c j : Nat) (ctx : BitVec 128) (key : Bool) : State :=
  match s.laneAt c j with
  | none => s
  | some l =>
    if 2048 < l.count + 1 then s.laneFault c j 0x100 0
    else
      let ctx := putBits ctx 0 16 (l.idx + 1)
      (s.updLane c j (fun l => { l with
        st := .ended key, count := l.count + 1, ctx := ctx, skip := ctxSlp ctx || ctxDone ctx, leftCtx := ctx, leftData := l.data })).updPass c Pass.settle

end Sys2Proof.Machine
end

