-- ==== Sys2Proof/Machine/Operands.lean ====
section
/-! DEFINITION. Operands: immediates, registers of cores and of sweep lanes, and how an instruction of a core or of a lane retires (R45, R66, R67, R77, R160, R249). -/

namespace Sys2Proof.Machine

/-! Immediates (R249, R43). -/

/-- ImmI. -/
def immI (imm : BitVec 12) : Word := imm.signExtend 64

/-- ImmS, from its two pieces. -/
def immS (hi : BitVec 7) (lo : BitVec 5) : Word := (hi ++ lo).signExtend 64

/-- ImmB, from bits 31:25 and bits 11:7 of the word. -/
def immB (hi : BitVec 7) (lo : BitVec 5) : Word :=
  (hi.extractLsb' 6 1 ++ lo.extractLsb' 0 1 ++ hi.extractLsb' 0 6 ++ lo.extractLsb' 1 4 ++ 0#1).signExtend 64

/-- ImmU. -/
def immU (imm : BitVec 20) : Word := (imm ++ 0#12).signExtend 64

/-- ImmJ, from bits 31:12 of the word. -/
def immJ (imm : BitVec 20) : Word :=
  (imm.extractLsb' 19 1 ++ imm.extractLsb' 0 8 ++ imm.extractLsb' 8 1 ++ imm.extractLsb' 9 10 ++ 0#1).signExtend 64

/-- The offset of a VM word: simm8 times the access size (R43). -/
def immV (imm : BitVec 8) (size : Nat) : Word := imm.signExtend 64 * BitVec.ofNat 64 size

/-! Scalar registers (R66, R160). -/

/-- An x register of a core; x0 reads as 0. -/
def Core.rx (c : Core) (r : BitVec 5) : Word := if r = 0#5 then 0#64 else c.x.getD r.toNat 0#64

/-- Write an x register of a core; a write to x0 is discarded. -/
def Core.wx (c : Core) (r : BitVec 5) (w : Word) : Core := if r = 0#5 then c else { c with x := c.x.setIfInBounds r.toNat w }

/-- A lane register: 0 to 7 name x0 to x7, 8 to 15 name e0 to e7, sign-extended. -/
def Lane.rx (l : Lane) (r : BitVec 5) : Word :=
  if r = 0#5 then 0#64
  else if r.toNat < 8 then l.x.getD r.toNat 0#64
  else if r.toNat < 16 then (l.e.getD (r.toNat - 8) 0#32).signExtend 64
  else 0#64

/-- Write a lane register; e registers keep bits 31:0. -/
def Lane.wx (l : Lane) (r : BitVec 5) (w : Word) : Lane :=
  if r = 0#5 then l
  else if r.toNat < 8 then { l with x := l.x.setIfInBounds r.toNat w }
  else if r.toNat < 16 then { l with e := l.e.setIfInBounds (r.toNat - 8) (w.setWidth 32) }
  else l

/-- A scalar register of the acting agent. -/
def State.rx (s : State) (r : BitVec 5) : Word :=
  match s.run.cur with
  | .core n => (s.coreAt n).rx r
  | .lane c j => match s.laneAt c j with | some l => l.rx r | none => 0#64

/-- Write a scalar register of the acting agent. -/
def State.wx (s : State) (r : BitVec 5) (w : Word) : State :=
  match s.run.cur with
  | .core n => s.updCore n (fun c => c.wx r w)
  | .lane c j => s.updLane c j (fun l => l.wx r w)

/-! Vector and mask registers (R67). A write by an instruction that is not custom-0 waits for the custom-0 writes before it (R47). -/

/-- A v register. -/
def Core.rv (c : Core) (r : BitVec 5) : BitVec 512 := c.v.getD r.toNat 0#512

/-- Write a v register. -/
def Core.wv (c : Core) (r : BitVec 5) (w : BitVec 512) : Core :=
  { c with v := c.v.setIfInBounds r.toNat w, vpend := c.vpend.filter (fun p => !decide (p.reg = r.toNat)) }

/-- A mask register. -/
def Core.rm (c : Core) (r : Nat) : Word := c.m.getD r 0#64

/-- Write a mask register. -/
def Core.wm (c : Core) (r : Nat) (w : Word) : Core :=
  { c with m := c.m.setIfInBounds r w, vpend := c.vpend.filter (fun p => !decide (p.reg = 32 + r)) }

/-- The next custom-0 instruction issues when every earlier custom-0 result is written: after a `jalr`, and after a write to
acfg, srstate, vmsel or scbchk (R47, R79). -/
def Core.awaitVector (c : Core) : Core := { c with vnext := c.vpend.foldl (fun t p => max t p.fin) c.vnext }

/-- Lane j of a v register. -/
def vlane (v : BitVec 512) (j : Nat) : BitVec 32 := v.extractLsb' (32 * j) 32

/-- A v register from its 16 lanes. -/
def vmake (f : Nat → BitVec 32) : BitVec 512 := (List.range 16).foldl (fun a j => a ||| ((f j).setWidth 512 <<< (32 * j))) 0#512

/-- A v register from elements of `w` bits. -/
def vmakeW (w : Nat) (f : Nat → Nat) : BitVec 512 :=
  (List.range (512 / w)).foldl (fun a j => a ||| (BitVec.ofNat 512 (f j % 2 ^ w) <<< (w * j))) 0#512

/-- Element `e` of `w` bits. -/
def velem (v : BitVec 512) (w e : Nat) : Nat := (v.extractLsb' (w * e) w).toNat

/-- Is element `e` active (R273)? -/
def Core.active (c : Core) (e : Nat) : Bool := c.csr.vmsel.getLsbD 3 || (c.rm (c.csr.vmsel.extractLsb' 0 3).toNat).getLsbD e

/-! Retiring on a core or on a lane. -/

/-- The instruction of the acting agent retires and the next follows it. -/
def State.complete (s : State) : State :=
  match s.run.cur with
  | .core n => s.retireTo n ((s.coreAt n).pc + 4#64)
  | .lane c j => match s.laneAt c j with | some l => s.laneRetire c j (l.idx + 1) | none => s

/-- Write the destination and retire: how every register operation ends. -/
def State.setRd (s : State) (r : BitVec 5) (w : Word) : State := (s.wx r w).complete

/-- The outcome of an instruction that cores and lanes both execute: a lane's trap is a body fault (R167). -/
def runAny (s : State) (r : Except Stop State) : Host.Outcome State Fault Refusal :=
  match s.run.cur with
  | .core n => finish n r
  | .lane c j =>
    match r with
    | .ok s => .next s
    | .error (.hold s _) => .next s
    | .error (.trap s cause tval _) => .next (s.laneFault c j (bodyCode cause tval).1 (bodyCode cause tval).2)

/-- The outcome of an instruction that only cores execute. Install refuses it in a body (R160); a decode table may still make a
word of a body one (R53): the lane then meets an illegal word. -/
def runCore (s : State) (f : Nat → Except Stop State) : Host.Outcome State Fault Refusal :=
  match s.run.cur with
  | .core n => finish n (f n)
  | .lane c j => .next (s.laneIllegal c j)

/-- The outcome of a sweep-body operation: cause 2 outside a body (R346). -/
def runLane (s : State) (f : Nat → Nat → Pass → Lane → Except Stop State) : Host.Outcome State Fault Refusal :=
  match s.run.cur with
  | .core n => finish n (illegal s)
  | .lane c j =>
    match s.passAt c, s.laneAt c j with
    | some p, some l => runAny s (f c j p l)
    | _, _ => .next s

end Sys2Proof.Machine
end

