-- ==== Sys2Proof/Machine/Atomics.lean ====
section
/-! DEFINITION. Atomics and aggregated adds (R328 to R330, R356, R357). -/

namespace Sys2Proof.Machine

/-! Scope and order of an SA word (R43). -/

/-- Scope of so: 1 team to 5 system. -/
def soScope (so : BitVec 3) : Nat :=
  match so.toNat with
  | 0 => 1 | 1 => 2 | 2 | 3 => 3 | 4 | 5 => 4 | _ => 5

/-- Is the order acquire and release? -/
def soAr (so : BitVec 3) : Bool := decide (so = 0#3) || decide (so = 1#3) || decide (so = 3#3) || decide (so = 5#3) || decide (so = 7#3)

/-! The operations (R328). -/

/-- What an atomic computes. -/
inductive AmoOp where
  | swap | add | and | or | max | maxu | cas
  deriving DecidableEq, Repr

/-- The new memory value of `n` bytes, from the old value, the operand and the comparand. -/
def AmoOp.value (op : AmoOp) (n m cmp old : Nat) : Nat :=
  match op with
  | .swap => m
  | .add => (old + m) % 2 ^ (8 * n)
  | .and => old &&& m
  | .or => old ||| m
  | .max => if signedOf (8 * n) old < signedOf (8 * n) m then m else old
  | .maxu => Nat.max old m
  | .cas => if old = cmp then m else old

/-- The host AtomicOp that performs it: 0 FetchAdd, 1 Swap, 2 CAS; `none` where the host has none. -/
def AmoOp.host (op : AmoOp) : Option Nat :=
  match op with
  | .add => some 0
  | .swap => some 1
  | .cas => some 2
  | .and | .or | .max | .maxu => none

/-- Its number in a request to another module. -/
def AmoOp.code (op : AmoOp) : Nat :=
  match op with
  | .swap => 0 | .add => 1 | .and => 2 | .or => 3 | .max => 4 | .maxu => 5 | .cas => 6

/-- The value of an old memory word in a register: sign-extended from `n` bytes. -/
def amoResult (n old : Nat) : Word := if n = 4 then (BitVec.ofNat 32 old).signExtend 64 else BitVec.ofNat 64 old

/-- An operand: the low `n` bytes of a register. -/
def amoOperand (n : Nat) (w : Word) : Nat := w.toNat % 2 ^ (8 * n)

/-! Performing at the home (R124, R328, R356). -/

/-- Send one AtomicOp and wait for its completion; one is outstanding at most. -/
def sendAtomic {α : Type} (s : State) (n : Nat) (r : CxlReq) : Except Stop α :=
  match (s.coreAt n).wait with
  | .atomicOp t => hold s (.atomicOp t)
  | _ => hold (s.updCore n (fun c => { c with cxl := c.cxl ++ [r] })) (.atomicOp s.time.gtc)

/-- What the core waits in while an atomic of it is on its way (R356): nothing of the instruction is done again before the answer. -/
def Core.atomicSent (c : Core) : Option Wait :=
  match c.reply, c.wait with
  | .none, .atomicOp t => some (.atomicOp t)
  | .none, _ => if c.remAsked then some .remote else none
  | _, _ => none

/-- One read-modify-write of `size` bytes at a place, by core `n`; the answer is the old value. It waits for the core's stores that have left
the package, as a store does (R173). -/
def State.amoAt (s : State) (n : Nat) (p : Place) (size : Nat) (op : AmoOp) (m cmp : Nat) (ea : Word) : Except Stop (State × Nat) :=
  if (s.coreAt n).mustWait p then hold s .fence
  else
  match p with
  | .cached key => s.homeAtomic n key size (op.value size m cmp)
  | .scratch core off =>
    let s := s.raise n (s.coreAt core).scm
    let old := s.mem.read (kPad core off) size
    .ok (s.padWrite core off ((natToBytes size (op.value size m cmp old)).map some), old)
  | .cxl key =>
    match op.host with
    | none => trapAcc s .atomic 27 ea
    | some h => sendAtomic s n (.atomic key size h (BitVec.ofNat 64 m) (BitVec.ofNat 64 cmp))
  | .remote a => askRemote s n (.atomicAsk n a size op.code (BitVec.ofNat 64 m) (BitVec.ofNat 64 cmp))
  | .ctrl _ => trapAcc s .atomic 7 ea
  | .window _ _ | .nibbles _ _ | .words _ _ | .scaled _ _ _ _ | .row _ => trapAcc s .atomic 28 ea

/-- The place of an atomic after the checks of R329. -/
def State.amoCheck (s : State) (n : Nat) (ea : Word) (size : Nat) (op : AmoOp) : Except Stop (State × Place) := do
  let (s, p) ← s.check n ea size size .atomic
  match p with
  | .window _ _ => trapAcc s .atomic 28 ea
  | .cxl _ => if op.host.isNone then trapAcc s .atomic 27 ea else pure (s, p)
  | p => pure (s, p)

/-- The end of an atomic: rd takes the old value, and an `.ar` form acquires. -/
def amoDone (s : State) (n size : Nat) (rd : BitVec 5) (so : BitVec 3) (old : Nat) : State :=
  let s := if soAr so then s.acquire n (soScope so) else s
  s.setRd rd (amoResult size old)

/-- The shared meaning of the atomics other than aggregated adds (R328, R329). -/
def amo (op : AmoOp) (size : Nat) (rd rs1 rs2 : BitVec 5) (so : BitVec 3) (s : State) : Host.Outcome State Fault Refusal :=
  runCore s (fun n => do
    let ea := s.rx rs1
    let m := amoOperand size (s.rx rs2)
    let cmp := amoOperand size (s.rx rd)
    if let some w := (s.coreAt n).atomicSent then return (← hold s w)
    match (s.coreAt n).reply with
    | .value v => pure (amoDone s n size rd so (bytesToNat v))
    | .error _ page => trapAcc s .atomic (awayCause .atomic page) ea
    | .none =>
      let (s, p) ← s.amoCheck n ea size op
      let s ← (if soAr so then s.release n (soScope so) else s.drain n : Except Stop State)
      let (s, old) ← s.amoAt n p size op m cmp ea
      pure (amoDone s n size rd so old))

/-! Aggregated adds (R330). -/

/-- The cores that must bring an addend: the active ranks of the core's team, lowest rank first; a core of no field acts alone. -/
def State.teamCores (s : State) (n : Nat) : List Nat :=
  match (s.coreAt n).task with
  | none => [n]
  | some t =>
    match s.fieldOf t, s.launch t.jseq with
    | some f, some l =>
      let c := f.teams.getD t.team 0
      ((List.range 16).filter (fun r => !f.idleRank (l.stage t.stage) t.team r)).map (16 * c + ·)
    | _, _ => [n]

/-- Its addend. -/
def Core.addend (c : Core) : Nat := match c.contrib with | .agg w _ _ v => amoOperand (if w then 4 else 8) v | _ => 0

/-- Does it agree with another on address, width, scope and order? -/
def Core.aggLike (c d : Core) : Bool :=
  match c.contrib, d.contrib with
  | .agg w so ea _, .agg w' so' ea' _ => decide (w = w') && decide (so = so') && decide (ea = ea')
  | _, _ => false

/-- The rd field of the word a core executes. -/
def Core.rdField (c : Core) : BitVec 5 := c.iw.extractLsb' 7 5

/-- Every participant takes the same trap: `tval` gives each its own. -/
def State.trapAll (s : State) (cores : List Nat) (cause : Nat) (tval : State → Nat → Word) (kacc : Nat) : State :=
  cores.foldl (fun s m => s.takeTrapK m cause (tval s m) kacc) s

/-- The add is done: rank k receives the old value with the addends of lower ranks, acquires, and retires. -/
def State.aggDone (s : State) (size : Nat) (so : BitVec 3) (cores : List Nat) (old : Nat) : State :=
  match cores with
  | [] => s
  | m :: rest =>
    let a := (s.coreAt m).addend
    let s := if soAr so then s.acquire m (soScope so) else s
    let s := s.updCore m (fun c => c.wx c.rdField (amoResult size old))
    let s := s.retireTogether m
    s.aggDone size so rest ((old + a) % 2 ^ (8 * size))

/-- Raise the clocks of all to the largest among them (log 35). -/
def State.levelClocks (s : State) (cores : List Nat) : State :=
  let t := cores.foldl (fun t m => max t (s.coreAt m).csr.lclk) 0
  cores.foldl (fun s m => s.raise m t) s

/-- Has some other participant sent the add already? -/
def State.aggSent (s : State) (n : Nat) (cores : List Nat) : Bool :=
  cores.any (fun m => decide (m ≠ n) && ((s.coreAt m).sent || (s.coreAt m).remAsked))

/-- Must the add wait for stores of its ranks that left the package and are not performed (R173, R174, R330)? -/
def State.aggWaits (s : State) (n : Nat) (cores : List Nat) (p : Place) : Bool :=
  cores.any (fun m => if m = n then (s.coreAt m).mustWait p else (s.coreAt m).away)

/-- Perform the add of all addends, every rank having come (R330). -/
def State.aggRun (s : State) (n size : Nat) (so : BitVec 3) (ea : Word) (cores : List Nat) : Except Stop State := do
  let sum := cores.foldl (fun t m => (t + (s.coreAt m).addend) % 2 ^ (8 * size)) 0
  match (s.coreAt n).reply with
  | .value v => pure (s.aggDone size so cores (bytesToNat v))
  | .error _ page => pure (s.trapAll cores (awayCause .atomic page) (fun _ _ => ea) 3)
  | .none =>
    match s.amoCheck n ea size .add with
    | .error (.trap s cause v k) => pure (s.trapAll cores cause (fun _ _ => v) k)
    | .error (.hold s _) => hold s .agg
    | .ok (s, p) =>
      if s.aggWaits n cores p then hold s .agg
      else
      let s := s.levelClocks cores
      let (s, old) ← s.amoAt n p size .add sum 0 ea
      pure ((s.levelClocks cores).aggDone size so cores old)

/-- The shared meaning of `amo.aggadd` (R330): a rendezvous of the team's active ranks, in which a core's followers take part. -/
def aggadd (size : Nat) (rd rs1 rs2 : BitVec 5) (so : BitVec 3) (s : State) : Host.Outcome State Fault Refusal :=
  runCore s (fun n => do
    let ea := s.rx rs1
    let _ := rd
    if let some w := (s.coreAt n).atomicSent then return (← hold s w)
    let s ← (if (s.coreAt n).hasAgg then pure s
      else do
        let s ← (if soAr so then s.release n (soScope so) else s.drain n : Except Stop State)
        pure ((s.updCore n (fun c => { c with contrib := .agg (decide (size = 4)) so.toNat ea (s.rx rs2) })).forwardEarly n) : Except Stop State)
    let cores := s.teamCores n
    if !cores.all (fun m => (s.coreAt m).hasAgg) then hold s .agg
    else if !cores.all (fun m => (s.coreAt m).aggLike (s.coreAt n)) then
      pure (s.trapAll cores 2 (fun s m => (s.coreAt m).iw.setWidth 64) 0xFF)
    else if s.aggSent n cores then hold s .agg
    else s.aggRun n size so ea cores)

/-! The instructions. -/

/-- `amo.swap.d` (R328). -/
def execAmoSwapD (rd rs1 rs2 : BitVec 5) (so : BitVec 3) (s : State) : Host.Outcome State Fault Refusal := amo .swap 8 rd rs1 rs2 so s

/-- `amo.add.d` (R328). -/
def execAmoAddD (rd rs1 rs2 : BitVec 5) (so : BitVec 3) (s : State) : Host.Outcome State Fault Refusal := amo .add 8 rd rs1 rs2 so s

/-- `amo.and.d` (R328). -/
def execAmoAndD (rd rs1 rs2 : BitVec 5) (so : BitVec 3) (s : State) : Host.Outcome State Fault Refusal := amo .and 8 rd rs1 rs2 so s

/-- `amo.or.d` (R328). -/
def execAmoOrD (rd rs1 rs2 : BitVec 5) (so : BitVec 3) (s : State) : Host.Outcome State Fault Refusal := amo .or 8 rd rs1 rs2 so s

/-- `amo.max.d` (R328). -/
def execAmoMaxD (rd rs1 rs2 : BitVec 5) (so : BitVec 3) (s : State) : Host.Outcome State Fault Refusal := amo .max 8 rd rs1 rs2 so s

/-- `amo.maxu.d` (R328). -/
def execAmoMaxuD (rd rs1 rs2 : BitVec 5) (so : BitVec 3) (s : State) : Host.Outcome State Fault Refusal := amo .maxu 8 rd rs1 rs2 so s

/-- `amo.cas.d` (R328). -/
def execAmoCasD (rd rs1 rs2 : BitVec 5) (so : BitVec 3) (s : State) : Host.Outcome State Fault Refusal := amo .cas 8 rd rs1 rs2 so s

/-- `amo.aggadd.d` (R330). -/
def execAmoAggaddD (rd rs1 rs2 : BitVec 5) (so : BitVec 3) (s : State) : Host.Outcome State Fault Refusal := aggadd 8 rd rs1 rs2 so s

/-- `amo.swap.w` (R328). -/
def execAmoSwapW (rd rs1 rs2 : BitVec 5) (so : BitVec 3) (s : State) : Host.Outcome State Fault Refusal := amo .swap 4 rd rs1 rs2 so s

/-- `amo.add.w` (R328). -/
def execAmoAddW (rd rs1 rs2 : BitVec 5) (so : BitVec 3) (s : State) : Host.Outcome State Fault Refusal := amo .add 4 rd rs1 rs2 so s

/-- `amo.and.w` (R328). -/
def execAmoAndW (rd rs1 rs2 : BitVec 5) (so : BitVec 3) (s : State) : Host.Outcome State Fault Refusal := amo .and 4 rd rs1 rs2 so s

/-- `amo.or.w` (R328). -/
def execAmoOrW (rd rs1 rs2 : BitVec 5) (so : BitVec 3) (s : State) : Host.Outcome State Fault Refusal := amo .or 4 rd rs1 rs2 so s

/-- `amo.max.w` (R328). -/
def execAmoMaxW (rd rs1 rs2 : BitVec 5) (so : BitVec 3) (s : State) : Host.Outcome State Fault Refusal := amo .max 4 rd rs1 rs2 so s

/-- `amo.maxu.w` (R328). -/
def execAmoMaxuW (rd rs1 rs2 : BitVec 5) (so : BitVec 3) (s : State) : Host.Outcome State Fault Refusal := amo .maxu 4 rd rs1 rs2 so s

/-- `amo.cas.w` (R328). -/
def execAmoCasW (rd rs1 rs2 : BitVec 5) (so : BitVec 3) (s : State) : Host.Outcome State Fault Refusal := amo .cas 4 rd rs1 rs2 so s

/-- `amo.aggadd.w` (R330). -/
def execAmoAggaddW (rd rs1 rs2 : BitVec 5) (so : BitVec 3) (s : State) : Host.Outcome State Fault Refusal := aggadd 4 rd rs1 rs2 so s

end Sys2Proof.Machine
end

