-- ==== Sys2Proof/Machine/Due.lean ====
section
/-! DEFINITION. Time: what passes with the cycles, and which events the spec fixes to a cycle are due (R20, R121, R129, R210, R213, R221, R243, R308, R357). -/

namespace Sys2Proof.Machine

/-! Conditions over cycles. -/

/-- Does a field wait for this cluster? -/
def State.clusterWanted (s : State) (c : Nat) : Bool :=
  (List.range 16).any (fun t => partV (s.part t) && (partCmask (s.part t)).getLsbD c && s.fieldWaits t)

/-- Is the cluster one that power gating concerns (R20)? -/
def State.gateable (s : State) (c : Nat) : Bool :=
  decide ((s.clusterAt c).power = .awake) && !s.tabs.servers.contains c && !s.hasTeam c

/-- Does the core stop for a drain of its tenant (R211)? The drain that a `yield.slot` orders stops in its own cycle the cores that have yielded
in it, and no other, so that every yield of the cycle retires (R348). -/
def State.draining (s : State) (n : Nat) : Bool :=
  match s.disp.drain with
  | some d => decide (d.ten = some (s.coreAt n).ten) && (s.coreAt n).task.isSome &&
      (!(d.yielder.isSome && decide (d.started = s.time.gtc)) || s.noted (.yield n))
  | none => false

/-- Does the tenant's idle lease count advance: its slot is active and no drain of it has begun? -/
def State.slotActive (s : State) (ten : Nat) : Bool :=
  decide (s.disp.active = some ten) && (match s.disp.drain with | some d => !decide (d.ten = some ten) | none => true)

/-- Is the word one of custom-2 that the array executes: any but those of the ring group (R303)? -/
def isArrayWord (w : IWord) : Bool := decide (w.extractLsb' 0 7 = 91#7) && !decide (w.extractLsb' 12 3 = 3#3)

/-- Does a core wait in an instruction that the array holds, other than a request for the lease (R303, R308)? -/
def State.inArray (s : State) (n : Nat) : Bool :=
  match (s.coreAt n).wait with
  | .none | .lease => false
  | _ => isArrayWord (s.mapped n (s.coreAt n).iw)

/-- Does the idle count of a cluster's lease advance in this cycle: another core waits, and the holder has nothing in the array (R308)? -/
def State.leaseIdle (s : State) (c : Nat) : Bool :=
  match s.holderCore c with
  | some n => !(s.clusterAt c).lwait.isEmpty && s.slotActive (s.coreAt n).ten && !s.inArray n
  | none => false

/-- Is the wait one of those R243 lists? -/
def Wait.quiet (w : Wait) : Bool :=
  match w with
  | .barrier | .message | .event | .waita _ | .hold => true
  | .none | .pop | .lease | .ring | .vote | .agg | .gred | .follow | .sweep | .home | .cxl | .atomicOp _ | .remote | .interrupt
  | .unseal | .rebuild | .fence | .message4 => false

/-- The listed cores that hold a task of a tenant. -/
def State.placedCores (s : State) (ten : Nat) : List (Nat × Core) := s.cores.filter (fun e => e.2.task.isSome && decide (e.2.ten = ten))

/-- Is the command one of a server core, which belongs to no tenant though its ptag reads 0 (R8)? -/
def State.serverCmd (s : State) (c : Cmd) : Bool := match c.core with | some n => s.isServer n | none => false

/-- Does a command of the tenant stand in an engine, from a core or a port? -/
def State.busyFor (s : State) (x : Engine) (ten : Nat) : Bool := x.cmds.any (fun c => decide (c.ten = ten) && !s.serverCmd c)

/-- Is the pass one of the tenant? -/
def State.passFor (s : State) (p : Pass) (ten : Nat) : Bool := decide (p.ten = ten) && !s.isServer p.core

/-- Are all conditions of R243 met in this cycle? -/
def State.quiescent (s : State) (ten : Nat) : Bool :=
  let l := s.placedCores ten
  !l.isEmpty &&
    l.all (fun e => ((match e.2.task with | some t => t.idle | none => false) || e.2.wait.quiet) && e.2.frz.isNone) &&
    s.cores.all (fun e => e.2.sb.isEmpty || !decide (e.2.ten = ten) || s.isServer e.1) &&
    !s.net.msgs.any (fun m => decide (m.ten = ten) && !s.isServer m.src) &&
    !s.clusters.any (fun e => s.busyFor e.2.eng ten || (match e.2.pass with | some p => s.passFor p ten | none => false) ||
      e.2.passes.any (fun p => s.passFor p ten)) &&
    !s.engines.any (fun e => s.busyFor e.2 ten)

/-- Has a core of the tenant retired an instruction in the present cycle, which is then no quiescent one? -/
def State.stirred (s : State) (ten : Nat) : Bool := (s.placedCores ten).any (fun e => decide (e.2.lastRet = s.time.gtc))

/-- The quiescent cycles of a tenant before the present one, if that one counts. -/
def State.quietSoFar (s : State) (t : Nat) : Nat := if s.stirred t then 0 else Tbl.get 0 s.disp.quiet t

/-- A tenant's quiescence count after `k` more cycles (R243). -/
def State.quietPass (s : State) (k : Nat) : State :=
  match s.disp.active with
  | none => s
  | some t =>
    if k = 0 ∨ !s.slotActive t then s
    else if s.quiescent t then
      let k := if s.stirred t then k - 1 else k
      { s with disp := { s.disp with
        quiet := Tbl.set 0 s.disp.quiet t (min 65536 (s.quietSoFar t + k))
        quietRaised := if s.stirred t then removeAll s.disp.quietRaised t else s.disp.quietRaised } }
    else { s with disp := { s.disp with quiet := Tbl.set 0 s.disp.quiet t 0, quietRaised := removeAll s.disp.quietRaised t } }

/-- One cluster after `k` more cycles: the lease's idle count and the power-gating clock. -/
def State.clusterPass (s : State) (k : Nat) (c : Nat) (x : Cluster) : Cluster :=
  { x with
    lidle := if s.leaseIdle c then x.lidle + k else (if x.lwait.isEmpty then 0 else x.lidle)
    idleSince := if s.hasTeam c || s.clusterWanted c then s.time.gtc + k else x.idleSince }

/-- `k` cycles pass (R233): gtc counts, and so do the counts the spec keeps in cycles. -/
def State.pass (s : State) (k : Nat) : State :=
  let s1 := s.quietPass k
  let s2 := { s1 with clusters := ((s1.clusters.map (fun (e : Nat × Cluster) => (e.1, s.clusterPass k e.1 e.2))).filter
    (fun e => !decide (e.2 = Cluster.gated))) }
  let s3 := if k = 0 then s2 else s2.grantLeases
  { s3 with time := { s3.time with gtc := s.time.gtc + k } }

/-! Times of events. -/

/-- Every store buffer drained as far as it can be (R129). -/
def State.drainAll (s : State) : State := s.listed.foldl (fun s n => absorb (s.drain n)) s

/-- Is every store buffer empty? -/
def State.buffersEmpty (s : State) : Bool := s.cores.all (fun e => e.2.sb.isEmpty)

/-- Can a rebase be made now: every store buffer drains under the old clocks (R129)? Until then the requests that the drains wait for go on
(log 88). -/
def State.canRebase (s : State) : Bool := s.drainAll.buffersEmpty

/-- The gtc of the edge that ends the current slot entry (R210); `none` when no table runs. -/
def State.edgeAt (s : State) : Option Nat :=
  let e := s.tabs.slots.getD s.tabs.cur 0#32
  if s.tabs.run ∧ slotV e ∧ !s.tabs.bootRom then some (s.tabs.epoch + 4096 * slotLen e) else none

/-- May the watchdog freeze the core (R221)? -/
def State.watched52 (s : State) (n : Nat) (c : Core) : Bool :=
  (match c.task with | some t => !t.idle | none => false) && c.frz.isNone && decide (c.wait = .none) && decide (c.reply = .none) && s.slotActive c.ten && !s.draining n && s.fieldStarted n

/-- The kinds of event that the spec fixes to a cycle. -/
inductive Timed where
  | tick
  | wake (cluster : Nat)
  | timeout (core : Nat)
  | revoke (cluster : Nat)
  | quiet (ten : Nat)
  | dog (core : Nat)
  | edge
  | overrun
  | gate (cluster : Nat)
  | rebase
  deriving DecidableEq, Repr

/-- The row of the table that such an event is. -/
noncomputable def Timed.instr (t : Timed) : Instr :=
  match t with
  | .tick => .selfTick
  | .wake c => .clusterWake c
  | .timeout n => .atomicopTimeout n
  | .revoke c => .leaseRevocation c
  | .quiet t => .quiescence t
  | .dog n => .watchdogFreeze n
  | .edge => .slotEdge
  | .overrun => .slotOverrun
  | .gate c => .powerGate c
  | .rebase => .rebase

/-- Every event that the spec fixes to a cycle, with that cycle, in the order in which events of one cycle happen. -/
def State.timed (s : State) : List (Nat × Timed) :=
  [(256 * (s.time.ticks + 1), Timed.tick)] ++
  s.clusters.filterMap (fun e => match e.2.power with | .waking r => some (r, Timed.wake e.1) | _ => none) ++
  s.cores.filterMap (fun e => match e.2.wait with | .atomicOp t => some (t + 900000, Timed.timeout e.1) | _ => none) ++
  -- the holder's issue in the 65,536th idle cycle still counts, so that the lease is taken after it (R308)
  s.clusters.filterMap (fun e => if s.leaseIdle e.1 then some (s.time.gtc + (65537 - e.2.lidle), Timed.revoke e.1) else none) ++
  (match s.disp.active with
   | some t => if s.slotActive t && s.quiescent t && (s.stirred t || !s.disp.quietRaised.contains t) then
       [(s.time.gtc + (65536 - s.quietSoFar t) + (if s.stirred t then 1 else 0), Timed.quiet t)] else []
   | none => []) ++
  s.cores.filterMap (fun e => if s.watched52 e.1 e.2 then some (e.2.lastRet + 3600000, Timed.dog e.1) else none) ++
  (match s.edgeAt with | some t => if decide (2 ^ 31 ≤ s.ceil) && decide (t ≤ s.time.gtc) && !s.canRebase then [] else [(t, Timed.edge)] | none => []) ++
  (match s.disp.drain with | some d => if d.overrun then [] else [(d.started + 90000, Timed.overrun)] | none => []) ++
  s.clusters.filterMap (fun e =>
    if s.gateable e.1 then
      (if !s.owned e.1 then some (s.time.gtc, Timed.gate e.1)
       else if s.clusterWanted e.1 then none else some (e.2.idleSince + 65536, Timed.gate e.1))
    else none) ++
  (if decide (2 ^ 31 + 2 ^ 30 ≤ s.ceil) && !s.canRebase then [] else [(s.time.g0 + (2 ^ 31 + 2 ^ 30 - s.time.tbase) * 256, Timed.rebase)])

/-- The event that is due now, if one is. -/
def State.due (s : State) : Option Timed := (s.timed.find? (fun e => decide (e.1 ≤ s.time.gtc))).map Prod.snd

/-- How many of `k` cycles may pass before an event is due or a lease is granted. -/
def State.gapLimit (s : State) (k : Nat) : Nat :=
  s.timed.foldl (fun k e => min k (e.1 - s.time.gtc)) (if s.clusters.any (fun e => s.grantable e.1) then min k 1 else k)

end Sys2Proof.Machine
end

