-- ==== Sys2Proof/Machine/Fetch.lean ====
section
/-! DEFINITION. Fetching: the word an agent executes next, where it lies, and the traps of a fetch (R36, R38, R40, R50, R53, R115, R225, R268). -/

namespace Sys2Proof.Machine

/-- What a core's fetch finds. -/
inductive Fetched where
  | word (w : IWord)
  /-- A pc outside the text: cause 1 (R38, R268). -/
  | fault
  /-- The capsule's body is void: a first-use rebuild (R226). -/
  | void
  deriving DecidableEq, Repr

/-- The word of text at an address. -/
def State.textWord (s : State) (a : Nat) : IWord := BitVec.ofNat 32 (s.mem.read (kText a) 4)

/-- Fetch for core `n` at its pc (R38, R268); a poisoned word is cause 1 as well (R246). A pc inside the body that is no multiple of 4, which
only a Lens write of the saved pc can leave, is cause 1 with stval the pc: the spec names no cause at fetch for it (DESIGN CHOICE, log 79). -/
def State.fetch (s : State) (n : Nat) : Fetched :=
  let c := s.coreAt n
  let a := c.pc.toNat
  match c.mode with
  | .s =>
    if a % 4 = 0 ∧ Config.serverEntry ≤ a ∧ a + 4 ≤ Config.serverEntry + Config.serverTextSize ∧ !s.poisoned (kText a) then .word (s.textWord a) else .fault
  | .u =>
    match c.task with
    | none => .fault
    | some t =>
      let e := s.cap t.caps
      match e.st with
      | .sealed =>
        if a % 4 = 0 ∧ textBase t.caps ≤ a ∧ a < textBase t.caps + 4 * e.nins ∧ !s.poisoned (kText a) then .word (s.textWord a) else .fault
      | .void => .void
      | .free | .installing | .deleted => .fault

/-- Does the core take turns: a server core, or one that holds a task that is no idle rank; not frozen, not stopped for a drain unless an instruction of it has sent something out, and of a field that has started (R14, R15, R211,
R221)? -/
def State.runs (s : State) (n : Nat) : Bool :=
  (s.isServer n || (match (s.coreAt n).task with | some t => !t.idle | none => false)) && (s.coreAt n).frz.isNone && (!s.draining n || (s.coreAt n).sent) && s.fieldStarted n

/-- Is the leader of a follower gone, so that the follower detaches (R26)? -/
def State.leaderGone (s : State) (l : Nat) : Bool := (s.coreAt l).task.isNone

/-- The word a core is about to execute. -/
def State.setIw (s : State) (n : Nat) (w : IWord) : State := s.updCore n (fun c => { c with iw := w })

/-- The follower is about to execute a forwarded instruction (R24). -/
def State.setFwd (s : State) (n : Nat) (f : Fwd) : State := s.updCore n (fun c => { c with pc := f.pc, iw := f.word })

/-- What the turn of a core is. -/
inductive CoreTurn where
  /-- Time passes and the core does nothing. -/
  | idle
  /-- A failed check of the core's own units is taken at this boundary: cause 51 (R245). -/
  | check
  /-- A freeze that waited for this boundary is made. -/
  | freeze
  | interrupt
  /-- The core executes this word, in this state. -/
  | word (w : IWord) (s : State)
  | fault
  | void
  /-- A follower whose leader's task has ended goes on by itself. -/
  | detach
  deriving DecidableEq, Repr

/-- Does a pass of the core's `sweep` run, so that the core stands within that instruction (R166)? -/
def State.sweeping (s : State) (n : Nat) : Bool :=
  decide ((s.coreAt n).wait = .sweep) && (match s.passAt (clusterOf n) with | some p => decide (p.core = n) | none => false)

/-- May an interrupt be taken now: it is due, and the core stands between instructions; a `wfi` that waits retires first (R267, R271). -/
def State.interruptNow (s : State) (n : Nat) : Bool :=
  let c := s.coreAt n
  s.interruptDue n && s.runs n && !c.midway && !s.sweeping n && !decide (c.wait = .interrupt)

/-- What core `n` does in its turn: a failed check, a freeze at the boundary, an interrupt, a forwarded instruction, or its own fetch. -/
def State.coreTurn (s : State) (n : Nat) : CoreTurn :=
  let c := s.coreAt n
  if !s.runs n then .idle
  else if c.check && !c.midway && !s.aggAway n && !s.sweeping n then .check
  else if c.frzReq && !c.midway && !s.aggAway n then (if !c.stepping || s.drained n then .freeze else .idle)
  else if s.interruptNow n then .interrupt
  else
    match c.lead with
    | some l =>
      (match c.fwd with
       | f :: _ => .word f.word (s.setFwd n f)
       | [] => if s.leaderGone l then .detach else .idle)
    | none =>
      match s.fetch n with
      | .word w => .word w (s.setIw n w)
      | .fault => .fault
      | .void => .void

/-! The words of a body, as a decode table maps them (R53, R160, R162). -/

/-- The fields of a body word that name lane registers (R160, R346). -/
def laneFields (w : IWord) : List (BitVec 5) :=
  let f := Fields.split w
  if f.op = 51#7 ∨ f.op = 59#7 then [f.rd, f.rs1, f.rs2]
  else if f.op = 19#7 ∨ f.op = 27#7 ∨ f.op = 3#7 then [f.rd, f.rs1]
  else if f.op = 55#7 ∨ f.op = 111#7 then [f.rd]
  else if f.op = 99#7 then [f.rs1, f.rs2]
  else if f.op = 123#7 ∧ f.f3 = 6#3 then
    match (f.a3 ++ f.b1 ++ f.c3).toNat with
    | 1 => [f.rs1, f.rs2]
    | 16 | 17 => [f.rd]
    | 18 | 19 | 22 | 23 => [f.rs1]
    | _ => []
  else []

/-- Does every register field of a body word name a lane register (R45, R160)? -/
def laneWordGood (w : IWord) : Bool := (laneFields w).all (fun r => decide (r.toNat < 16))

/-- Is the word an `nld` or a `cst` whose field code is out of range (R162, R346)? -/
def laneFieldBad (w : IWord) : Bool :=
  let f := Fields.split w
  decide (f.op = 123#7) && decide (f.f3 = 6#3) &&
    ((decide (f.a3 ++ f.b1 ++ f.c3 = 17#7) && decide (f.rs1 = 0#5) && decide (3 ≤ f.rs2.toNat)) ||
      (decide (f.a3 ++ f.b1 ++ f.c3 = 18#7) && decide (f.rs2 = 0#5) && decide (3 ≤ f.rd.toNat)))

/-- What the turn of a lane is. -/
inductive LaneTurn where
  | idle
  | word (w : IWord)
  /-- A word whose register field names no lane register: illegal (R45, R40). -/
  | illegal (w : IWord)
  /-- An `nld` or `cst` whose field is out of range (R162). -/
  | operand
  /-- The index is not below the body's word count (R160). -/
  | past
  deriving DecidableEq, Repr

/-- What lane `j` of cluster `c` does in its turn. -/
def State.laneTurn (s : State) (c j : Nat) : LaneTurn :=
  match s.passAt c, s.laneAt c j with
  | some p, some l =>
    (match l.st with
     | .running =>
       if l.idx < p.words then
         let w := s.mappedWord p l.idx
         if !laneWordGood w then .illegal (s.bodyWord p l.idx)
         else if laneFieldBad w then .operand
         else .word (s.bodyWord p l.idx)
       else .past
     | .neighbour | .ended _ | .idle => .idle)
  | _, _ => .idle

/-- Cause 51 of a failed check of a core's own units, at its instruction boundary (R245). -/
def State.takeCheck (s : State) (n : Nat) : State :=
  (s.updCore n (fun c => { c with check := false })).takeTrap n 51 (BitVec.ofNat 64 (2 ^ 63 + n))

/-- The decode table of a core. -/
def State.coreTable (s : State) (n : Nat) : Option (List (BitVec 16)) := s.table (s.coreAt n).ten (s.coreAt n).csr.dsel

/-- The decode table of a lane. -/
def State.laneTable (s : State) (c : Nat) : Option (List (BitVec 16)) :=
  match s.passAt c with
  | some p => s.table p.ten p.dsel
  | none => none

/-- Follow no longer (R26). -/
def State.detach (s : State) (n : Nat) : State := s.updCore n (fun c => { c with lead := none, fwd := [] })

/-- Where an agent's next word lies, as a key of memory; `none` when it has none. -/
def State.fetchKey (s : State) : Option Nat :=
  match s.run.cur with
  | .core n => some (kText (s.coreAt n).pc.toNat)
  | .lane c j =>
    match s.passAt c, s.laneAt c j with
    | some p, some l => some (kText (textBase p.caps + 4 * (p.body + l.idx)))
    | _, _ => none

/-- May a row of the table come up in the schedule by itself? Not an instruction word, and not the two events that a fetch raises. -/
def schedulable (i : Instr) : Bool :=
  match i with
  | .illegalInstruction _ | .firstUseRebuild _ => false
  | _ => (encodeFields i).isNone

end Sys2Proof.Machine
end

