-- ==== Sys2Proof/Machine/Sync.lean ====
section
/-! DEFINITION. Fences, waits and events, messages and barriers (R74, R75, R126, R175, R179, R180, R183, R203, R204, R224, R235 to R237, R331 to R340, R371). -/

namespace Sys2Proof.Machine

/-! Fences (R331, R332). -/

/-- `fence.r` (R331). -/
def execFenceR (scope : BitVec 3) (s : State) : Host.Outcome State Fault Refusal :=
  runCore s (fun n => do
    let s ← s.release n scope.toNat
    pure s.complete)

/-- `fence.a` (R331). -/
def execFenceA (scope : BitVec 3) (s : State) : Host.Outcome State Fault Refusal :=
  runCore s (fun n => .ok (s.acquire n scope.toNat).complete)

/-- `fence.s` (R331). -/
def execFenceS (scope : BitVec 3) (s : State) : Host.Outcome State Fault Refusal :=
  runCore s (fun n => do
    let s ← s.release n scope.toNat
    pure (s.acquire n scope.toNat).complete)

/-- `fence.own` (R180, R332): the core's loads are performed in program order, so nothing further is needed. -/
def execFenceOwn (s : State) : Host.Outcome State Fault Refusal := runCore s (fun _ => .ok s.complete)

/-- The physical core of logical core `l` of the field of core `n` (R219). -/
def State.logicalCore (s : State) (n l : Nat) : Option Nat :=
  match (s.coreAt n).task with
  | none => none
  | some t =>
    match s.fieldOf t with
    | none => none
    | some f => f.core l

/-- The cores a `fence.far` names: bit i of the set names logical core L0 + i; entries that are not valid pass at once. -/
def State.farCores (s : State) (n : Nat) (l0 : Nat) (set : Word) : List Nat :=
  (List.range 64).filterMap (fun i => if set.getLsbD i then s.logicalCore n (l0 + i) else none)

/-- Does the core move a tile: it waits within a `macc.ld` or `macc.st`, some rows of which may be done (R318)? -/
def State.inRows (s : State) (m : Nat) : Bool :=
  s.leaseHeld m && s.inArray m && !(match (s.coreAt m).wait with | .ring | .gred => true | _ => false)

/-- Does the core stand within an instruction that has begun: it has sent something out, it moves a tile, or its sweep runs? Every other wait is one
at which the core passes a boundary (R180, R332). -/
def State.within (s : State) (m : Nat) : Bool :=
  (s.coreAt m).sent || s.inRows m || (decide ((s.coreAt m).wait = .sweep) && (match s.passAt (clusterOf m) with | some p => decide (p.core = m) | none => false))

/-- A named core serialises once it stands at a boundary: it releases at package scope, and its clock takes the issuer's (R180). One that is
frozen passes at once. -/
def State.serialise (s : State) (t : Nat) : List Nat → Except Stop State
  | [] => .ok s
  | m :: rest => do
    if s.within m ∧ (s.coreAt m).frz.isNone then hold s .fence
    let s ← s.drain m
    let s := (s.raise m (s.coreAt m).swm).raise m t
    s.serialise t rest

/-- `fence.far` (R180, R332). -/
def execFenceFar (rs1 rs2 : BitVec 5) (s : State) : Host.Outcome State Fault Refusal :=
  runCore s (fun n => do
    let cores := s.farCores n (s.rx rs1).toNat (s.rx rs2)
    let s ← s.release n scopePkg
    let s ← s.serialise (s.coreAt n).csr.lclk cores
    let s := cores.foldl (fun s m => s.raise n (s.coreAt m).csr.lclk) s
    pure (s.acquire n scopePkg).complete)

/-! Waits on memory (R126, R333). -/

/-- Forget a core's registrations in the waiter tables and watch tables. -/
def State.unregister (s : State) (n : Nat) : State :=
  let s := { s with home := { s.home with waiters := s.home.waiters.filter (fun w => !decide (w.2 = n)) } }
  ((s.cores.filter (fun e => e.2.watches.any (fun w => decide (w.1 = n)))).map Prod.fst).foldl (fun s m =>
    s.updCore m (fun c => { c with watches := c.watches.filter (fun w => !decide (w.1 = n)) })) s

/-- Register core `n` for writes of a line, when its slice's table of 256 entries has room (R126). -/
def State.registerLine (s : State) (n line : Nat) : State :=
  if s.home.waiters.contains (line, n) then s
  else if (s.home.waiters.filter (fun w => decide (sliceOf w.1 = sliceOf line))).length < 256 then
    let s := { s with home := { s.home with waiters := s.home.waiters ++ [(line, n)] } }
    (match s.llcFind line with
     | some l => s.llcPut { l with wait := true }
     | none => s)
  else s

/-- Register core `n` at a scratchpad's watch table of 16 entries (R333). -/
def State.registerPad (s : State) (n core off : Nat) : State :=
  s.updCore core (fun c =>
    if c.watches.contains (n, off / 128) || !decide (c.watches.length < 16) then c else { c with watches := c.watches ++ [(n, off / 128)] })

/-- The holder's latest value of `size` bytes, the clock the reader takes, and the state in which it is registered (R333). -/
def State.readHolder (s : State) (n : Nat) (p : Place) (size : Nat) (ea : Word) : Except Stop (State × Nat × Nat) :=
  match p with
  | .cached key => do
    let s := s.registerLine n (lineOf key)
    let (s, v) ← s.homeRead key size
    pure (s, v, s.lineWts (lineOf key))
  | .scratch core off =>
    let s := s.registerPad n core off
    .ok (s, s.mem.read (kPad core off) size, (s.coreAt core).scm)
  | p => do
    let (s, b, _) ← s.loadAt n p size 0 ea
    pure (s, bytesToNat b, 0)

/-- The shared meaning of `waita` (R333): asleep it only sleeps; otherwise it reads at the holder and tests. -/
def waita (eq : Bool) (size : Nat) (rd rs1 rs2 : BitVec 5) (s : State) : Host.Outcome State Fault Refusal :=
  runCore s (fun n => do
    if (s.coreAt n).wait = .waita true then hold s (.waita true)
    else
      let a := s.rx rs1
      let v := amoOperand size (s.rx rs2)
      let (s, p) ← s.check n a size size .load
      match p with
      | .window _ _ | .ctrl _ => trapAcc s .load 5 a
      | p => do
        let s ← s.drain n
        let (s, x, t) ← s.readHolder n p size a
        if decide (x = v) = eq then
          let s := (s.unregister n).raise n t
          pure ((s.acquire n scopePkg).setRd rd (amoResult size x))
        else hold (s.updCore n (fun c => { c with reply := .none, remAsked := false })) (.waita true))

/-- `waita.eq.w` (R333). -/
def execWaitaEqW (rd rs1 rs2 : BitVec 5) (s : State) : Host.Outcome State Fault Refusal := waita true 4 rd rs1 rs2 s

/-- `waita.ne.w` (R333). -/
def execWaitaNeW (rd rs1 rs2 : BitVec 5) (s : State) : Host.Outcome State Fault Refusal := waita false 4 rd rs1 rs2 s

/-- `waita.eq.d` (R333). -/
def execWaitaEqD (rd rs1 rs2 : BitVec 5) (s : State) : Host.Outcome State Fault Refusal := waita true 8 rd rs1 rs2 s

/-- `waita.ne.d` (R333). -/
def execWaitaNeD (rd rs1 rs2 : BitVec 5) (s : State) : Host.Outcome State Fault Refusal := waita false 8 rd rs1 rs2 s

/-- `wfe` (R183, R334): it consumes every event of its cycle, whichever turn brings it. -/
def execWfe (s : State) : Host.Outcome State Fault Refusal :=
  runCore s (fun n =>
    if (s.coreAt n).ev then .ok ((s.note (.wfe n)).updCore n (fun c => { c with ev := false })).complete
    else hold s .event)

/-- `sev` (R335): a number with no valid entry is discarded. -/
def execSev (rs1 : BitVec 5) (s : State) : Host.Outcome State Fault Refusal :=
  runCore s (fun n =>
    let s := match s.logicalCore n (s.rx rs1).toNat with
      | some m => s.signalEv m
      | none => s
    .ok s.complete)

/-! Messages (R203, R204, R224, R336 to R338). -/

/-- Fields of a receive-buffer descriptor. -/
def rbV (d : Word) : Bool := d.getLsbD 63
def rbSz (d : Word) : Nat := (d.extractLsb' 56 2).toNat
def rbSlots (d : Word) : Nat := (d.extractLsb' 44 12).toNat + 1
def rbBase (d : Word) : Nat := (d.extractLsb' 0 18).toNat

/-- Does a descriptor keep the limits of R203 and R336? -/
def rbGood (d : Word) : Bool :=
  decide (d.extractLsb' 58 5 = 0#5) && decide (d.extractLsb' 18 26 = 0#26) && decide (rbSz d ≤ 2) && decide (rbBase d % 64 = 0) &&
    decide (rbBase d + rbSlots d * (64 <<< rbSz d) ≤ 0x40000)

/-- `rbcfg` (R336). -/
def execRbcfg (rs1 num : BitVec 5) (s : State) : Host.Outcome State Fault Refusal :=
  runCore s (fun n =>
    let d := s.rx rs1
    if rbGood d then .ok (s.updCore n (fun c => { c with rb := c.rb.setIfInBounds num.toNat d })).complete
    else illegal s)

/-- The offset in core `n`'s own scratchpad of `len` bytes at `ea`, when they lie wholly there, named by the own range or by the core's own
absolute range. -/
def State.ownPad (s : State) (n : Nat) (ea : Word) (len : Nat) : Option Nat :=
  let a := (ea.extractLsb' 0 42).toNat
  let inCluster := (decide (0x21100000000 ≤ a) && decide (a < 0x21150000000)) || (decide (0x22000400000 ≤ a) && decide (a < 0x22000800000))
  match s.region (some n) ea with
  | .pad core off => if core = n ∧ !inCluster ∧ off + len ≤ 0x40000 then some off else none
  | _ => none

/-- The fields of a send word. -/
def sendDst (w : Word) : Nat := (w.extractLsb' 0 13).toNat
def sendBuf (w : Word) : Nat := (w.extractLsb' 16 4).toNat
def sendSlot (w : Word) : Nat := (w.extractLsb' 20 12).toNat
def sendSize (w : Word) : Nat := (w.extractLsb' 32 2).toNat

/-- Is the send word one R337 allows? -/
def sendGood (w : Word) : Bool := decide (sendSize w < 3) && decide (w.extractLsb' 13 3 = 0#3) && decide (w.extractLsb' 34 30 = 0#30)

/-- Does a rule of a plan allow a send (R224)? `N` is the number of logical cores of the field. -/
def ruleAllows (r : BitVec 128) (N L D buf slot : Nat) : Bool :=
  let dv := (r.extractLsb' 64 13).toNat
  let dst : Option Nat :=
    match (r.extractLsb' 125 2).toNat with
    | 0 => some dv
    | 1 => some ((L + dv) % N)
    | 2 => some (L ^^^ dv)
    | _ => none
  r.getLsbD 127 && decide ((r.extractLsb' 112 13).toNat ≤ L) && decide (L ≤ (r.extractLsb' 96 13).toNat) && decide (dst = some D) &&
    decide ((r.extractLsb' 48 4).toNat = buf) && decide ((r.extractLsb' 32 12).toNat ≤ slot) && decide (slot ≤ (r.extractLsb' 0 12).toNat)

/-- Does a send lie in the plan in force (R27, R224)? -/
def State.inPlan (s : State) (n D buf slot : Nat) : Bool :=
  match (s.coreAt n).task with
  | none => false
  | some t =>
    match s.fieldOf t, (s.cap t.caps).plans with
    | some f, some p => ((p.drop (32 * f.plan)).take 32).any (fun r => ruleAllows r (16 * f.teams.length) t.logical D buf slot)
    | _, _ => false

/-- Messages of a core in flight, of the tenant that it runs for (R204). -/
def State.inFlight (s : State) (n : Nat) : Nat :=
  (s.net.msgs.filter (fun m => decide (m.src = n) && decide (m.ten = (s.coreAt n).ten))).length

/-- Does the destination's router reject a message: its slot lies beyond the buffer, or it is larger than a slot (R203)? -/
def rbRejects (d : Word) (slot size : Nat) : Bool := rbV d && (decide (rbSlots d ≤ slot) || decide (64 <<< rbSz d < size))

/-- `msg.send` (R337). -/
def execMsgSend (rs1 rs2 : BitVec 5) (s : State) : Host.Outcome State Fault Refusal :=
  runCore s (fun n =>
    let a := s.rx rs1
    let w := s.rx rs2
    let d := sendDst w
    let size := 64 <<< sendSize w
    if !sendGood w then illegal s
    else
      match (if a.toNat % 64 = 0 then s.ownPad n a size else none) with
      | none => trap s 5 a
      | some off =>
        if s.inWs n off size || s.anyPoison (kPad n off) size then trap s 5 a
        else if !s.inPlan n d (sendBuf w) (sendSlot w) then trap s 7 (BitVec.ofNat 64 d)
        else
          match s.logicalCore n d with
          | none => trap s 7 (BitVec.ofNat 64 d)
          | some m =>
            if 4 ≤ s.inFlight n then hold s .message4
            else if rbRejects ((s.coreAt m).rb.getD (sendBuf w) 0#64) (sendSlot w) size then trap s 7 (BitVec.ofNat 64 d)
            else
              let msg : Msg := ⟨n, m, sendBuf w, sendSlot w, (s.coreAt n).ten, (s.coreAt n).inc, natToBytes size (s.ownBytes n off size), s.run.cmds, []⟩
              .ok ({ s with
                net := { s.net with msgs := s.net.msgs ++ [msg] }
                run := { s.run with cmds := s.run.cmds + 1 } }).complete)

/-- `msg.wait` (R338). -/
def execMsgWait (rd rs1 num : BitVec 5) (s : State) : Host.Outcome State Fault Refusal :=
  runCore s (fun n =>
    let c := (s.rx rs1).extractLsb' 0 32
    let mc := (s.coreAt n).mc.getD num.toNat 0#32
    if c = 0#32 then .ok (s.setRd rd (mc.setWidth 64))
    else if mc.toNat < c.toNat then hold s .message
    else .ok ((s.updCore n (fun k => { k with mc := k.mc.setIfInBounds num.toNat (mc - c) })).setRd rd (mc.setWidth 64)))

/-! Barriers (R75, R235 to R237, R339). -/

/-- Fields of a barrier word. -/
def barMode (w : Word) : Bool := w.getLsbD 56
def barTgt (w : Word) : Nat := (w.extractLsb' 32 24).toNat
def barCnt (w : Word) : Nat := (w.extractLsb' 0 32).toNat

/-- A barrier word from its fields. -/
def barMake (ph mode : Bool) (tgt cnt : Nat) : Word := 0#6 ++ BitVec.ofBool ph ++ BitVec.ofBool mode ++ BitVec.ofNat 24 tgt ++ BitVec.ofNat 32 cnt

/-- A barrier word of a core. -/
def Core.barWord (c : Core) (b : Nat) : Word := c.bar.getD b 0#64

/-- Ranks of a team that are idle, of the field that holds core `m` (R14). -/
def State.idleRanks (s : State) (m team : Nat) : Nat :=
  match (s.coreAt m).task with
  | none => 0
  | some t =>
    match s.fieldOf t, s.launch t.jseq with
    | some f, some l => ((List.range 16).filter (fun r => f.idleRank (l.stage t.stage) team r)).length
    | _, _ => 0

/-- The updates of a cycle that a word's mode takes, each with its amount, and the teams whose idle ranks are counted after them: the first arrival of
a team in a phase carries its idle ranks (R235, R236). -/
def countUps (mode : Bool) (idle : Nat → Nat) (seen : List Nat) : List BarUpd → List Nat × List Nat
  | [] => ([], seen)
  | u :: t =>
    if u.team.isNone != mode then countUps mode idle seen t
    else
      match u.team with
      | some k =>
        let (l, z) := countUps mode idle (if seen.contains k then seen else k :: seen) t
        ((u.amount + if seen.contains k then 0 else idle k) :: l, z)
      | none =>
        let (l, z) := countUps mode idle seen t
        (u.amount :: l, z)

/-- What a cycle makes of a barrier word. -/
structure BarEnd where
  word : Word
  mark : Nat
  seen : List Nat
  /-- What counts in BARX: updates that the mode does not take, an excess over TGT, and configurations that found CNT non-zero. -/
  bad : Nat
  ends : Bool
  deriving DecidableEq, Repr

/-- A barrier word after the updates of one cycle: those that the mode takes add up and complete the barrier at most once; each other counts in
BARX, and so does an excess (R75, R236, R237). -/
def BarCycle.result (e : BarCycle) (idle : Nat → Nat) : BarEnd :=
  let w := e.base
  let (amounts, seen) := countUps (barMode w) idle e.seen e.ups
  let bad := e.lost + (e.ups.length - amounts.length)
  let mark := (e.ups.filter (fun u => u.team.isNone == barMode w)).foldl (fun m u => max m u.mark) e.mark
  let full := barCnt w + amounts.sum
  if amounts.isEmpty then ⟨w, e.mark, e.seen, bad, false⟩
  else if barTgt w ≤ full then ⟨barMake (!w.getLsbD 57) (barMode w) (barTgt w) 0, mark, [], bad + (if barTgt w < full then 1 else 0), true⟩
  else ⟨barMake (w.getLsbD 57) (barMode w) (barTgt w) full, mark, seen, bad, false⟩

/-- Completions by arrivals that it makes: 1 or 0. -/
def BarEnd.arrived (r : BarEnd) : Nat := if r.ends && !barMode r.word then 1 else 0

/-- What has reached a barrier word in this cycle, with the word as it stood before. -/
def State.barCycle (s : State) (core bar : Nat) : BarCycle :=
  match s.run.bars.find? (fun e => decide (e.core = core) && decide (e.bar = bar) && decide (e.cycle = s.time.gtc)) with
  | some e => e
  | none =>
    let c := s.coreAt core
    ⟨core, bar, s.time.gtc, c.barWord bar, c.bm.getD bar 0, (c.bseen.filter (fun p => decide (p.1 = bar))).map Prod.snd, 0, []⟩

/-- BARX where updates of the cycle that counted `old` now count `new`. -/
def State.recountBars (s : State) (old new : Nat) : State :=
  if old = new then s
  else if old < new then s.count cBARX (new - old)
  else { s with tabs := { s.tabs with errs := Tbl.set 0 s.tabs.errs cBARX (Tbl.get 0 s.tabs.errs cBARX - (old - new)) } }

/-- The cycle of a barrier word is now `e`: the word, its mark, the teams counted, BARX and EV follow (R237, R334, R371); notes of earlier cycles
leave. -/
def State.setBar (s : State) (e : BarCycle) : State :=
  let old := (s.barCycle e.core e.bar).result (s.idleRanks e.core)
  let new := e.result (s.idleRanks e.core)
  let rest := s.run.bars.filter (fun o => decide (o.cycle = s.time.gtc) && !(decide (o.core = e.core) && decide (o.bar = e.bar)))
  let s := { (s.recountBars old.bad new.bad) with run := { s.run with bars := e :: rest } }
  let s := if { new with bad := old.bad } = old then s
    else s.updCore e.core (fun c => { c with
      bar := c.bar.setIfInBounds e.bar new.word
      bm := c.bm.setIfInBounds e.bar new.mark
      bseen := c.bseen.filter (fun p => !decide (p.1 = e.bar)) ++ new.seen.map (fun t => (e.bar, t))
      bdone := if new.arrived = old.arrived then c.bdone else Tbl.set 0 c.bdone e.bar (c.barDone e.bar + new.arrived - old.arrived) })
  if new.ends && !old.ends then s.signalEv e.core else if old.ends && !new.ends then s.unsignalEv e.core else s

/-- `bcfg` (R339, R237): MODE and TGT, CNT to 0, PH unchanged; a CNT that was not 0 counts in BARX. The updates of the same cycle are applied after
it, under the new mode, and no team's idle ranks are counted before them: the new count starts a phase (DEDUCED, log 59). -/
def execBcfg (rs1 : BitVec 5) (bar : BitVec 7) (s : State) : Host.Outcome State Fault Refusal :=
  runCore s (fun n =>
    let v := s.rx rs1
    if v.extractLsb' 0 24 = 0#24 ∨ v.extractLsb' 25 39 ≠ 0#39 then illegal s
    else
      let e := s.barCycle n bar.toNat
      .ok (s.setBar { e with
        base := barMake (e.base.getLsbD 57) (v.getLsbD 24) (v.extractLsb' 0 24).toNat 0
        seen := []
        lost := e.lost + if barCnt e.base = 0 then 0 else 1 }).complete)

/-- The cores whose words a `barr` reaches, and the arriving team: the core's cluster, or every cluster of its field. -/
def State.arrivalCores (s : State) (n : Nat) (field : Bool) : List Nat × Nat :=
  let own := (List.range 16).map (16 * clusterOf n + ·)
  match (s.coreAt n).task with
  | none => (own, 0)
  | some t =>
    match s.fieldOf t with
    | some f => (if field then f.cores else own, t.team)
    | none => (own, t.team)

/-- The shared meaning of `barr`: a release, then one arrival, with the clock, on its way to each word (R339, R371). -/
def barr (field : Bool) (rd : BitVec 5) (bar : BitVec 7) (s : State) : Host.Outcome State Fault Refusal :=
  runCore s (fun n => do
    let s ← s.signal n (if field then scopePkg else scopeTeam)
    let (cores, team) := s.arrivalCores n field
    let ups := cores.map (fun m => (⟨m, bar.toNat, some team, 1, (s.coreAt n).csr.lclk, n, (s.coreAt n).inc⟩ : BarUpd))
    -- PH from before the cycle's updates (R340)
    let ph := (s.barCycle n bar.toNat).base.getLsbD 57
    pure (({ s with net := { s.net with arrivals := s.net.arrivals ++ ups } }).setRd rd (if ph then 1#64 else 0#64)))

/-- `barr.team` (R339). -/
def execBarrTeam (rd : BitVec 5) (bar : BitVec 7) (s : State) : Host.Outcome State Fault Refusal := barr false rd bar s

/-- `barr.field` (R339). -/
def execBarrField (rd : BitVec 5) (bar : BitVec 7) (s : State) : Host.Outcome State Fault Refusal := barr true rd bar s

/-- `bwait` (R339): until PH differs from bit 0 of rs1; then the clock takes the word's mark, and an acquire. -/
def execBwait (rs1 : BitVec 5) (bar : BitVec 7) (s : State) : Host.Outcome State Fault Refusal :=
  runCore s (fun n =>
    if (s.coreAt n).ph bar.toNat = (s.rx rs1).getLsbD 0 then hold s .barrier
    else .ok ((s.raise n ((s.coreAt n).bm.getD bar.toNat 0)).acquire n scopePkg).complete)

/-- `bstat` (R339). -/
def execBstat (rd : BitVec 5) (bar : BitVec 7) (s : State) : Host.Outcome State Fault Refusal :=
  runCore s (fun n => .ok (s.setRd rd ((s.coreAt n).barWord bar.toNat)))

/-! What reaches a barrier word (R235 to R237). -/

/-- An update on its way reaches its word (R235 to R237), with the others of its cycle. An engine's report with a stale incarnation is discarded
(R182). -/
def State.barrierUpdate (s : State) (u : BarUpd) : State :=
  if u.team.isNone && !decide (u.inc = s.agentInc u.agent) then s.stale u.agent u.inc (s.coreAt u.dst).ten
  else
    let e := s.barCycle u.dst u.bar
    s.setBar { e with ups := e.ups ++ [u] }

/-- `barrier arrival` reaches core `m`: the oldest one on its way to it is applied (R235, R339). -/
def execBarrierArrival (core : Nat) (s : State) : Host.Outcome State Fault Refusal :=
  .next (match takeFirst (fun u : BarUpd => decide (u.dst = core)) s.net.arrivals with
    | none => s
    | some (u, rest) => ({ s with net := { s.net with arrivals := rest } }).barrierUpdate u)

/-- An engine's byte report reaches its barrier word (R236, R237). -/
def execEngineByteReport (core : Nat) (s : State) : Host.Outcome State Fault Refusal :=
  .next (match takeFirst (fun u : BarUpd => decide (u.dst = core)) s.net.reports with
    | none => s
    | some (u, rest) => ({ s with net := { s.net with reports := rest } }).barrierUpdate u)

/-- A message lands (R74, R203, R337): its bytes, the words that a router found uncorrectable being poisoned (R246), then mcn + 1, and EV. No rule
says what lands in a receive buffer that overlaps the argument block or the active workspace: the block, read-only for the life of the task
(R370), keeps its bytes, and the bytes beneath the workspace are written, which its registers replace when they are written back (DESIGN CHOICE,
log 100). -/
def State.deliver (s : State) (m : Msg) : State :=
  let d := (s.coreAt m.dst).rb.getD m.buf 0#64
  let o := rbBase d + m.slot * (64 <<< rbSz d)
  let s := s.padWrite m.dst o (m.bytes.zipIdx.map (fun p => if s.inArgs m.dst (o + p.2) 1 then none else some p.1))
  let s := m.bad.foldl (fun s i => if s.inArgs m.dst (o + 8 * i) 8 then s else s.poison ((kPad m.dst o + 8 * i) / 8)) s
  (s.updCore m.dst (fun c => { c with mc := c.mc.setIfInBounds m.buf (c.mc.getD m.buf 0#32 + 1#32) })).signalEv m.dst

/-- Can the message land now: its buffer is valid and takes it, and the core is not frozen? A message that cannot is held (R203, R221). -/
def State.lands (s : State) (m : Msg) : Bool :=
  let d := (s.coreAt m.dst).rb.getD m.buf 0#64
  rbV d && !rbRejects d m.slot m.bytes.length && (s.coreAt m.dst).frz.isNone

/-- The oldest message from one core to another lands; one with a stale incarnation is discarded (R182). -/
def execMessageLanding (src dst : Nat) (s : State) : Host.Outcome State Fault Refusal :=
  .next (match takeFirst (fun m : Msg => decide (m.src = src) && decide (m.dst = dst)) s.net.msgs with
    | none => s
    | some (m, rest) =>
      if m.srcInc ≠ (s.coreAt src).inc then ({ s with net := { s.net with msgs := rest } }).stale src m.srcInc m.ten
      else if s.lands m then ({ s with net := { s.net with msgs := rest } }).deliver m
      else s)

end Sys2Proof.Machine
end

