-- ==== Sys2Proof/Machine/Coherence.lean ====
section
/-! DEFINITION. Events of the coherence machinery: home requests, ownership, recalls, write-backs, writes and reads at a home, waiters, the host directory and page walks (R122 to R126, R133 to R140, R149, R182, R246, R333). -/

namespace Sys2Proof.Machine

/-! Agents and homes. -/

/-- Does a physical core of this number exist (R5)? -/
def isCore (n : Nat) : Bool := decide (n < Config.cores)

/-- Do `n` bytes at a key have a home slice: LPDDR (1 TiB, R153), or a tenant's package scratchpad (R92)? -/
def State.atHome (s : State) (key n : Nat) : Bool :=
  decide (key + n ≤ 2 ^ 40) || (decide (space 16 ≤ key) && decide (key < space 32) && decide (key % 2 ^ 56 + n ≤ s.pkgBytes (key / 2 ^ 56 - 16)))

/-- Does a line have a home? -/
def State.lineAtHome (s : State) (line : Nat) : Bool := s.atHome (line * 128) 128

/-! Home requests and ownership (R122, R123). -/

/-- Does the core hold a copy of the line that a load may use as it stands (R122)? -/
def Core.validCopy (c : Core) (line : Nat) : Bool :=
  match l1Find c.l1 line with
  | some a => a.owned || decide (c.csr.lclk ≤ a.fin)
  | none => false

/-- `home request`: a fill or renew of a line for a core that holds no valid copy is answered with a lease (R122, R125). -/
def execHomeRequest (core line : Nat) (s : State) : Host.Outcome State Fault Refusal :=
  .next (if isCore core && s.lineAtHome line && !(s.coreAt core).validCopy line then absorb (s.homeRequest core line) else s)

/-- The line and the halves that the oldest store of a core's store buffer writes. -/
def Core.nextStore (c : Core) : Option (Nat × BitVec 2) :=
  match c.sb with
  | st :: _ =>
    (match st.place with
     | .cached key => some (lineOf key, halvesOf (key % 128) st.bytes.length)
     | .row l => l.findSome? (fun q => match q.1 with | .cached key => some (lineOf key, halvesOf (key % 128) q.2) | _ => none)
     | .scratch _ _ | .cxl _ | .remote _ | .ctrl _ | .window _ _ | .nibbles _ _ | .words _ _ | .scaled _ _ _ _ => none)
  | [] => none

/-- `ownership request`: the core obtains the line that its oldest waiting store writes (R123, R139). -/
def execOwnershipRequest (core line : Nat) (s : State) : Host.Outcome State Fault Refusal :=
  .next (match (s.coreAt core).nextStore with
    | some (l, needs) => if l = line then absorb (s.own core line needs) else s
    | none => s)

/-- `store perform`: the oldest store of a core's store buffer is performed (R125). -/
def execStorePerform (core : Nat) (s : State) : Host.Outcome State Fault Refusal := .next (absorb (s.performOldest core))

/-! Recalls of owners (R123, R182). -/

/-- `owner recall`: the home of an owned line sends its owner a write-back request (R123). -/
def execOwnerRecall (line : Nat) (s : State) : Host.Outcome State Fault Refusal :=
  .next (match s.llcFind line with
    | some l =>
      if l.ov && !s.home.recalls.any (fun r => decide (r.1 = line)) then
        { s with home := { s.home with recalls := s.home.recalls ++ [(line, l.owner, (s.coreAt l.owner).inc)] } }
      else s
    | none => s)

/-- The write-back request of a line to a core is answered. -/
def State.dropRecall (s : State) (line core : Nat) : State :=
  { s with home := { s.home with recalls := s.home.recalls.filter (fun r => !(decide (r.1 = line) && decide (r.2.1 = core))) } }

/-- `owner recall answer`: the owner's data, WTS and END arrive, OV clears and the owner keeps a shared copy (R123); with a
stale incarnation number it is discarded and journaled (R182). -/
def execOwnerRecallAnswer (line core inc : Nat) (s : State) : Host.Outcome State Fault Refusal :=
  .next (if !isCore core then s
    else if BitVec.ofNat 16 inc ≠ (s.coreAt core).inc then s.stale core (BitVec.ofNat 16 inc) (s.coreAt core).ten
    else if s.home.recalls.any (fun r => decide (r.1 = line) && decide (r.2.1 = core)) then
      let s := s.dropRecall line core
      match s.llcFind line with
      | some l => if l.ov && decide (l.owner = core) then s.recallOwner line else s
      | none => s
    else s)

/-! Write-back in three phases (R133). -/

/-- `eviction write-back request`: a dirty owned line moves to the victim buffer of 8 entries and asks its home (R133). -/
def execEvictionWriteBackRequest (core line : Nat) (s : State) : Host.Outcome State Fault Refusal :=
  .next (match l1Find (s.coreAt core).l1 line with
    | some a =>
      if a.owned && !decide (a.hdirty = 0#2) && decide ((s.coreAt core).vb.length < 8) then
        s.updCore core (fun c => { c with l1 := l1Drop c.l1 line, vb := c.vb ++ [{ a with granted := false }] })
      else s
    | none => s)

/-- `write-back grant`: the home can accept the data (R133). -/
def execWriteBackGrant (core line : Nat) (s : State) : Host.Outcome State Fault Refusal :=
  .next (s.updCore core (fun c => { c with vb := c.vb.map (fun a => if a.line = line then { a with granted := true } else a) }))

/-- `write-back data`: the dirty halves of a granted victim arrive with WTS and END, and OV clears (R133, R139); with a stale
incarnation number they are discarded and journaled (R182). -/
def execWriteBackData (core line inc : Nat) (s : State) : Host.Outcome State Fault Refusal :=
  .next (if !isCore core then s
    else if BitVec.ofNat 16 inc ≠ (s.coreAt core).inc then s.stale core (BitVec.ofNat 16 inc) (s.coreAt core).ten
    else
      match l1Find (s.coreAt core).vb line with
      | some a => if a.granted then (s.homeTake a).updCore core (fun c => { c with vb := l1Drop c.vb line }) else s
      | none => s)

/-- `clean owned notice`: a clean owned line is dropped from L1 and its home clears OV (R133). -/
def execCleanOwnedNotice (core line : Nat) (s : State) : Host.Outcome State Fault Refusal :=
  .next (match l1Find (s.coreAt core).l1 line with
    | some a =>
      if a.owned && decide (a.hdirty = 0#2) then
        let s := s.updCore core (fun c => { c with l1 := l1Drop c.l1 line })
        (match s.llcFind line with | some l => s.llcPut { l with ov := false } | none => s)
      else s
    | none => s)

/-! Writes and reads at a home by other agents (R124, R146, R246, R371). -/

/-- Send the old value, data or an abort to a host, or an answer to another module. -/
def State.sendHost (s : State) (o : Out) : State := { s with net := { s.net with outs := s.net.outs ++ [o] } }

/-- A host's write at a scratchpad: aborted and counted when a sealed buffer holds a byte of it (R146); aborted in an active workspace or an
argument block (R70, R370). -/
def State.hostPadWrite (s : State) (core off : Nat) (data : List Byte) : State :=
  if s.inSeal core off data.length then (s.count cSEALHW 1).sendHost .hostAbort
  else if s.inWs core off data.length || s.inArgs core off data.length then s.sendHost .hostAbort
  else s.padWrite core off (data.map some)

/-- A write within one line that has its home. -/
def State.writesHome (s : State) (key : Nat) (data : List Byte) : Bool :=
  decide (0 < data.length) && decide (key % 128 + data.length ≤ 128) && s.atHome key data.length

/-- Where an effective address of a host agent reaches (R86, R88, R89). -/
inductive HostPlace where
  | home (key : Nat)
  | pad (core off : Nat)
  /-- Host or pool memory. -/
  | outside (key : Nat)
  | ctrl (off : Nat)
  /-- Another module (R87). -/
  | away
  /-- Not decodable, an own-core range, or closed: the access is aborted. -/
  | abort
  deriving DecidableEq, Repr

/-- Decode `n` bytes at an effective address of a host agent; own-core ranges do not exist for it (R89). The paged region is translated under
the tenant and address space that the event names: the spec gives a host agent none (DESIGN CHOICE, log 83). -/
def State.hostPlace (s : State) (ten asid ea n : Nat) (k : Access) : Except Stop (State × HostPlace) :=
  match s.region none (BitVec.ofNat 64 ea) with
  | .paged va => do
    let (s, e) ← s.walk ten asid va k
    match e with
    | none => pure (s, .abort)
    | some e => pure (s, if e.bk = 0 then .home (e.key va) else .outside (e.key va))
  | .pkg off => .ok (s, if off + n ≤ s.pkgBytes ten then .home (kPkg ten off) else .abort)
  | .pad core off => .ok (s, .pad core off)
  | .ctrl off => .ok (s, .ctrl off)
  | .remote => .ok (s, if ea % 2 ^ 42 < 0x20400000000 then .away else .abort)
  | .window _ _ | .text | .absent | .nowhere => .ok (s, .abort)

/-- A host agent's write at an effective address (R86, R124, R146, R184). -/
def State.hostWrite (s : State) (a ten asid ea : Nat) (data : List Byte) : Except Stop State := do
  let (s, p) ← s.hostPlace ten asid ea data.length .store
  match p with
  | .home key => do
    let (s, _) ← s.homeWrite key (data.map some) 0 a
    pure s
  | .pad core off => pure (s.hostPadWrite core off data)
  | .outside key => pure (s.setMem (s.mem.writeBytes key data))
  | .ctrl off =>
    if !s.ctrlServer off data.length true then pure (s.sendHost .hostAbort)
    else
      match s.ctrlWaits off (data.map some) with
      | some s => hold s .home
      | none => pure (s.ctrlWrite off (data.map some))
  | .away => pure (s.sendHost (.storeAsk (12000 + a) (BitVec.ofNat 64 ea) (data.map some)))
  | .abort => pure (s.sendHost .hostAbort)

/-- A host agent's read at an effective address: the latest data, with the poison indication (R86, R124, R246). -/
def State.hostRead (s : State) (a ten asid ea n : Nat) : Except Stop State := do
  let (s, p) ← s.hostPlace ten asid ea n .load
  match p with
  | .home key => do
    let (s, v) ← s.homeRead key n
    pure (s.sendHost (.answer (natToBytes n v) (!s.anyPoison key n)))
  | .pad core off =>
    pure (s.sendHost (if s.inWs core off n then .hostAbort else .answer (s.mem.readBytes (kPad core off) n) (!s.anyPoison (kPad core off) n)))
  | .outside key => pure (s.sendHost (.answer (s.mem.readBytes key n) true))
  | .ctrl off =>
    if s.ctrlServer off n false then
      let (s, v) := s.ctrlRead off n
      pure (s.sendHost (.answer (natToBytes n v) true))
    else pure (s.sendHost .hostAbort)
  | .away => pure (s.sendHost (.loadAsk (12000 + a) (BitVec.ofNat 64 ea) n))
  | .abort => pure (s.sendHost .hostAbort)

/-- Do `n` bytes at an address lie within one line? -/
def inLine (key n : Nat) : Bool := decide (0 < n) && decide (key % 128 + n ≤ 128)

/-- Is the number one of a copy engine: a cluster's, or 1000 and that of a package engine (R1, R198)? -/
def isCopyEngine (e : Nat) : Bool := decide (e < Config.clusters) || (decide (1000 ≤ e) && decide (e < 1016))

/-- `home write`: an engine, a host agent or a zeroing operation writes at a home with new timestamps (R124); the engine's mark
follows (R371) and a zeroing operation writes zeros. A host names its bytes by an effective address (R86), its write into a sealed buffer is aborted
(R146), and one with a stale incarnation number is discarded and journaled (R182). -/
def execHomeWrite (agent : HomeAgent) (key : Nat) (data : List Byte) (s : State) : Host.Outcome State Fault Refusal :=
  .next (match agent with
    | .host a inc ten asid =>
      if !(inLine key data.length && decide (a < 4)) then s
      else if inc ≠ s.agentInc (12000 + a) then s.stale (12000 + a) inc 0
      else absorb (s.hostWrite a ten asid key data)
    | .engine e =>
      if isCopyEngine e && s.writesHome key data then absorb (do let (s, t) ← s.homeWrite key (data.map some) 0 4; pure (s.raiseEwm e t)) else s
    | .zeroing =>
      if s.writesHome key data then
        absorb (do let (s, _) ← s.homeWrite key (data.map (fun _ => some 0#8)) 0 4; pure s)
      else s)

/-- `engine home read`: the home's latest data, any owner recalled, and no timestamp changes (R124); a host receives them with
the poison indication where a word is poisoned (R246). -/
def execEngineHomeRead (agent : HomeAgent) (key n : Nat) (s : State) : Host.Outcome State Fault Refusal :=
  .next (match agent with
    | .host a _ ten asid => if inLine key n && decide (a < 4) then absorb (s.hostRead a ten asid key n) else s
    | .engine _ | .zeroing => if inLine key n && s.atHome key n then absorb ((s.homeRead key n).map Prod.fst) else s)

/-! Waiters (R126, R333). -/

/-- `waiter wake`: a write of a watched line wakes every registered waiter; the entries leave and WAIT clears (R126). -/
def execWaiterWake (line : Nat) (s : State) : Host.Outcome State Fault Refusal :=
  .next (if s.home.wakes.contains line then
      let ws := (s.home.waiters.filter (fun w => decide (w.1 = line))).map Prod.snd
      let s := ws.foldl State.wakeWaita s
      let s := { s with home := { s.home with
        waiters := s.home.waiters.filter (fun w => !decide (w.1 = line)), wakes := removeAll s.home.wakes line } }
      (match s.llcFind line with | some l => s.llcPut { l with wait := false } | none => s)
    else s)

/-- Is the core registered at some home or scratchpad? -/
def State.registered (s : State) (n : Nat) : Bool :=
  s.home.waiters.any (fun w => decide (w.2 = n)) || s.cores.any (fun e => e.2.watches.any (fun w => decide (w.1 = n)))

/-- `waita` re-read: a sleeping core that no table holds reads its location again (R333). It is no wake. -/
def execWaitaReread (core : Nat) (s : State) : Host.Outcome State Fault Refusal :=
  .next (if decide ((s.coreAt core).wait = .waita true) && !s.registered core then s.updCore core (fun c => { c with wait := .waita false }) else s)

/-! Host agents (R136 to R140). -/

/-- The code of a hold in AG (R137). -/
def holdCode (h : HostHold) : Nat :=
  match h with
  | .i => 0 | .s => 1 | .e => 2 | .m => 3

/-- Set the hold of an agent in the entry that covers a line: one half of a 128-byte entry, both halves of a larger one (R137). -/
def State.setHold (s : State) (agent line half v : Nat) : State :=
  match s.dirFind line with
  | some e => s.dirPut { e with ag := if e.sz = 9 then agSet e.ag agent half v else agSet (agSet e.ag agent 0 v) agent 1 v }
  | none => s

/-- Does an entry of a slice overlap lines `[base, base + n)`? -/
def State.dirOverlaps (s : State) (slice base n : Nat) : Bool :=
  s.home.dir.any (fun e => decide (e.slice = slice) && decide (e.base < base + n) && decide (base < e.base + dirLines e.sz))

/-- The size code of a fresh entry for a line: 64 KiB, or the largest region that meets no entry of the slice (R138). -/
def State.freshSize (s : State) (line : Nat) : Nat :=
  ((List.range 10).find? (fun z => !s.dirOverlaps (sliceOf line) (line / dirLines z * dirLines z) (dirLines z))).getD 9

/-- A request that conflicts with nothing is granted: the line is touched, an owner gives the half up, the entry takes the hold, and the agent
receives the half (R116, R118, R138). It stays unanswered while the slice has no entry free and evicts one (R140). -/
def State.hostGrant (s : State) (agent line half : Nat) (want : HostHold) : State :=
  match s.resident line with
  | .error (.hold s _) | .error (.trap s _ _ _) => s
  | .ok (s, _) =>
    let s := s.recallHalf line half
    let code := holdCode want
    let data := (s.memLine line).extractLsb' (512 * half) 512
    let send (s : State) : State := s.sendHost (.hostData agent line half want data (s.anyPoison (line * 128 + 64 * half) 64))
    match s.dirFind line with
    | some _ => send ((s.setHold agent line half (max code (s.hostHold agent line half))).dirTouch line)
    | none =>
      if !s.dirFree (sliceOf line) then s.dirEvict (sliceOf line) line
      else
        let z := s.freshSize line
        let ag := if z = 9 then agSet 0#16 agent half code else agSet (agSet 0#16 agent 0 code) agent 1 code
        send (s.dirPut ⟨sliceOf line, z, line / dirLines z * dirLines z, ag, s.time.gtc⟩)

/-- An agent asks for a half of a line in S, E or M, or gives it up (I). A conflict splits the entry and recalls the half from its holders, and the
request stays unanswered (R138, R139). -/
def State.hostAsk (s : State) (agent line half : Nat) (want : HostHold) : State :=
  match want with
  | .i =>
    (match s.dirFind line with
     | some e => if e.sz = 9 then s.setHold agent line half 0 else s.dirTouch line
     | none => s)
  | .s | .e | .m =>
    let need := if want = .s then 1 else 2
    let lo := if half = 0 then need else 0
    let hi := if half = 0 then 0 else need
    let s := s.dirTouch line
    match s.conflicts line lo hi agent with
    | [] => s.hostGrant agent line half want
    | l => s.sendRecalls line lo hi l

/-- The access kind of a hold: a store for E and M. -/
def holdAccess (h : HostHold) : Access :=
  match h with
  | .i | .s => .load
  | .e | .m => .store

/-- Where a half that a host agent names by an address of its line lies (R86). -/
def State.hostHalf (s : State) (a : HostAddr) (half : Nat) (k : Access) : Except Stop (State × HostPlace) :=
  s.hostPlace a.ten a.asid (a.ea.toNat / 128 * 128 + 64 * half) 64 k

/-- `host request`: an agent asks for a 64-byte half of the line at an effective address, which R86 decodes. Only LPDDR and the package scratchpad
are memory that hosts hold (R141): a request elsewhere is aborted. -/
def execHostRequest (agent : Nat) (line : HostAddr) (half : Nat) (want : HostHold) (s : State) : Host.Outcome State Fault Refusal :=
  .next (if agent < 4 ∧ half < 2 then
      absorb (do
        let (s, p) ← s.hostHalf line half (holdAccess want)
        match p with
        | .home key => pure (s.hostAsk agent (lineOf key) half want)
        | .pad _ _ | .outside _ | .ctrl _ | .away | .abort => pure (s.sendHost .hostAbort))
    else s)

/-- The hold of an agent after it has answered a recall. -/
def State.downgrade (s : State) (r : HostRecall) : State :=
  s.setHold r.agent r.line r.half (if r.toShared then min 1 (s.hostHold r.agent r.line r.half) else 0)

/-- `host recall answer`: dirty data of a half held in E or M is written at its home (R124), and the hold becomes S or I (R139); an answer
with a stale incarnation number is discarded and journaled (R182). -/
def execHostRecallAnswer (agent line half : Nat) (answer : HostAnswer) (s : State) : Host.Outcome State Fault Refusal :=
  .next (if 4 ≤ agent then s
    else if answer.inc ≠ s.agentInc (12000 + agent) then s.stale (12000 + agent) answer.inc 0
    else match s.home.hostRecalls.find? (fun r => decide (r.agent = agent) && decide (r.line = line) && decide (r.half = half)) with
    | none => s
    | some r =>
      let done (s : State) : State := { (s.downgrade r) with home := { (s.downgrade r).home with hostRecalls := removeAll s.home.hostRecalls r } }
      match answer.data with
      | some d =>
        if 2 ≤ s.hostHold agent line half then
          (match s.homeWrite (line * 128 + 64 * half) ((natToBytes 64 d.toNat).map some) 0 agent with
           | .ok (s, _) => done s
           | .error (.hold s _) => s
           | .error (.trap s _ _ _) => s)
        else done s
      | none => done s)

/-- The cycles of quiet after which siblings merge: QT = 4,096 (R137, R138). -/
def quietCycles : Nat := 2 ^ 20

/-- May two sibling entries merge: equal AG, both quiet, equal half fields where 128-byte entries become one, and no recall under way (R137, R138)? -/
def State.merges (s : State) (a b : DirEntry) : Bool :=
  decide (a.slice = b.slice) && decide (a.sz = b.sz) && decide (0 < a.sz) && decide (b.base = a.base + dirLines a.sz) &&
    decide (a.base % dirLines (a.sz - 1) = 0) && decide (a.ag = b.ag) &&
    decide (a.last + quietCycles ≤ s.time.gtc) && decide (b.last + quietCycles ≤ s.time.gtc) &&
    (!decide (a.sz = 9) || (List.range 4).all (fun g => decide (agGet a.ag g 0 = agGet a.ag g 1))) && !s.recalling a && !s.recalling b

/-- Two siblings become one entry. -/
def State.mergePair (s : State) (a b : DirEntry) : State :=
  { s with home := { s.home with dir := { a with sz := a.sz - 1, last := max a.last b.last } :: removeAll (removeAll s.home.dir a) b } }

/-- `directory merge`: quiet siblings of one size at one base merge, at each slice where they stand (R138). -/
def execDirectoryMerge (base sz : Nat) (s : State) : Host.Outcome State Fault Refusal :=
  .next ((s.home.dir.filter (fun a => decide (a.base = base) && decide (a.sz = sz))).foldl (fun t a =>
    match s.home.dir.find? (fun b => s.merges a b) with
    | some b => t.mergePair a b
    | none => t) s)

/-! Page walks (R149, R150). -/

/-- `page walk`: a walker translates an address for a core and fills its TLBs, or raises the page fault of the access kind with
stval the address (R149). The fault is the core's only while it runs by itself and waits for nothing (log 36). -/
def execPageWalk (core : Nat) (va : Word) (kind : Access) (s : State) : Host.Outcome State Fault Refusal :=
  .next (if isCore core && decide (va.toNat < 0x20000000000) then
      match s.translate core va.toNat kind with
      | .ok (s, some _) => s
      | .ok (s, none) =>
        if s.runs core && decide ((s.coreAt core).wait = .none) && decide ((s.coreAt core).reply = .none) && (s.coreAt core).lead.isNone then
          s.takeTrapK core (pageCause kind) va (kaccKind kind)
        else s
      | .error (.hold s _) => s
      | .error (.trap s _ _ _) => s
    else s)

end Sys2Proof.Machine
end

