-- ==== Sys2Proof/Machine/Clocks.lean ====
section
/-! DEFINITION. Events of the clocks: self-ticks, rebases, lease revocation, the watchdog, quiescence, throttling and module reset (R35, R120, R121, R129, R221, R233, R243, R308). -/

namespace Sys2Proof.Machine

/-! Self-tick (R121). -/

/-- The core's clock rises by 1, never above the ceiling. -/
def Core.ticked (c : Core) (ceil : Nat) : Core :=
  { c with csr := { c.csr with lclk := if c.csr.lclk < ceil then c.csr.lclk + 1 else c.csr.lclk } }

/-- Put a core in front of a table whose keys are larger. -/
def consCore (n : Nat) (c : Core) (l : Tbl Core) : Tbl Core := if c = Core.reset then l else (n, c) :: l

/-- Tick `k` cores from number `n` on, listed or not. -/
def tickCores (ceil : Nat) : Nat → Nat → Tbl Core → Tbl Core
  | 0, _, l => l
  | k + 1, n, [] => consCore n (Core.reset.ticked ceil) (tickCores ceil k (n + 1) [])
  | k + 1, n, (j, c) :: t =>
    if j = n then consCore n (c.ticked ceil) (tickCores ceil k (n + 1) t)
    else consCore n (Core.reset.ticked ceil) (tickCores ceil k (n + 1) ((j, c) :: t))

/-- `self-tick`: every core's lclk rises by 1 (R121). -/
def execSelfTick (s : State) : Host.Outcome State Fault Refusal :=
  .next { s with time := { s.time with ticks := s.time.ticks + 1 }, cores := tickCores s.ceil Config.cores 0 s.cores }

/-! Rebase (R129). -/

/-- An L1 line or victim-buffer entry in the new scale. -/
def L1Line.rebase (a : L1Line) (b : Nat) : L1Line := { a with wts := a.wts - b, fin := a.fin - b }

/-- A core in the new scale: shared copies leave, and lclk, SWM, SCM, every BM and the marks of its result elements are reduced. -/
def Core.rebase (c : Core) (b : Nat) : Core :=
  { c with
    csr := { c.csr with lclk := c.csr.lclk - b }
    swm := c.swm - b
    scm := c.scm - b
    bm := c.bm.map (fun m => m - b)
    l1 := (c.l1.filter (fun a => a.owned)).map (fun a => a.rebase b)
    vb := c.vb.map (fun a => a.rebase b)
    results := c.results.map (fun r => { r with mark := r.mark - b }) }

/-- An engine in the new scale. -/
def Engine.rebase (x : Engine) (b : Nat) : Engine :=
  { x with ewm := x.ewm - b, results := x.results.map (fun r => { r with mark := r.mark - b }) }

/-- A table in the new scale: entries that come to equal what an unlisted one reads as leave it. -/
def Tbl.mapCanon {α : Type} [DecidableEq α] (d : α) (f : α → α) (t : Tbl α) : Tbl α :=
  (t.map (fun (e : Nat × α) => (e.1, f e.2))).filter (fun e => !decide (e.2 = d))

/-- A cluster in the new scale. -/
def Cluster.rebase (k : Cluster) (b : Nat) : Cluster := { k with eng := k.eng.rebase b, sweepEwm := k.sweepEwm - b, relClk := k.relClk - b }

/-- A saved context in the new scale, so that no mark of it is above C when it is restored (R120, R371). -/
def Ctx.rebase (x : Ctx) (b : Nat) : Ctx :=
  { x with
    cores := x.cores.map (fun p => (p.1, p.2.rebase b))
    clusters := x.clusters.map (fun p => (p.1, p.2.rebase b)) }

/-- Reduce every timestamp, clock and mark, those that are under way or saved too, by `b` (R129, R371). -/
def State.reduce (s : State) (b : Nat) : State :=
  { s with
    cores := Tbl.mapCanon Core.reset (fun c => c.rebase b) s.cores
    clusters := Tbl.mapCanon Cluster.gated (fun k => k.rebase b) s.clusters
    engines := Tbl.mapCanon Engine.empty (fun x => x.rebase b) s.engines
    home := { s.home with
      llc := s.home.llc.map (fun (l : LlcLine) => { l with wts := l.wts - b, rts := l.rts - b })
      emark := Tbl.mapCanon 0 (fun m => m - b) s.home.emark }
    disp := { s.disp with ctxs := Tbl.mapCanon Ctx.empty (fun x => x.rebase b) s.disp.ctxs }
    net := { s.net with
      arrivals := s.net.arrivals.map (fun (u : BarUpd) => { u with mark := u.mark - b })
      reports := s.net.reports.map (fun (u : BarUpd) => { u with mark := u.mark - b }) } }

/-- A rebase: store buffers drain under the old clocks, shared copies leave, every mark is reduced by B = C − 2^24, and C restarts (R129).
It is made once every store buffer can drain. -/
def State.rebase (s : State) : State :=
  if !s.canRebase then s.drainAll
  else
    let b := s.ceil - 2 ^ 24
    let s := (s.drainAll.reduce b).count cREBASE 1
    { s with time := { s.time with tbase := 2 ^ 24, g0 := s.time.gtc } }

/-- `rebase` without a slot edge: when C reaches 2^31 + 2^30 (R129). -/
def execRebase (s : State) : Host.Outcome State Fault Refusal := .next (if 2 ^ 31 + 2 ^ 30 ≤ s.ceil then s.rebase else s)

/-! Leases, the watchdog and quiescence (R221, R243, R308). -/

/-- `lease revocation`: the lease of a holder idle for 65,536 cycles falls free and passes on under R306, with no release of the old holder
(R308). The count stands one above while
the cycle of the holder's last issue is the first that it counts. -/
def execLeaseRevocation (cluster : Nat) (s : State) : Host.Outcome State Fault Refusal :=
  .next (let k := s.clusterAt cluster
    if s.leaseIdle cluster ∧ 65537 ≤ k.lidle then s.updCluster cluster (fun k => { k with holder := none, lastHolder := k.holder, lidle := 0 })
    else s)

/-- `watchdog freeze`: a core that has retired nothing for 3,600,000 cycles and waits for nothing is frozen with code 52 (R221). -/
def execWatchdogFreeze (core : Nat) (s : State) : Host.Outcome State Fault Refusal :=
  .next (let c := s.coreAt core
    if s.watched52 core c ∧ c.lastRet + 3600000 ≤ s.time.gtc then
      (s.updCore core (fun c => c.freeze 52 c.pc c.pc true s.time.gtc)).count cHANG 1
    else s)

/-- `quiescence`: cause 49 at the server, once an episode (R243). -/
def execQuiescence (ten : Nat) (s : State) : Host.Outcome State Fault Refusal :=
  .next (if s.disp.active = some ten ∧ s.slotActive ten ∧ s.quiescent ten ∧ !s.disp.quietRaised.contains ten ∧
        65536 ≤ Tbl.get 0 s.disp.quiet ten then
      let s := ((s.putFault ten (s.unitRecord 49 ten ten) s.openCopy).1).count cQUIESC 1
      { s with disp := { s.disp with quietRaised := ten :: s.disp.quietRaised } }
    else s)

/-! Throttling (R35). -/

/-- `throttle`: so many issue cycles are withheld from the vector units (and the arrays), and counted; gtc runs on (R35). -/
def execThrottle (cycles : Nat) (s : State) : Host.Outcome State Fault Refusal :=
  .next ({ s with cores := Tbl.mapCanon Core.reset (fun c => { c with vnext := max c.vnext s.time.gtc + cycles }) s.cores }.count cTHROT cycles)

/-! Module reset (R8, R20, R193, R233, R244). -/

/-- The bytes that a module reset leaves: LPDDR, host and pool memory, and the firmware area's text (log 39). -/
def Mem.kept (m : Mem) : Mem := m.filter (fun e => decide (e.1 < space 3) || (decide (space 4 ≤ e.1) && decide (e.1 < space 5)))

/-- `module reset`: gtc, the journal and the counters are cleared, every cluster outside the server mask is gated, and every other field
takes its reset value (R20, R193, R233, R244). What lies outside the module's SRAM stays: memory, checkpoint images and the installed
firmware (log 39); so do the model's own schedule and counters. -/
def execModuleReset (s : State) : Host.Outcome State Fault Refusal :=
  .next { State.reset with
    mem := s.mem.kept
    tabs := { Tabs.reset with images := s.tabs.images, fw := s.tabs.fw, fwImage := s.tabs.fwImage, gen := s.tabs.gen }
    run := { s.run with cur := .core 0, bars := [], notes := [] } }

end Sys2Proof.Machine
end

