-- ==== Sys2Proof/Machine/Control.lean ====
section
/-! DEFINITION. The full fence, CSR instructions, environment calls, return and wait, interrupts and illegal words (R40, R78, R79, R262 to R272). -/

namespace Sys2Proof.Machine

/-! CSRs (R78, R79, R263, R264). -/

/-- The CSRs, by name. -/
inductive CsrName where
  | lease | acfg | srstate | vmsel | scbchk | dsel | wsp | lclk | coord | lcore | ptag | gtc | cycle | time | ckstep | hintdrop
  | sstatus | sie | stvec | sscratch | sepc | scause | stval | sip
  deriving DecidableEq, Repr

/-- The CSR with a number; `none` for a number that is not listed. -/
def CsrName.ofNumber (c : BitVec 12) : Option CsrName :=
  match c.toNat with
  | 0x800 => some .lease | 0x801 => some .acfg | 0x802 => some .srstate | 0x803 => some .vmsel | 0x804 => some .scbchk | 0x805 => some .dsel
  | 0xCC0 => some .wsp | 0xCC1 => some .lclk | 0xCC2 => some .coord | 0xCC3 => some .lcore | 0xCC4 => some .ptag | 0xCC5 => some .gtc
  | 0xC00 => some .cycle | 0xC01 => some .time | 0xCC6 => some .ckstep | 0xCC7 => some .hintdrop
  | 0x100 => some .sstatus | 0x104 => some .sie | 0x105 => some .stvec | 0x140 => some .sscratch | 0x141 => some .sepc
  | 0x142 => some .scause | 0x143 => some .stval | 0x144 => some .sip
  | _ => none

/-- Is the CSR accessible only in supervisor mode? -/
def CsrName.supervisor (c : CsrName) : Bool :=
  match c with
  | .sstatus | .sie | .stvec | .sscratch | .sepc | .scause | .stval | .sip => true
  | _ => false

/-- Is it read-only? -/
def CsrName.readOnly (c : CsrName) : Bool :=
  match c with
  | .wsp | .lclk | .coord | .lcore | .ptag | .gtc | .cycle | .time | .ckstep | .hintdrop | .sip => true
  | _ => false

/-- Two flags at bits 9 and 1. -/
def flags91 (a b : Bool) : Word := (if a then 512#64 else 0#64) ||| (if b then 2#64 else 0#64)

/-- What a CSR reads as (R264). -/
def State.csrRead (s : State) (n : Nat) (c : CsrName) : Word :=
  let k := s.coreAt n
  match c with
  | .lease => k.csr.lease.setWidth 64
  | .acfg => k.csr.acfg.setWidth 64
  | .srstate => k.csr.srstate
  | .vmsel => k.csr.vmsel.setWidth 64
  | .scbchk => k.csr.scbchk.setWidth 64
  | .dsel => k.csr.dsel.setWidth 64
  | .wsp => k.csr.wsp.setWidth 64
  | .lclk => BitVec.ofNat 64 k.csr.lclk
  | .coord => k.csr.coord
  | .lcore => k.csr.lcore.setWidth 64
  | .ptag => k.csr.ptag.setWidth 64
  | .gtc | .cycle | .time => s.gtcWord
  | .ckstep => k.csr.ckstep.setWidth 64
  | .hintdrop => k.csr.hintdrop.setWidth 64
  | .sstatus => (if k.sup.spp then 256#64 else 0#64) ||| (if k.sup.spie then 32#64 else 0#64) ||| (if k.sup.sie then 2#64 else 0#64)
  | .sie => flags91 k.sup.seie k.sup.ssie
  | .stvec => k.sup.stvec
  | .sscratch => k.sup.sscratch
  | .sepc => k.sup.sepc
  | .scause => k.sup.scause
  | .stval => k.sup.stval
  | .sip => flags91 k.sup.seip (s.ssip n)

/-- lease.LEN of a written value: clamped to 8 to 1,024 (R79). -/
def clampLease (w : Word) : BitVec 11 := BitVec.ofNat 11 (min 1024 (max 8 w.toNat))

/-- Write a CSR that may be written; reserved bits are ignored (R78, R79). -/
def Core.csrWrite (k : Core) (c : CsrName) (w : Word) : Core :=
  match c with
  | .lease => { k with csr := { k.csr with lease := clampLease w } }
  | .acfg => { k.awaitVector with csr := { k.csr with acfg := w.setWidth 5 } }
  | .srstate => { k.awaitVector with csr := { k.csr with srstate := if w = 0#64 then 1#64 else w } }
  | .vmsel => { k.awaitVector with csr := { k.csr with vmsel := w.setWidth 4 } }
  | .scbchk => { k.awaitVector with csr := { k.csr with scbchk := w.setWidth 1 } }
  | .dsel => { k with csr := { k.csr with dsel := w.setWidth 4 } }
  | .sstatus => { k with sup := { k.sup with spp := w.getLsbD 8, spie := w.getLsbD 5, sie := w.getLsbD 1 } }
  | .sie => { k with sup := { k.sup with seie := w.getLsbD 9, ssie := w.getLsbD 1 } }
  | .stvec => { k with sup := { k.sup with stvec := w &&& 0xFFFFFFFFFFFFFFFC#64 } }
  | .sscratch => { k with sup := { k.sup with sscratch := w } }
  | .sepc => { k with sup := { k.sup with sepc := w &&& 0xFFFFFFFFFFFFFFFC#64 } }
  | .scause => { k with sup := { k.sup with scause := w } }
  | .stval => { k with sup := { k.sup with stval := w } }
  | .wsp | .lclk | .coord | .lcore | .ptag | .gtc | .cycle | .time | .ckstep | .hintdrop | .sip => k

/-- A CSR instruction (R263): `upd` gives the new value from the old, and `attempt` says whether a write is attempted. -/
def csrOp (upd : Word → Word) (attempt : Bool) (rd : BitVec 5) (c : BitVec 12) (s : State) : Host.Outcome State Fault Refusal :=
  runCore s (fun n =>
    match CsrName.ofNumber c with
    | none => illegal s
    | some c =>
      let old := s.csrRead n c
      let new := upd old
      if c.supervisor && decide ((s.coreAt n).mode = .u) then illegal s
      else if attempt && c.readOnly then illegal s
      else if attempt && decide (c = .dsel) && !s.tableIn (s.coreAt n).ten (new.setWidth 4) then illegal s
      else
        let s := if attempt then s.updCore n (fun k => k.csrWrite c new) else s
        .ok (s.setRd rd old))

/-- The source of an immediate form. -/
def immU5 (u : BitVec 5) : Word := u.setWidth 64

/-- `csrrw` (R263). -/
def execCsrrw (rd rs1 : BitVec 5) (csr : BitVec 12) (s : State) : Host.Outcome State Fault Refusal :=
  csrOp (fun _ => s.rx rs1) true rd csr s

/-- `csrrs` (R263). -/
def execCsrrs (rd rs1 : BitVec 5) (csr : BitVec 12) (s : State) : Host.Outcome State Fault Refusal :=
  csrOp (fun old => old ||| s.rx rs1) (decide (rs1 ≠ 0#5)) rd csr s

/-- `csrrc` (R263). -/
def execCsrrc (rd rs1 : BitVec 5) (csr : BitVec 12) (s : State) : Host.Outcome State Fault Refusal :=
  csrOp (fun old => old &&& ~~~(s.rx rs1)) (decide (rs1 ≠ 0#5)) rd csr s

/-- `csrrwi` (R263). -/
def execCsrrwi (rd : BitVec 5) (csr : BitVec 12) (uimm : BitVec 5) (s : State) : Host.Outcome State Fault Refusal :=
  csrOp (fun _ => immU5 uimm) true rd csr s

/-- `csrrsi` (R263). -/
def execCsrrsi (rd : BitVec 5) (csr : BitVec 12) (uimm : BitVec 5) (s : State) : Host.Outcome State Fault Refusal :=
  csrOp (fun old => old ||| immU5 uimm) (decide (uimm ≠ 0#5)) rd csr s

/-- `csrrci` (R263). -/
def execCsrrci (rd : BitVec 5) (csr : BitVec 12) (uimm : BitVec 5) (s : State) : Host.Outcome State Fault Refusal :=
  csrOp (fun old => old &&& ~~~(immU5 uimm)) (decide (uimm ≠ 0#5)) rd csr s

/-! Fence, environment calls, return and wait. -/

/-- A release and then an acquire at a scope (R127, R175). -/
def State.fullFence (s : State) (n scope : Nat) : Except Stop State := do
  let s ← s.release n scope
  pure (s.acquire n scope)

/-- `fence`: `fence.s.pkg` whatever its fields hold (R41, R262). -/
def execFence (_rd _rs1 : BitVec 5) (_fm _pred _succ : BitVec 4) (s : State) : Host.Outcome State Fault Refusal :=
  runCore s (fun n => do
    let s ← s.fullFence n scopePkg
    pure s.complete)

/-- `ecall`: cause 8 in user mode, 9 in supervisor mode (R265). -/
def execEcall (s : State) : Host.Outcome State Fault Refusal :=
  runCore s (fun n => trap s (if (s.coreAt n).mode = .u then 8 else 9) 0#64)

/-- `ebreak`: cause 3 (R265). -/
def execEbreak (s : State) : Host.Outcome State Fault Refusal :=
  runCore s (fun n => trap s 3 (s.coreAt n).pc)

/-- `sret` (R266): retires to sepc in the mode of SPP; never forwarded (R26), since it retires in supervisor mode. -/
def execSret (s : State) : Host.Outcome State Fault Refusal :=
  runCore s (fun n =>
    if (s.coreAt n).mode = .u then illegal s
    else .ok ((s.updCore n (fun c => (c.retired c.sup.sepc false s.time.gtc).sret)).boundary n))

/-- `wfi` (R267): retires when (sip and sie) has a bit set, else waits; a rebuild delays a buddy's request (R228), not this. -/
def execWfi (s : State) : Host.Outcome State Fault Refusal :=
  runCore s (fun n =>
    if (s.coreAt n).mode = .u then illegal s
    else if s.pendExt n || (s.ssip n && (s.coreAt n).sup.ssie) then .ok s.complete
    else hold s .interrupt)

/-- An enabled pending interrupt is taken (R271, R269). -/
def execInterrupt (core : Nat) (s : State) : Host.Outcome State Fault Refusal :=
  .next (if s.interruptNow core then s.takeInterrupt core else s)

/-- A fetched word that is no instruction raises cause 2, with stval the word (R40). -/
def execIllegalInstruction (word : IWord) (s : State) : Host.Outcome State Fault Refusal :=
  match s.run.cur with
  | .core n => .next (s.takeTrap n 2 (word.setWidth 64))
  | .lane c j => .next (s.laneIllegal c j)

end Sys2Proof.Machine
end

