-- ==== Sys2Proof/Machine/Faults.lean ====
section
/-! DEFINITION. Single faults, patrol scrubs, and copy sectors as events (R131, R138, R199, R200, R245 to R247). -/

namespace Sys2Proof.Machine

/-! What a fault in each structure does (R131, R138, R245, R246). -/

/-- An uncorrectable protected word: poisoned and counted (R246). -/
def State.uncorrectable (s : State) (lpddr : Bool) (key : Nat) : State := (s.poison (key / 8)).count (if lpddr then cDDBE else cSDBE) 1

/-- A corrected word: counted; it keeps its value (R245, R246). -/
def State.corrected (s : State) (lpddr : Bool) : State := s.count (if lpddr then cDSBE else cSSBE) 1

/-- No core keeps a leased copy of a line (R131). -/
def State.expire (s : State) (line : Nat) : State :=
  { s with cores := Tbl.mapCanon Core.reset (fun c => { c with l1 := c.l1.filter (fun a => a.owned || !decide (a.line = line)) }) s.cores }

/-- Bad timestamps of a line at its home: both become C, every leased copy counts as expired, and TSPAR counts (R131). -/
def State.badTimestamps (s : State) (line : Nat) : State :=
  match s.llcFind line with
  | some l => ((s.llcPut { l with wts := s.ceil, rts := s.ceil }).expire line).count cTSPAR 1
  | none => s

/-- A line's timestamps become C. -/
def L1Line.atCeil (a : L1Line) (ceil line : Nat) : L1Line := if a.line = line then { a with wts := ceil, fin := ceil } else a

/-- Bad timestamps of a line in an L1 or a victim buffer: both become C, every leased copy of the line counts as expired, and TSPAR counts
(R131). -/
def State.badL1Timestamps (s : State) (core line : Nat) : State :=
  let c := s.coreAt core
  if (l1Find (c.l1 ++ c.vb) line).isNone then s
  else
    ((s.updCore core (fun c => { c with l1 := c.l1.map (L1Line.atCeil · s.ceil line), vb := c.vb.map (L1Line.atCeil · s.ceil line) })).expire line).count cTSPAR 1

/-- A bad directory entry: every hold on its region is recalled, and the answers free it; DIRPAR counts (R138). -/
def State.badDirectory (s : State) (line : Nat) : State :=
  match s.dirFind line with
  | some e => (s.recallRegion e).count cDIRPAR 1
  | none => s

/-- A failed check of a core that has work, frozen or not: cause 51 with stval 2^63 + its number is taken at its next instruction boundary
(R84, R245). -/
def State.coreCheck (s : State) (core : Nat) : State :=
  if isCore core && (s.busy core || s.isServer core) then (s.updCore core (fun c => { c with check := true })).count cRESID 1 else s

/-- A parity error in an engine ends its command with cause 50; what ADDR and KACC then hold is left open (R245, log 9). -/
def State.engineCheck (s : State) (e : Nat) : State :=
  match (s.engAt e).cur with
  | some c => (s.faultCmd e c c.sector (s.openField 5) (s.openField 6)).moveEng e
  | none => s

/-- An uncorrectable word of a copy engine's buffers, which its current command reads: counted, and the command ends with cause 50 (R245, R246). -/
def State.engineWord (s : State) (e : Nat) : State :=
  match (s.engAt e).cur with
  | some c => if c.pend.isSome then s else (s.engineCheck e).count cSDBE 1
  | none => s

/-- A parity error in a sweep engine ends its pass with cause 50, as a fault of a copy engine ends its command (DEDUCED, log 75). -/
def State.sweepCheck (s : State) (cluster : Nat) : State :=
  match s.passAt cluster with
  | some _ => absorb (s.enginePassFault cluster (s.openField 5) (s.openField 6))
  | none => s

/-- An uncorrectable word of a sweep engine's buffers, which its pass reads: counted, and the pass ends with cause 50 (R245, R246, log 75). -/
def State.sweepWord (s : State) (cluster : Nat) : State :=
  match s.passAt cluster with
  | some p => if p.recordWaits.isSome then s else (s.sweepCheck cluster).count cSDBE 1
  | none => s

/-- The oldest message of each named pair of cores leaves: the state without them, and the tenants whose messages they were. -/
def State.loseMsgs (s : State) : List (Nat × Nat) → State × List Nat
  | [] => (s, [])
  | p :: t =>
    match takeFirst (fun m : Msg => decide (m.src = p.1) && decide (m.dst = p.2)) s.net.msgs with
    | some (m, rest) =>
      let (s, l) := ({ s with net := { s.net with msgs := rest } }).loseMsgs t
      (s, m.ten :: l)
    | none => s.loseMsgs t

/-- The tenant of the task that a core holds. -/
def Core.tenant (c : Core) : List Nat := match c.task with | some t => [t.ten] | none => []

/-- The oldest barrier update on its way to each named core leaves: the state without them, and the tenants whose updates they were. -/
def State.loseUpdates (s : State) : List Nat → State × List Nat
  | [] => (s, [])
  | n :: t =>
    let mine (u : BarUpd) : Bool := decide (u.dst = n)
    let whose := (s.coreAt n).tenant
    match takeFirst mine s.net.arrivals with
    | some (_, rest) =>
      let (s, l) := ({ s with net := { s.net with arrivals := rest } }).loseUpdates t
      (s, whose ++ l)
    | none =>
      match takeFirst mine s.net.reports with
      | some (_, rest) =>
        let (s, l) := ({ s with net := { s.net with reports := rest } }).loseUpdates t
        (s, whose ++ l)
      | none => s.loseUpdates t

/-- A router loses the messages and barrier updates that it held; each tenant whose message or update it held gets a record with CAUSE 51 and
UNIT the router's cluster (R245). -/
def State.routerCheck (s : State) (cluster : Nat) (msgs : List (Nat × Nat)) (updates : List Nat) : State :=
  if Config.clusters ≤ cluster then s
  else
    let (s, upds) := s.loseUpdates updates
    let (s, tens) := s.loseMsgs msgs
    (upds ++ tens).dedup.foldl (fun s t => ((s.putFault t (s.unitRecord 51 cluster (s.openField 5)) s.openCopy).1).count cRESID 1) s

/-- A word of a message in a router is found uncorrectable: it stays poisoned where the message lands (R245, R246). -/
def State.routerWord (s : State) (src dst word : Nat) : State :=
  match takeFirst (fun m : Msg => decide (m.src = src) && decide (m.dst = dst) && decide (8 * word < m.bytes.length) && !m.bad.contains word) s.net.msgs with
  | some (m, _) =>
    ({ s with net := { s.net with msgs := s.net.msgs.map (fun k : Msg => if k.id = m.id then { k with bad := word :: k.bad } else k) } }).count cSDBE 1
  | none => s

/-- A word of accumulator memory is found uncorrectable (R245, R246). -/
def State.accumulatorWord (s : State) (cluster tile row j : Nat) : State :=
  if cluster < Config.clusters ∧ tile < 8 ∧ row < 64 ∧ j < 96 ∧ !(s.clusterAt cluster).accPoison.contains (64 * tile + row, j) then
    (s.updCluster cluster (fun k => { k with accPoison := (64 * tile + row, j) :: k.accPoison })).count cSDBE 1
  else s

/-- The next matrix row of this number that a cluster's array computes fails its residue check (R245). -/
def State.rowCheckFails (s : State) (cluster row : Nat) : State :=
  if cluster < Config.clusters ∧ row < 64 then s.updCluster cluster (fun k => { k with badRow := some row }) else s

/-- Bad timestamps of a slice's eviction mark (R131). -/
def State.badEmark (s : State) (slice : Nat) : State := if slice < 256 then (s.setEmark slice s.ceil).count cTSPAR 1 else s

/-- Does a TLB entry translate an address of a tenant's address space? -/
def TlbEntry.covers (e : TlbEntry) (ten asid va : Nat) : Bool :=
  decide (e.ten = ten) && decide (e.asid = asid) && decide (e.va ≤ va) && decide (va < e.va + e.size)

/-- The entry that translates an address leaves a TLB. -/
def tlbStrike (l : List TlbEntry) (ten asid va : Nat) : List TlbEntry :=
  match takeFirst (fun e : TlbEntry => e.covers ten asid va) l with
  | some (_, rest) => rest
  | none => l

/-- The struck entry of a core's TLB leaves and is filled again (R245). -/
def State.dropCoreTlb (s : State) (core ten asid va : Nat) : State :=
  if isCore core then s.updCore core (fun c => { c with tlb := tlbStrike c.tlb ten asid va }) else s

/-- The struck entry of a cluster's TLB leaves and is filled again (R245). -/
def State.dropClusterTlb (s : State) (cluster ten asid va : Nat) : State :=
  if cluster < Config.clusters then s.updCluster cluster (fun k => { k with tlb := tlbStrike k.tlb ten asid va }) else s

/-- `single fault`: each kind is masked or detected as R245 gives. An L1 instruction entry is dropped and refilled with the same word. -/
def execSingleFault (what : FaultKind) (s : State) : Host.Outcome State Fault Refusal :=
  .next (match what with
    | .singleBit lpddr => s.corrected lpddr
    | .doubleBit lpddr key => s.uncorrectable lpddr key
    | .timestamp line => s.badTimestamps line
    | .l1Timestamp core line => s.badL1Timestamps core line
    | .emark slice => s.badEmark slice
    | .directory line => s.badDirectory line
    | .tlb core ten asid va => s.dropCoreTlb core ten asid va
    | .clusterTlb cluster ten asid va => s.dropClusterTlb cluster ten asid va
    | .engineWord engine => s.engineWord engine
    | .sweepWord cluster => s.sweepWord cluster
    | .instruction _ => s
    | .matrixRow cluster row => s.rowCheckFails cluster row
    | .coreArithmetic core => s.coreCheck core
    | .sweepLane cluster lane =>
      if (s.laneAt cluster lane).isSome then (s.laneFault cluster lane 0x104 0).count cRESID 1 else s
    | .coreState core => s.coreCheck core
    | .engineState engine => s.engineCheck engine
    | .sweepState cluster => s.sweepCheck cluster
    | .routerState cluster msgs updates => s.routerCheck cluster msgs updates
    | .routerWord src dst word => s.routerWord src dst word
    | .accumulator cluster tile row j => s.accumulatorWord cluster tile row j
    | .config table =>
      if table < 4 ∧ !s.tabs.badCfg.contains table then { s with tabs := { s.tabs with badCfg := table :: s.tabs.badCfg } } else s)

/-! The patrol scrub (R247). -/

/-- `patrol scrub read` (R245 to R247). -/
def execPatrolScrubRead (what : ScrubKind) (s : State) : Host.Outcome State Fault Refusal :=
  .next (match what with
    | .good _ => s
    | .corrected lpddr _ => s.corrected lpddr
    | .uncorrectable lpddr key => s.uncorrectable lpddr key
    | .timestamps line => s.badTimestamps line
    | .directory line => s.badDirectory line)

/-- `patrol pass`: a pass of the LLC or of LPDDR ends and is counted (R247). -/
def execPatrolPass (llc : Bool) (s : State) : Host.Outcome State Fault Refusal := .next (s.count (if llc then cLSCRB else cDSCRB) 1)

/-! Copy sectors (R199, R200). -/

/-- `sector complete`: the engine performs and reports the next sector of its current command; one that faults ends the command (R199, R200). -/
def execSectorComplete (engine : Nat) (s : State) : Host.Outcome State Fault Refusal := .next (s.sector engine)

/-- `sector fault`: the engine's next sector faults and ends its command (R200); a sector that would not fault is left as it is. -/
def execSectorFault (engine : Nat) (s : State) : Host.Outcome State Fault Refusal :=
  .next (match (s.engAt engine).cur with
    | none => s
    | some c =>
      if c.pend.isSome then s.sector engine
      else if c.stop ≤ c.sector ∨ c.start = 2 then s
      else
        match s.sectorDst c c.sector with
        | none => s
        | some dst =>
          match s.engCopy engine c.ten c.asid (c.src + c.sector * c.size) dst (c.sectorLen c.sector) (2 * c.size / 4) with
          | .error (.fault _ _ _) => s.sector engine
          | .error (.wait _) => s
          | .ok _ => s)

end Sys2Proof.Machine
end

