-- ==== Sys2Proof/Machine/Flags.lean ====
section
/-! DEFINITION. The event counters that instructions set as they compute: the four saturating counters of a tile's status word (R76, R238), beside the window counters of `Access` and the 32-bit hint counter (R241). -/

namespace Sys2Proof.Machine

/-- Add `k` to a 16-bit field of a word, saturating at 0xFFFF. -/
def bump16 (w : Word) (lo k : Nat) : Word := putBits64 w lo (min 0xFFFF ((w.extractLsb' lo 16).toNat + k))
where
  putBits64 (w : Word) (lo v : Nat) : Word := (w &&& ~~~(0xFFFF#64 <<< lo)) ||| (BitVec.ofNat 64 v <<< lo)

/-- How many elements had an event. -/
def tally (f : Events → Bool) (l : List Events) : Nat := (l.filter f).length

/-- Count the events of some elements in a status word: OVF, NAN, INV, SAT from bit 0 on (R76, R238). -/
def countStatus (w : Word) (l : List Events) : Word :=
  bump16 (bump16 (bump16 (bump16 w 0 (tally Events.ovf l)) 16 (tally Events.nan l)) 32 (tally Events.inv l)) 48 (tally Events.sat l)

/-- Add 1 to a 32-bit counter, saturating (R241). -/
def bump32 (c : BitVec 32) : BitVec 32 := if c = 0xFFFFFFFF#32 then c else c + 1#32

end Sys2Proof.Machine
end

