-- ==== Sys2Proof/Machine/Team.lean ====
section
/-! DEFINITION. Controls of a core and its field: checkpoint steps, workspace and decode-table switches, following, step drains and votes (R24 to R28, R53, R68, R72, R234, R347, R350 to R353). -/

namespace Sys2Proof.Machine

/-- `ckpt.step` (R234, R347): ckstep + 1, saturating. -/
def execCkptStep (s : State) : Host.Outcome State Fault Refusal :=
  runCore s (fun n => .ok (s.updCore n (fun c => { c with csr := { c.csr with ckstep := bump32 c.csr.ckstep } })).complete)

/-! Workspace switch (R72). -/

/-- Do two ranges of bytes overlap? -/
def overlaps (a n b m : Nat) : Bool := decide (a < b + m) && decide (b < a + n)

/-- Take the registers from the bytes at a scratchpad offset. -/
def State.readWs (s : State) (n off : Nat) : State := s.updCore n (fun c => c.withWs s.mem (kPad n off))

/-- `wsw` (R72). -/
def execWsw (rs1 : BitVec 5) (s : State) : Host.Outcome State Fault Refusal :=
  runCore s (fun n =>
    let v := (s.rx rs1).toNat
    let cbase := 0x21000000000 + 0x40000 * n
    let new := if cbase ≤ v ∧ v - cbase < 0x40000 then 0x22000000000 + (v - cbase) else v
    let old := (s.coreAt n).csr.wsp.toNat
    if new % 256 ≠ 0 ∨ new < 0x22000000000 ∨ 0x22000040000 < new + wsBytes then trap s 7 (BitVec.ofNat 64 v)
    else if new ≠ old ∧ overlaps new wsBytes old wsBytes then trap s 7 (BitVec.ofNat 64 new)
    else if overlaps new wsBytes 0x2200003FFB8 72 then trap s 7 (BitVec.ofNat 64 new)
    else do
      let s ← s.drain n
      let s := s.updCore n Core.awaitVector
      let s := s.writeBackWs n
      if new = old then pure s.complete
      else
        let s := s.readWs n (new - 0x22000000000)
        pure (s.updCore n (fun c => { c with vpend := [], csr := { c.csr with wsp := BitVec.ofNat 42 new } })).complete)

/-- `dsw` (R350): a write of dsel with the checks of a CSR write (R53, R79). -/
def execDsw (rs1 : BitVec 5) (s : State) : Host.Outcome State Fault Refusal :=
  runCore s (fun n =>
    let v := s.rx rs1
    if v.extractLsb' 4 60 ≠ 0#60 ∨ !s.tableIn (s.coreAt n).ten (v.setWidth 4) then illegal s
    else .ok (s.updCore n (fun c => c.csrWrite .dsel v)).complete)

/-- `dbg.stepdrain` (R352): only in supervisor mode, on the buddy of the core it names. -/
def execDbgStepdrain (rs1 rs2 : BitVec 5) (s : State) : Host.Outcome State Fault Refusal :=
  runCore s (fun n =>
    let m := (s.rx rs1).toNat
    if (s.coreAt n).mode = .u ∨ Config.cores ≤ m ∨ buddyOf (s.pair m) ≠ n then illegal s
    else
      let b := (s.rx rs2).getLsbD 0
      .ok (s.updLens m (fun c => { c with stepdrain := b })).complete)

/-! Following (R24 to R26, R351). -/

/-- Is rank `r` of the core's team an idle rank; so is every rank for a core of no team? -/
def State.rankIdle (s : State) (n r : Nat) : Bool :=
  match (s.coreAt n).task with
  | none => true
  | some t =>
    match s.fieldOf t, s.launch t.jseq with
    | some f, some l => f.idleRank (l.stage t.stage) t.team r
    | _, _ => true

/-- The core that a `follow` of rank `r` follows: a follower's own leader stands for it (R24). -/
def State.leaderOf (s : State) (n r : Nat) : Nat :=
  let m := 16 * clusterOf n + r
  ((s.coreAt m).lead).getD m

/-- The core becomes a follower: its pc is that of the first instruction it takes. It retires here without being forwarded. -/
def Core.joins (c : Core) (leader : Nat) (f : Fwd) (now : Nat) : Core :=
  { c with
    lead := some leader, pc := f.pc, lastRet := now, wait := .none, contrib := .none, reply := .none, frzReq := c.frzReq || c.stepping }

/-- `follow` ends without following: the core goes on at the next instruction. -/
def State.followOn (s : State) (n : Nat) : State :=
  (s.updCore n (fun c => { c.retired (c.pc + 4#64) false s.time.gtc with lead := none, fwd := [] })).boundary n

/-- `follow` (R351): the first execution records PH and reaches the core's own followers, which detach here and execute it
themselves; then it waits for PH to change, and for the first instruction that the leader retires past the completion.
A rank that follows another stands for that one's leader as it is when `follow` is first executed: R24 does not say whether its leader is
looked up then or when b completes (DESIGN CHOICE, log 82). -/
def execFollow (rs1 rs2 : BitVec 5) (s : State) : Host.Outcome State Fault Refusal :=
  runCore s (fun n =>
    let s := if (s.coreAt n).lead.isSome then s.detach n else s
    match (s.coreAt n).contrib with
    | .follow b ph _ l _ =>
      let c := s.coreAt n
      if c.ph b = ph then hold s .follow
      else if l = n then .ok (s.followOn n)
      else
        match c.fwd with
        | f :: _ => .ok ((s.updCore n (fun c => c.joins l f s.time.gtc)).boundary n)
        | [] => if (s.coreAt l).task.isNone then .ok (s.followOn n) else hold s .follow
    | _ =>
      let v := s.rx rs1
      let w := s.rx rs2
      let j := (w.extractLsb' 0 4).toNat
      if v.extractLsb' 7 57 ≠ 0#57 ∨ w.extractLsb' 4 60 ≠ 0#60 ∨ s.rankIdle n j then illegal s
      else
        let c := s.coreAt n
        let b := (v.extractLsb' 0 7).toNat
        let s := if c.mode = .u then s.forward n ⟨c.iw, c.pc, c.pc + 4#64, false, false⟩ else s
        hold (s.updCore n (fun c => { c with contrib := .follow b (c.ph b) (c.barDone b) (s.leaderOf n j) false, fwd := [] })) .follow)

/-! Votes (R27, R28, R353). -/

/-- The cores that must vote: the active ranks of the core's field; a core of no field votes alone. -/
def State.voters (s : State) (n : Nat) : List Nat :=
  match (s.coreAt n).task with
  | none => [n]
  | some t =>
    match s.fieldOf t, s.launch t.jseq with
    | some f, some l =>
      f.teams.zipIdx.flatMap (fun p => ((List.range 16).filter (fun r => !f.idleRank (l.stage t.stage) p.2 r)).map (16 * p.1 + ·))
    | _, _ => [n]

/-- What a core brings to a vote. -/
def Core.ballot (c : Core) : Option (Nat × Bool × BitVec 32) :=
  match c.contrib with
  | .vote op p v => some (op, p, v)
  | _ => none

/-- Combine two values: AND, OR, unsigned MAX, SUM. -/
def voteStep (op : Nat) (a b : BitVec 32) : BitVec 32 :=
  match op with
  | 0 => a &&& b
  | 1 => a ||| b
  | 2 => if a.toNat < b.toNat then b else a
  | _ => a + b

/-- The identity of an operation: what idle ranks contribute (R14). -/
def voteUnit (op : Nat) : BitVec 32 := if op = 0 then 0xFFFFFFFF#32 else 0#32

/-- Every core has voted: clocks level, the plan in force follows a `.p` form, and every voter takes the result (R28, R127, R353). -/
def State.voteRun (s : State) (n op : Nat) (plan : Bool) (cores : List Nat) : State :=
  let r := cores.foldl (fun a m => match (s.coreAt m).ballot with | some b => voteStep op a b.2.2 | none => a) (voteUnit op)
  let all := match (s.coreAt n).task with
    | some t => (match s.fieldOf t with | some f => f.cores | none => cores)
    | none => cores
  let s := s.levelClocks all
  let s := match (s.coreAt n).task with
    | some t => if plan then s.updField t (fun f => { f with plan := (r.extractLsb' 0 4).toNat }) else s
    | none => s
  cores.foldl (fun s m =>
    let s := (s.acquire m scopePkg).updCore m (fun c => c.wx c.rdField (r.setWidth 64))
    s.retireTogether m) s

/-- The shared meaning of the votes (R353): a release, then the rendezvous of the field. -/
def vote (op : Nat) (plan : Bool) (rd rs1 : BitVec 5) (s : State) : Host.Outcome State Fault Refusal :=
  runCore s (fun n => do
    let _ := rd
    let s ← (if (s.coreAt n).ballot.isSome then pure s
      else do
        let s ← s.signal n scopePkg
        pure ((s.updCore n (fun c => { c with contrib := .vote op plan ((s.rx rs1).extractLsb' 0 32) })).forwardEarly n) : Except Stop State)
    let cores := s.voters n
    if !cores.all (fun m => (s.coreAt m).ballot.isSome) then hold s .vote
    else if !cores.all (fun m => match (s.coreAt m).ballot with | some b => decide (b.1 = op) && decide (b.2.1 = plan) | none => false) then
      pure (s.trapAll cores 2 (fun s m => (s.coreAt m).iw.setWidth 64) 0xFF)
    else pure (s.voteRun n op plan cores))

/-- `vote.and` (R353). -/
def execVoteAnd (rd rs1 : BitVec 5) (s : State) : Host.Outcome State Fault Refusal := vote 0 false rd rs1 s

/-- `vote.or` (R353). -/
def execVoteOr (rd rs1 : BitVec 5) (s : State) : Host.Outcome State Fault Refusal := vote 1 false rd rs1 s

/-- `vote.max` (R353). -/
def execVoteMax (rd rs1 : BitVec 5) (s : State) : Host.Outcome State Fault Refusal := vote 2 false rd rs1 s

/-- `vote.sum` (R353). -/
def execVoteSum (rd rs1 : BitVec 5) (s : State) : Host.Outcome State Fault Refusal := vote 3 false rd rs1 s

/-- `vote.and.p` (R353). -/
def execVoteAndP (rd rs1 : BitVec 5) (s : State) : Host.Outcome State Fault Refusal := vote 0 true rd rs1 s

/-- `vote.or.p` (R353). -/
def execVoteOrP (rd rs1 : BitVec 5) (s : State) : Host.Outcome State Fault Refusal := vote 1 true rd rs1 s

/-- `vote.max.p` (R353). -/
def execVoteMaxP (rd rs1 : BitVec 5) (s : State) : Host.Outcome State Fault Refusal := vote 2 true rd rs1 s

/-- `vote.sum.p` (R353). -/
def execVoteSumP (rd rs1 : BitVec 5) (s : State) : Host.Outcome State Fault Refusal := vote 3 true rd rs1 s

end Sys2Proof.Machine
end

