-- ==== Sys2Proof/Machine/Slots.lean ====
section
/-! DEFINITION. Slots: edges, drains, what a drain saves, donations, overruns, checkpoints and firmware at the edge (R33, R82, R202, R204, R209 to R216, R218, R229, R231, R234, R242, R348, R367, R373). -/

namespace Sys2Proof.Machine

/-! Whose is what (R212, R218). -/

/-- The clusters of a tenant's mask. -/
def State.maskOf (s : State) (t : Nat) : List Nat := (List.range Config.clusters).filter (fun c => (partCmask (s.part t)).getLsbD c)

/-- Is the cluster time-shared (R212)? -/
def State.timeShared (s : State) (c : Nat) : Bool :=
  decide (2 ≤ ((List.range 16).filter (fun t => partV (s.part t) && (partCmask (s.part t)).getLsbD c)).length)

/-- The cores of the clusters that hold a tenant's teams. -/
def State.teamCoresOf (s : State) (t : Nat) : List Nat := (s.fieldsOf t).flatMap Field.cores

/-- The cores of the tenant's clusters that hold no task and ran for the tenant last: what they stored and left is the tenant's (R211, R216). -/
def State.pastCoresOf (s : State) (t : Nat) : List Nat :=
  ((s.maskOf t).flatMap (fun c => (List.range 16).map (16 * c + ·))).filter (fun n => (s.coreAt n).task.isNone && decide ((s.coreAt n).ten = t))

/-- The cores that a drain of the tenant stops and empties. -/
def State.drainedCores (s : State) (t : Nat) : List Nat := s.teamCoresOf t ++ s.pastCoresOf t

/-- The clusters whose state a drain of the tenant saves: those of its mask that have power (R218). -/
def State.savedClusters (s : State) (t : Nat) : List Nat := (s.maskOf t).filter s.powered

/-! What a drain does, step by step (R211). -/

/-- Step 1: store buffers drain, and lclk := Max(lclk, SWM), SWM := 0 (R128). -/
def State.stopCores (s : State) : List Nat → Except Stop State
  | [] => .ok s
  | n :: t => do
    let s ← s.drain n
    let s := s.raise n (s.coreAt n).swm
    (s.updCore n (fun c => { c with swm := 0 })).stopCores t

/-- Step 2: the waiter-table and watch-table entries of these cores leave (R211, R333). -/
def State.forgetWaiters (s : State) (l : List Nat) : State :=
  let s := { s with home := { s.home with waiters := s.home.waiters.filter (fun w => !l.contains w.2) } }
  let s := { s with home := { s.home with
    llc := s.home.llc.map (fun (a : LlcLine) => if a.wait && !s.watched a.line then { a with wait := false } else a) } }
  { s with cores := Tbl.mapCanon Core.reset (fun c => { c with watches := c.watches.filter (fun w => !l.contains w.1) }) s.cores }

/-- Step 2: every barrier update on its way to these cores is applied (R82, R237). -/
def State.landUpdates (s : State) (l : List Nat) : State :=
  let mine (u : BarUpd) : Bool := l.contains u.dst
  let ups := s.net.arrivals.filter mine ++ s.net.reports.filter mine
  let s := { s with net := { s.net with
    arrivals := s.net.arrivals.filter (fun u => !mine u), reports := s.net.reports.filter (fun u => !mine u) } }
  ups.foldl State.barrierUpdate s

/-- Step 2: the flush token sweeps the tenant's messages into router save buffers (R204): the state without them, and the messages. -/
def State.flushToken (s : State) (t : Nat) : State × List Msg :=
  ({ s with net := { s.net with msgs := s.net.msgs.filter (fun m => !decide (m.ten = t)) } }, s.net.msgs.filter (fun m => decide (m.ten = t)))

/-- Step 2: passes of these cores that wait for their engine leave it (R166). -/
def State.dropPasses (s : State) (l : List Nat) : State :=
  { s with
    clusters := Tbl.mapCanon Cluster.gated (fun k => { k with passes := k.passes.filter (fun p => !l.contains p.core) }) s.clusters }

/-- A core as it is saved: its caches and links are empty, and the instruction it waits in re-executes (R82, R211, R216, R351). -/
def Core.saved (c : Core) : Core :=
  { c with
    vpend := [], sb := [], l1 := [], vb := [], tlb := [], watches := [], lead := none, fwd := [], wait := .none
    contrib := (match c.contrib with | .follow _ _ _ _ _ => Contrib.none | k => k) }

/-- What stays on a core whose task has been saved: its supervisor CSRs, marks, clock, TLB and incarnation (R82, R150, R371). -/
def Core.emptied (c : Core) : Core :=
  { Core.reset with
    csr := { Csr.reset with lclk := c.csr.lclk }
    sup := c.sup, scm := c.scm, tlb := c.tlb, inc := c.inc, lastRet := c.lastRet }

/-- A cluster as it stands after its array, seal table and engine have been saved and reset (R216). -/
def Cluster.emptied (k : Cluster) (user : Option Nat) : Cluster :=
  { Cluster.gated with
    power := k.power, idleSince := k.idleSince, user := user, eng := { Engine.empty with ewm := k.eng.ewm }
    sweepEwm := k.sweepEwm, tlb := k.tlb, badRow := k.badRow }

/-- The commands of a tenant's cores in a package engine. R202 stops the engines' commands of the outgoing tenant and R199 has a command pushed at a
port hold no core; the model takes those that the server or a host pushed for the tenant as no part of its slot, and they run on (DESIGN
CHOICE, log 104). -/
def Engine.of (x : Engine) (t : Nat) : List Cmd := x.cmds.filter (fun c => c.core.isSome && decide (c.ten = t))

/-- The engine without them (R202). -/
def Engine.without (x : Engine) (t : Nat) : Engine :=
  let keep (c : Cmd) : Bool := !(c.core.isSome && decide (c.ten = t))
  match x.cmds.filter keep with
  | [] => { x with cur := none, shd := none, queue := [] }
  | a :: rest => if (x.cur.any keep) then { x with cur := some a, shd := rest.head?, queue := rest.tail } else { x with cur := none, shd := some a, queue := rest }

/-- Steps 3 to 6: the array, cores, tables, engines and, on time-shared clusters, scratchpads are saved; the x, v and m registers go back to their
workspaces (R65, R82); L1 is written back and dropped; what was saved is reset (R135, R211, R216). -/
def State.saveContext (s : State) (t : Nat) (msgs : List Msg) : State :=
  let cls := s.savedClusters t
  let cores := s.teamCoresOf t
  let past := s.pastCoresOf t
  let s := (cls.flatMap (fun c => (List.range 16).map (16 * c + ·))).foldl State.flushL1 s
  let s := (cores.filter s.busy).foldl State.writeBackWs s
  let shared := (cls.filter s.timeShared).flatMap (fun c => (List.range 16).map (16 * c + ·))
  let inPads (w : Nat) : Bool := shared.any (fun n => decide (kPad n 0 ≤ w * 8) && decide (w * 8 < kPad (n + 1) 0))
  let x : Ctx := ⟨cores.map (fun n => (n, (s.coreAt n).saved)), cls.map (fun c => (c, { s.clusterAt c with pass := none, passes := [] })),
    shared.map (fun n => (n, s.mem.take (kPad n 0) (2 ^ 18))), s.home.poison.filter inPads,
    (s.engines.map (fun e => (1000 + e.1, e.2.of t))).filter (fun e => !e.2.isEmpty), msgs⟩
  let s := { s with disp := { s.disp with ctxs := Tbl.set Ctx.empty s.disp.ctxs t x } }
  let s := (cores ++ past).foldl (fun s n =>
    let s := match (s.coreAt n).task with
      | some k => if k.idle then s else s.updCap k.caps (fun c => { c with nctx := c.nctx + 1#16 })
      | none => s
    s.updCore n Core.emptied) s
  let s := cls.foldl (fun s c => s.updCluster c (fun k => k.emptied (if s.timeShared c then none else k.user))) s
  let engines := s.engines.map (fun e => 1000 + e.1)
  let s := { s with engines := Tbl.mapCanon Engine.empty (fun e => e.without t) s.engines }
  let s := engines.foldl State.moveEng s
  let s := shared.foldl (fun s n => s.setMem (Tbl.clear s.mem (kPad n 0) (kPad n 0 + 2 ^ 18))) s
  { s with home := { s.home with poison := s.home.poison.filter (fun w => !inPads w) } }

/-- Does an engine stand within a sector of the tenant: its bytes are on their way to another module (R202)? -/
def Engine.inSector (x : Engine) (t : Nat) : Bool :=
  match x.cur with
  | some c => decide (c.ten = t) && decide (c.start = 2)
  | none => false

/-- Has everything that a drain waits for come about: no access is on its way for a core of the tenant, no pass of it runs, and no sector of it is
half done (R166, R202, R211)? -/
def State.drainReady (s : State) (t : Nat) : Bool :=
  (s.drainedCores t).all (fun n => !(s.coreAt n).sent && (s.coreAt n).cxl.isEmpty && (s.coreAt n).remStores.isEmpty) &&
    !s.clusters.any (fun e => match e.2.pass with | some p => decide (p.ten = t) | none => false) &&
    !s.clusters.any (fun e => e.2.eng.inSector t) && !s.engines.any (fun e => e.2.inSector t)

/-- The whole drain of a tenant; `none` while it cannot end. -/
def State.drainTenant (s : State) (t : Nat) : Option State :=
  if !s.drainReady t then none
  else
    let cores := s.drainedCores t
    match s.stopCores cores with
    | .error _ => none
    | .ok s =>
      if !s.drainReady t then none
      else
        let (s, msgs) := (s.forgetWaiters cores).flushToken t
        some (((s.dropPasses cores).landUpdates cores).saveContext t msgs)

/-! Checkpoints (R229, R230, R234). -/

def State.ckpt (s : State) (t : Nat) : Ckpt := Tbl.get Ckpt.reset s.tabs.cks t

def State.setCkpt (s : State) (t : Nat) (k : Ckpt) : State := { s with tabs := { s.tabs with cks := Tbl.set Ckpt.reset s.tabs.cks t k } }

/-- The ckstep of every running task of a tenant, saved or live. -/
def State.steps (s : State) (t : Nat) : List Nat :=
  let step (c : Core) : List Nat :=
    match c.task with
    | some k => if k.idle || !decide (k.ten = t) then [] else [c.csr.ckstep.toNat]
    | none => []
  ((Tbl.get Ctx.empty s.disp.ctxs t).cores.map Prod.snd).flatMap step ++ (s.cores.map Prod.snd).flatMap step

/-- Is a checkpoint of the tenant due (R229)? No second stream starts while one runs. -/
def State.ckptDue (s : State) (t : Nat) : Bool :=
  let k := s.ckpt t
  s.tabs.stream.isNone && (k.ordered ||
    (decide (k.ckn ≠ 0#32) && !(s.steps t).isEmpty && (s.steps t).all (fun n => decide (k.next.toNat ≤ n))) ||
    (decide (k.ckt ≠ 0#32) && decide (k.last.toNat + 2 ^ 24 * k.ckt.toNat ≤ s.time.gtc)))

/-- The bytes of a tenant that a checkpoint streams: its LPDDR frames and its pinned region. -/
def State.tenantBytes (s : State) (t : Nat) : List (Nat × BitVec 8) :=
  s.mem.filter (fun e => (decide (e.1 < space 1) && decide (s.frameOwner e.1 = some t)) || (decide (kPkg t 0 ≤ e.1) && decide (e.1 < kPkg (t + 1) 0)))

/-- The LPDDR granules that a tenant owns, in rising order. -/
def State.framesOf (s : State) (t : Nat) : List Nat := (s.tabs.owners.filter (fun e => decide (e.2 = some t))).map Prod.fst

/-- Listed bytes of memory with their places. -/
def placedBytes (l : List (Nat × BitVec 8)) : List Byte := l.flatMap (fun e => natToBytes 16 e.1 ++ [e.2])

/-- The bytes of a saved core: its save block, window table, receive descriptors and result queue (R82, R218). -/
def Core.blockBytes (c : Core) : List Byte :=
  (List.range 2048).map c.saveByte ++ c.win.toList.flatMap (fun w => natToBytes 8 w.toNat) ++ c.rb.toList.flatMap (fun w => natToBytes 8 w.toNat) ++
    c.results.flatMap (fun r => natToBytes 16 r.word.toNat)

/-- The bytes of a saved cluster: tiles, status and progress words, scale records, seal table and engine commands (R218, R302). -/
def Cluster.blockBytes (k : Cluster) : List Byte :=
  k.acc.flatMap (fun e => natToBytes 2 e.1 ++ natToBytes 384 e.2.toNat) ++ k.status.toList.flatMap (fun w => natToBytes 8 w.toNat) ++
    k.prog.toList.flatMap (fun w => natToBytes 8 w.toNat) ++
    k.scale.toList.flatMap (fun r => natToBytes 64 r.rsc.toNat ++ natToBytes 96 r.csc.toNat ++ natToBytes 8 (if r.rv then 1 else 0)) ++
    k.seals.toList.flatMap (fun e => natToBytes 1 (if e.s then 1 else 0) ++ natToBytes 2 e.cnt ++ natToBytes 2 e.lm1 ++ natToBytes 2 e.base) ++
    k.eng.cmds.flatMap (fun c => natToBytes 64 c.raw.toNat)

/-- The bytes of a saved context (R218). -/
def Ctx.blockBytes (x : Ctx) : List Byte :=
  x.pads.flatMap (fun p => natToBytes 2 p.1 ++ placedBytes p.2) ++ x.clusters.flatMap (fun p => natToBytes 2 p.1 ++ p.2.blockBytes) ++
    x.cores.flatMap (fun p => natToBytes 2 p.1 ++ p.2.blockBytes) ++ x.engines.flatMap (fun p => p.2.flatMap (fun c => natToBytes 64 c.raw.toNat)) ++
    x.msgs.flatMap (fun m => natToBytes 2 m.src ++ natToBytes 2 m.dst ++ m.bytes)

/-- The bytes of a capsule's table entry and plan tables (R224, R225). -/
def Caps.blockBytes (c : Caps) : List Byte := natToBytes 64 c.raw.toNat ++ (c.plans.getD []).flatMap (fun r => natToBytes 16 r.toNat)

/-- The digest of everything that an image holds, of which the spec gives no order of bytes (R229; log 89). -/
def imageDigest (bytes : List (Nat × BitVec 8)) (x : Ctx) (caps : List (Nat × Caps)) : BitVec 256 :=
  Config.sm3 (placedBytes bytes ++ x.blockBytes ++ caps.flatMap (fun e => natToBytes 2 e.1 ++ e.2.blockBytes))

/-- The image that a stream leaves at SAFE, with its signed header (R229). -/
def State.image (s : State) (t : Nat) : Image :=
  let bytes := s.tenantBytes t
  let x := Tbl.get Ctx.empty s.disp.ctxs t
  let caps := s.tabs.caps.filter (fun e => decide (e.2.ten = t) && !decide (e.2.st = .free))
  let d := imageDigest bytes x caps
  ⟨t, (s.ckpt t).safe, s.maskOf t, s.framesOf t, bytes, x, caps, s.tabs.domain, d, Config.sm2Sign d⟩

/-- The tenant's lines are brought home for the stream: owners and hosts give what they hold (R123, R139). -/
def State.tenantHome (s : State) (t : Nat) : Except Stop State :=
  s.homeWhere (fun n => (decide (n * 128 < space 1) && decide (s.frameOwner (n * 128) = some t)) ||
    (decide (kPkg t 0 ≤ n * 128) && decide (n * 128 < kPkg (t + 1) 0)))

/-- The stream of a tenant has ended: LAST is set, NEXT rises by CKN, and the image stands at SAFE; an abandoned stream keeps LAST and tells the
server (R229). An ordered checkpoint writes its STATUS (R208). -/
def State.streamEnd (s : State) (ten : Nat) (ordered good : Bool) : State :=
  let k := s.ckpt ten
  let i := s.image ten
  let s := { s with tabs := { s.tabs with stream := none } }
  let s := if good then
      let s := s.setCkpt ten { k with last := s.gtcWord, next := k.next + k.ckn.setWidth 64 }
      { s with tabs := { s.tabs with images := i :: s.tabs.images.filter (fun j => !decide (j.safe = i.safe)) } }
    else s.alarmServers
  if ordered && s.blockUnder 1 then s.blockDone 1 (if good then 0 else 4) else s

/-- `checkpoint end` (R208, R229); a stream waits while a host holds lines of the tenant. -/
def execCheckpointEnd (ten : Nat) (good : Bool) (s : State) : Host.Outcome State Fault Refusal :=
  .next (match s.tabs.stream with
    | none => s
    | some (t, ordered) =>
      if t ≠ ten then s
      else if good then absorb (do let s ← s.tenantHome ten; pure (s.streamEnd ten ordered true))
      else s.streamEnd ten ordered false)

/-! Firmware (R226, R231, R367, R373). -/

/-- Bytes of an image in LPDDR, as its homes hold them. -/
def State.fwBytes (s : State) (a n : Nat) : List Byte := s.mem.readBytes (kLpddr a) n

/-- Does the image at `a` of `len` bytes pass verification (R373)? -/
def State.fwGood (s : State) (a len : Nat) : Bool :=
  let f (i n : Nat) : Nat := s.mem.read (kLpddr (a + i)) n
  decide (256 ≤ len) && decide (f 0 4 = 0x4D465A49) && decide (f 4 2 = s.tabs.gen.toNat) && decide (f 6 2 = 0) && decide (f 8 4 ≠ 0) &&
    decide (f 12 4 = 0) && decide (f 16 8 = len - 256) && decide ((s.fwBytes (a + 120) 136).all (· == 0#8)) &&
    decide (bytesToNat (s.fwBytes (a + 24) 32) = (Config.sm3 (s.fwBytes (a + 256) (len - 256))).toNat) &&
    Config.sm2Verifies (natToBytes 32 (Config.sm3 (s.fwBytes a 56)).toNat) (s.fwBytes (a + 56) 64)

/-- Every sealed body whose FW or GEN differs becomes void (R226, R373). -/
def State.voidBodies (s : State) : State :=
  { s with tabs := { s.tabs with caps := Tbl.mapCanon Caps.free (fun c =>
      if c.st = .sealed ∧ (c.fw ≠ s.tabs.fw ∨ c.gen ≠ s.tabs.gen) then { c with st := .void } else c) s.tabs.caps } }

/-- Is some entry installing, so that an update is held (R226)? -/
def State.installing (s : State) : Bool := s.tabs.caps.any (fun e => decide (e.2.st = .installing))

/-- The update: verified, the image replaces the old one whole, unmatched bodies become void, the journal takes a kind-3 entry and RUN is
set, and the table restarts at the entry after CUR; an image that fails leaves the module in boot ROM (R231, R367). `edge` is the gtc of the edge
that started it. -/
def State.firmware (s : State) (a len edge : Nat) : State :=
  if s.fwGood a len then
    let fw := BitVec.ofNat 32 (s.mem.read (kLpddr (a + 8)) 4)
    let before := s.tabs.caps.filter (fun e => decide (e.2.st = .void))
    let s := ({ s with tabs := { s.tabs with fw := fw, fwImage := s.fwBytes (a + 256) (len - 256), bootRom := false, fwPend := none } }).voidBodies
    let n := (s.tabs.caps.filter (fun e => decide (e.2.st = .void))).length - before.length
    let s := s.journal 3 0 (fw.toNat * 2 ^ 32 + n % 2 ^ 16) edge 0xFF
    let s := { s with tabs := { s.tabs with run := true } }
    s.restartTable.blockDone 2 0
  else ({ s with tabs := { s.tabs with bootRom := true, fwPend := none } }).blockDone 2 2

/-- The image's bytes brought home, or a wait for a host that holds some (R124). -/
def State.fwFetch (s : State) (a len : Nat) : Except Stop State := s.homeRange (a / 128) ((a + len + 127) / 128)

/-! Edges (R209 to R211, R215). -/

/-- The digests of the configuration tables are checked: a mismatch clears RUN, counts, and interrupts every server core (R215). -/
def State.digestCheck (s : State) : State :=
  if s.tabs.badCfg = [] then s
  else (({ s with tabs := { s.tabs with run := false } }).count cCFGDG s.tabs.badCfg.length).alarmServers

/-- Does the edge stop the running tenant: another follows, or its checkpoint is due (R210, R229)? -/
def State.edgeStops (s : State) (next : Option Nat) : Bool :=
  s.disp.drain.isSome || !decide (next = s.disp.active) || (match s.disp.active with | some t => s.ckptDue t | none => true)

/-- The drain that an edge has begun makes an update at its end; with nothing to drain it is made at the next drain end (R231). -/
def State.markUpdate (s : State) (fw : Bool) (edge : Nat) : State :=
  if !fw then s
  else
    match s.disp.drain with
    | some d => { s with disp := { s.disp with drain := some { d with update := true } } }
    | none => { s with disp := { s.disp with drain := some ⟨none, s.time.gtc, edge, false, none, true, none, none⟩ } }

/-- A checkpoint that the edge finds due is taken after the drain that the edge orders or meets (R229, R234). An OP 2 that ordered it is served. -/
def State.markCkpt (s : State) : State :=
  match s.disp.drain with
  | some d =>
    match d.ten with
    | some t =>
      if s.ckptDue t && d.ckpt.isNone then
        ({ s with disp := { s.disp with drain := some { d with ckpt := some (s.ckpt t).ordered } } }).setCkpt t { s.ckpt t with ordered := false }
      else s
    | none => s
  | none => s

/-- The edge at gtc `t` (R129, R209 to R211, R215, R231). -/
def State.edge (s : State) (t : Nat) : State :=
  let s := if 2 ^ 31 ≤ s.ceil then s.rebase else s
  let s := s.digestCheck
  let fw := s.tabs.fwPend.isSome && s.tabs.run && !s.installing && !s.journalFull
  let s := if fw then { s with tabs := { s.tabs with run := false } } else s
  if !s.tabs.run then ((s.switchTo none t).markUpdate fw t).markCkpt
  else
    match s.nextEntry with
    | (s, none) => (s.switchTo none t).markCkpt
    | (s, some i) =>
      let s := { s with tabs := { s.tabs with cur := i, epoch := t } }
      let (s, next) := s.incoming i
      if s.edgeStops next then (s.switchTo next t).markCkpt else s

/-- `slot edge`: at gtc EPOCH + 4,096 × LEN (R210, R211). One at which a rebase is due is handled once the store buffers can drain (R129; log 88);
EPOCH keeps the edge's own cycle. -/
def execSlotEdge (s : State) : Host.Outcome State Fault Refusal :=
  .next (match s.edgeAt with
    | some t =>
      if s.time.gtc < t then s
      else if 2 ^ 31 ≤ s.ceil ∧ !s.canRebase then s.drainAll
      else s.edge t
    | none => s)

/-- The drained tenant runs no more, and a checkpoint of it that its edge found due starts to stream (R229, R234). -/
def State.drainedOut (s : State) (d : Drain) : State :=
  let s := { s with disp := { s.disp with drain := none, active := none } }
  match d.ten, d.ckpt with
  | some t, some ordered => { s with tabs := { s.tabs with stream := some (t, ordered) } }
  | _, _ => s

/-- After the drain of `d`: an update that waits is made, and the next tenant runs (R211, R231). -/
def State.afterDrain (s : State) (d : Drain) : State :=
  let s := s.drainedOut d
  match (if d.update then s.tabs.fwPend else none) with
  | some (a, len) => s.firmware a.toNat len.toNat d.edge
  | none =>
    match d.next with
    | some t => s.activate (if s.streams t then s.donate t none else some t)
    | none => s

/-- What a drained tenant leaves: the update that its end makes waits while an entry installs, the journal is full, or a host holds a line of the
image (R226, R231). -/
def State.drainDone (s : State) (d : Drain) : State :=
  let wait (s : State) : State := { (s.drainedOut d) with disp := { (s.drainedOut d).disp with drain := some { d with ten := none } } }
  match (if d.update then s.tabs.fwPend else none) with
  | none => s.afterDrain d
  | some (a, len) =>
    if s.installing || s.journalFull then wait s
    else
      match s.fwFetch a.toNat len.toNat with
      | .ok s => s.afterDrain d
      | .error (.hold s _) | .error (.trap s _ _ _) => wait s

/-- `drain end` (R211): once the tenant's steps have come about, its state is saved and the incoming tenant is restored. -/
def execDrainEnd (s : State) : Host.Outcome State Fault Refusal :=
  .next (match s.disp.drain with
    | none => s
    | some d =>
      match d.ten with
      | none => s.drainDone d
      | some t =>
        match s.drainTenant t with
        | some s => s.drainDone d
        | none => s)

/-- `slot overrun`: a drain unfinished 90,000 cycles after its edge raises cause 48 at the server and forfeits the tenant's next entry (R213). -/
def execSlotOverrun (s : State) : Host.Outcome State Fault Refusal :=
  .next (match s.disp.drain with
    | none => s
    | some d =>
      if !d.overrun ∧ d.started + 90000 ≤ s.time.gtc then
        let s := { s with disp := { s.disp with drain := some { d with overrun := true } } }
        match d.ten with
        | some t =>
          let s := (s.putFault t (s.unitRecord 48 t t) s.openCopy).1
          { s with disp := { s.disp with forfeit := s.disp.forfeit ++ [t] } }
        | none => s
      else s)

/-! `yield.slot` (R214, R348). -/

/-- The tenant that rs1 names; its field 0 and a value above 15 name none. -/
def State.yieldTo (s : State) (rs1 : BitVec 5) : Option Nat :=
  if rs1 = 0#5 then none
  else if (s.rx rs1).toNat ≤ 15 then some (s.rx rs1).toNat else none

/-- Does a drain that stands let a yield of core `n` decide who runs next: it was ordered in this cycle by a yield of a higher core (R348)? -/
def Drain.yieldsTo (d : Drain) (donor n now : Nat) : Bool :=
  decide (d.ten = some donor) && decide (d.started = now) && (match d.yielder with | some m => decide (n < m) | none => false)

/-- The running tenant gives up its entry to the tenant named, or to nobody with fewer than 180,000 cycles left (R214). Of several yields in one
cycle that of the lowest core decides (R348). In the cycle of the planned edge, which EPOCH holds when the next entry is the same tenant's,
the edge stands and nothing is given up (R355). -/
def State.yieldSlot (s : State) (n donor : Nat) (named : Option Nat) : State :=
  match s.edgeAt with
  | none => s
  | some t =>
    if s.tabs.epoch = s.time.gtc then s
    else
    let s := s.note (.yield n)
    let next := if t < s.time.gtc + 180000 then none else s.donate donor named
    match s.disp.drain with
    | some d =>
      if d.yieldsTo donor n s.time.gtc then { s with disp := { s.disp with drain := some { d with next := next, yielder := some n } } } else s
    | none =>
      if s.disp.active ≠ some donor then s
      else { s with disp := { s.disp with drain := some ⟨some donor, s.time.gtc, s.tabs.epoch, false, next, false, some n, none⟩ } }

/-- `yield.slot` (R214, R348): the instruction retires, and the tenant of the core's task stops as at an edge. -/
def execYieldSlot (rs1 : BitVec 5) (s : State) : Host.Outcome State Fault Refusal :=
  runCore s (fun n =>
    let named := s.yieldTo rs1
    match (s.coreAt n).task with
    | none => .ok s.complete
    | some k => .ok (s.complete.yieldSlot n k.ten named))

end Sys2Proof.Machine
end

