-- ==== Sys2Proof/Machine/Tables.lean ====
section
/-! DEFINITION. The commands of the translation, checkpoint, firmware and decode-table blocks (R152, R153, R207, R208, R223, R229 to R231). -/

namespace Sys2Proof.Machine

/-- Are these bytes of a block zero? -/
def State.blockZero (s : State) (b lo hi : Nat) : Bool := decide (s.blockField b lo (hi - lo) = 0)

/-- Is the tenant number one of a valid partition entry? -/
def State.tenGood (s : State) (t : Nat) : Bool := decide (t < 16) && partV (s.part t)

/-! Translation commands (R152, R153). -/

/-- Remove the TLB entries that meet a test from every TLB (R152). -/
def State.dropTlb (s : State) (p : TlbEntry → Bool) : State :=
  { s with
    cores := Tbl.mapCanon Core.reset (fun c => { c with tlb := c.tlb.filter (fun e => !p e) }) s.cores
    clusters := Tbl.mapCanon Cluster.gated (fun k => { k with tlb := k.tlb.filter (fun e => !p e) }) s.clusters }

/-- The accesses that were translated before are performed: every store buffer drains, and no transaction outside the package is on its way
(R152). It waits until that has come about. -/
def State.settleAll (s : State) : Except Stop State :=
  let s := s.drainAll
  if s.buffersEmpty && s.cores.all (fun e => e.2.cxl.isEmpty) then .ok s else hold s .fence

/-- An invalidation: the entries leave, earlier accesses perform, and the completion word is written (R152). -/
def State.invalidate (s : State) (p : TlbEntry → Bool) : State :=
  match (s.dropTlb p).settleAll with
  | .ok s => s.blockDone 0 0
  | .error (.hold s _) | .error (.trap s _ _ _) => s

/-- Fields of the translation block. -/
def State.trOp (s : State) : Nat := s.blockField 0 0 1
def State.trTen (s : State) : Nat := s.blockField 0 1 1
def State.trAsid (s : State) : Nat := s.blockField 0 2 2
def State.trVa (s : State) : Nat := s.blockField 0 8 8
def State.trUnits (s : State) : Nat := s.blockField 0 16 8
def State.trOwn (s : State) : Nat := s.blockField 0 24 1

/-- Do the fields keep their limits (R208)? -/
def State.trGood (s : State) : Bool :=
  s.blockZero 0 4 8 && s.blockZero 0 25 40 && decide (s.trTen < 16) &&
    (match s.trOp with
     | 1 => decide (s.trVa % 4096 = 0) && decide (s.trVa < 0x20000000000) && decide (1 ≤ s.trUnits) && decide (s.trUnits ≤ 2 ^ 29)
     | 2 => decide (s.trAsid = 0)
     | 3 => decide (s.trAsid = 0) && decide (s.trVa < 524288) && decide (natBits s.trOwn 6 4 = 0)
     | _ => false)

/-- The command of the translation block, if it may start and is this operation; an operation that does not exist is refused. -/
def State.trCommand (s : State) (op : Nat) (f : State → State) : State :=
  if !s.blockPending 0 then s
  else if s.trOp ≠ op ∧ (s.trOp = 1 ∨ s.trOp = 2 ∨ s.trOp = 3 ∨ op ≠ 1) then s
  else if !s.trGood then s.blockDone 0 1
  else if !s.tenGood s.trTen then s.blockDone 0 2
  else f s

/-- `translation invalidate range` (R152, R208): OP 1. -/
def execTranslationInvalidateRange (s : State) : Host.Outcome State Fault Refusal :=
  .next (s.trCommand 1 (fun s =>
    s.invalidate (fun e => decide (e.ten = s.trTen) && decide (e.asid = s.trAsid) && decide (e.va < s.trVa + 4096 * s.trUnits) &&
      decide (s.trVa < e.va + e.size))))

/-- `translation invalidate tenant` (R152, R208): OP 2. -/
def execTranslationInvalidateTenant (s : State) : Host.Outcome State Fault Refusal :=
  .next (s.trCommand 2 (fun s => s.invalidate (fun e => decide (e.ten = s.trTen))))

/-- The owner of a granule changes: its TLB entries leave and the stores made through them are performed, host holds are recalled, all 2 MiB are
zeroed under new timestamps, and the frame owner table takes the new owner (R152, R153). -/
def State.setOwner (s : State) (g own : Nat) : State :=
  let lo := g * 2 ^ 21
  let hi := lo + 2 ^ 21
  match (s.dropTlb (fun e => decide (e.bk = 0) && decide (e.pa < hi) && decide (lo < e.pa + e.size))).settleAll with
  | .error (.hold s _) | .error (.trap s _ _ _) => s
  | .ok s =>
    if !s.linesReady (lo / 128) (hi / 128) then s.recallLines (lo / 128) (hi / 128)
    else
      let s := (s.bumpLines (lo / 128) (hi / 128)).zeroBytes (kLpddr lo) (kLpddr hi)
      ({ s with tabs := { s.tabs with owners := Tbl.set none s.tabs.owners g (if natBit own 7 then some (own % 16) else none) } }).blockDone 0 0

/-- `set granule owner` (R153, R208): OP 3. -/
def execSetGranuleOwner (s : State) : Host.Outcome State Fault Refusal := .next (s.trCommand 3 (fun s => s.setOwner s.trVa s.trOwn))

/-! Checkpoint commands (R208, R229, R230). -/

def State.ckOp (s : State) : Nat := s.blockField 1 0 1
def State.ckTen (s : State) : Nat := s.blockField 1 1 1
def State.ckSafe (s : State) : Nat := s.blockField 1 8 8

/-- Is SAFE a domain address of a partner module, or a pool address, which a page of the tenant's first address space maps (R208, R229; log 90)? -/
def State.safeGood (s : State) (t safe : Nat) : Except Stop (State × Bool) :=
  match s.region none (BitVec.ofNat 64 safe) with
  | .remote => .ok (s, true)
  | .paged va => do
    let (s, e) ← s.walk t 0 va .load
    pure (s, match e with | some e => decide (e.bk = 2) | none => false)
  | _ => .ok (s, false)

/-- Do the fields keep their limits, but for the place that SAFE names (R208)? -/
def State.ckGood (s : State) : Bool :=
  s.blockZero 1 2 8 && s.blockZero 1 16 40 && s.tenGood s.ckTen &&
    (if s.ckOp = 1 then decide (s.ckSafe % 2 ^ 30 = 0) else decide (s.ckOp = 2) && decide (s.ckSafe = 0))

/-- Is the byte one of the tenant's frames or of its pinned region? -/
def State.ownsByte (s : State) (t k : Nat) : Bool :=
  (decide (k < space 1) && decide (s.frameOwner k = some t)) || (decide (kPkg t 0 ≤ k) && decide (k < kPkg (t + 1) 0))

/-- The entry of `to_` at the rank that `a` has in `from_`; `a` itself where it has none. -/
def byRank (from_ to_ : List Nat) (a : Nat) : Nat :=
  match from_.idxOf? a with
  | some k => to_.getD k a
  | none => a

/-- A core by its cluster's rank. -/
def coreByRank (f : Nat → Nat) (n : Nat) : Nat := 16 * f (clusterOf n) + n % 16

/-- A key of the image at its place now: a scratchpad by its cluster's rank, a frame by the rank of its granule. -/
def keyByRank (f g : Nat → Nat) (k : Nat) : Nat :=
  if k < space 1 then 2 ^ 21 * g (k / 2 ^ 21) + k % 2 ^ 21
  else if space 3 ≤ k ∧ k < space 4 then kPad (coreByRank f ((k - space 3) / 2 ^ 18)) ((k - space 3) % 2 ^ 18)
  else k

/-- A copy command of the image at its place now. -/
def Cmd.byRank (c : Cmd) (f : Nat → Nat) : Cmd :=
  { c with core := c.core.map (coreByRank f), refs := c.refs.map (fun r => 32 * f (r / 32) + r % 32) }

/-- A cluster of the image at its place now. -/
def Cluster.byRank (k : Cluster) (f : Nat → Nat) : Cluster :=
  { k with
    lwait := k.lwait.map (coreByRank f)
    relFrom := k.relFrom.map (coreByRank f)
    eng := { k.eng with
      cur := k.eng.cur.map (fun c => c.byRank f), shd := k.eng.shd.map (fun c => c.byRank f), queue := k.eng.queue.map (fun c => c.byRank f) } }

/-- A context with each cluster's block at the cluster of the same rank (R218). -/
def Ctx.byRank (x : Ctx) (f : Nat → Nat) : Ctx :=
  { cores := x.cores.map (fun p => (coreByRank f p.1, p.2))
    clusters := x.clusters.map (fun p => (f p.1, p.2.byRank f))
    pads := x.pads.map (fun p => (coreByRank f p.1, p.2))
    poison := x.poison.map (fun w => keyByRank f id (8 * w) / 8)
    engines := x.engines.map (fun p => (p.1, p.2.map (fun c => c.byRank f)))
    msgs := x.msgs.map (fun m => { m with src := coreByRank f m.src, dst := coreByRank f m.dst }) }

/-- Do the words in a capsule's text window have the digest of its entry? The image holds no native body (R229): one that does not stand here is
void, and its first use rebuilds it (DEDUCED, log 109). -/
def State.bodyStands (s : State) (c : Nat) (e : Caps) : Bool :=
  decide (Config.sm3 (s.mem.readBytes (kText (textBase c)) (4 * e.nins)) = e.digest)

/-- Put an image back: the tenant's frames and pinned region, its context area, and its capsules, void where GEN or FW differ (R230). A context
block stands at its cluster's rank (R218), and so do the frames' bytes at their granules' (DEDUCED, log 108). -/
def State.restoreImage (s : State) (t : Nat) (i : Image) : State :=
  let f := byRank i.clusters (s.maskOf t)
  let g := byRank i.frames (s.framesOf t)
  let lines := (s.home.llc.filter (fun l => s.ownsByte t (l.line * 128))).map LlcLine.line
  let s := lines.foldl (fun s n => s.bumpLines n (n + 1)) s
  let s := s.setMem (s.mem.filter (fun e => !s.ownsByte t e.1))
  let s := i.bytes.foldl (fun s e => s.setMem (s.mem.put (keyByRank f g e.1) e.2)) s
  let s := { s with disp := { s.disp with ctxs := Tbl.set Ctx.empty s.disp.ctxs t (i.ctx.byRank f) } }
  i.caps.foldl (fun s e =>
    let c : Caps := { e.2 with rb := false }
    let c := if c.st = .sealed ∧ (c.fw ≠ s.tabs.fw ∨ c.gen ≠ s.tabs.gen ∨ !s.bodyStands e.1 c) then { c with st := .void } else c
    (s.dropJob (some e.1)).updCap e.1 (fun _ => c)) s

/-- Do an image's digest and signature hold (R229, R230)? -/
def Image.signed (i : Image) : Bool := decide (i.digest = imageDigest i.bytes i.ctx i.caps) && decide (i.sig = Config.sm2Sign i.digest)

/-- Has an image the tenant's shape: the cluster count, the LPDDR size and the modules of the domain (R230)? -/
def State.shapeFits (s : State) (t : Nat) (i : Image) : Bool :=
  decide (i.ten = t) && decide (i.clusters.length = (s.maskOf t).length) && decide (i.frames.length = (s.framesOf t).length) && decide (i.shape = s.tabs.domain)

/-- Restore an image, once the tenant's lines can take new timestamps and no host holds them (R124, R230). -/
def State.restoreWhenReady (s : State) (t : Nat) (i : Image) : State :=
  let mine := s.home.llc.filter (fun l => s.ownsByte t (l.line * 128))
  if mine.all (fun l => s.linesReady l.line (l.line + 1)) then (s.restoreImage t i).blockDone 1 0
  else mine.foldl (fun s l => s.recallLines l.line (l.line + 1)) s

/-- `checkpoint restore` (R208, R230): OP 1, from the image at a safe-tier address; one the safe tier does not hold fails its digest. -/
def execCheckpointRestore (s : State) : Host.Outcome State Fault Refusal :=
  .next (if !s.blockPending 1 ∨ s.ckOp = 2 then s
    else if !s.ckGood then s.blockDone 1 5
    else
      match s.safeGood s.ckTen s.ckSafe with
      | .error (.hold s _) | .error (.trap s _ _ _) => s
      | .ok (s, false) => s.blockDone 1 5
      | .ok (s, true) =>
        if s.launching s.ckTen then s.blockDone 1 3
        else
          match s.tabs.images.find? (fun i => decide (i.safe.toNat = s.ckSafe)) with
          | none => s.blockDone 1 1
          | some i => if !i.signed then s.blockDone 1 1 else if !s.shapeFits s.ckTen i then s.blockDone 1 2 else s.restoreWhenReady s.ckTen i)

/-- `checkpoint take` (R208, R229): OP 2 orders a checkpoint at the tenant's next edge; the command ends with the stream. -/
def execCheckpointTake (s : State) : Host.Outcome State Fault Refusal :=
  .next (if !s.blockPending 1 ∨ s.ckOp ≠ 2 then s
    else if !s.ckGood then s.blockDone 1 5
    else (s.setCkpt s.ckTen { s.ckpt s.ckTen with ordered := true }).blockStart 1 s.ckTen)

/-! Firmware commands (R208, R231). -/

/-- `firmware update` (R208, R231): OP 1 schedules the update for the next edge; a module in boot ROM makes it at once. -/
def execFirmwareUpdate (s : State) : Host.Outcome State Fault Refusal :=
  .next (if !s.blockPending 2 then s
    else
      let img := s.blockField 2 8 8
      let len := s.blockField 2 16 8
      if s.blockField 2 0 1 ≠ 1 ∨ !s.blockZero 2 1 8 ∨ !s.blockZero 2 24 40 ∨ img % 4096 ≠ 0 ∨ len = 0 ∨ 2 ^ 28 < len ∨ 2 ^ 40 < img + len then s.blockDone 2 1
      else if s.tabs.bootRom then
        if s.installing || s.journalFull then s
        else match s.fwFetch img len with
        | .error (.hold s _) | .error (.trap s _ _ _) => s
        | .ok s => (s.blockStart 2 0).firmware img len s.time.gtc
      else { (s.blockStart 2 0) with tabs := { (s.blockStart 2 0).tabs with fwPend := some (BitVec.ofNat 64 img, BitVec.ofNat 64 len) } })

/-! Decode tables (R50, R52, R223). -/

/-- The base opcodes of R39. -/
def baseOpcodes : List Nat := [0x03, 0x0F, 0x13, 0x17, 0x1B, 0x23, 0x33, 0x37, 0x3B, 0x63, 0x67, 0x6F, 0x73]

/-- V of table 0 at an index (R44, R50). R50 gives V = 1 at the indices of R44, whose header for custom-2 counts 728 to 735 while its cells leave
734 and 735, funct3 110 and 111, without an encoding: V is 0 there, so that a table that names them is refused (DESIGN CHOICE, log 91). -/
def zeroTableV (i : Nat) : Bool :=
  let o := i / 8
  baseOpcodes.contains o || decide (o = 0x0B) || decide (o = 0x2B) || (decide (o = 0x5B) && decide (i % 8 < 6)) || decide (o = 0x7B)

/-- The entries at an LPDDR address: 1,024 of 16 bits, the reserved bits dropped; indices whose opcode does not end in 11 have V = 0 (R51). -/
def State.tableAt (s : State) (a : Nat) : List (BitVec 16) :=
  (List.range 1024).map (fun i =>
    let e := BitVec.ofNat 16 (s.mem.read (kLpddr (a + 2 * i)) 2) &&& 0x83FF#16
    if i / 8 % 4 = 3 then e else e &&& 0x7FFF#16)

/-- Does a table keep R52? -/
def tableGood (t : List (BitVec 16)) : Bool := t.all (fun e => !e.getLsbD 15 || zeroTableV (e.extractLsb' 0 10).toNat)

/-- Is a table in use (R223)? -/
def State.tableUsed (s : State) (ten n : Nat) : Bool :=
  let core (c : Core) : Bool := (match c.task with | some k => decide (k.ten = ten) && !k.idle | none => false) && decide (c.csr.dsel.toNat = n)
  s.tabs.caps.any (fun e => decide (e.2.ten = ten) && decide (e.2.dsel.toNat = n) &&
      (match e.2.st with | .installing | .sealed | .void => true | .free | .deleted => false)) ||
    s.cores.any (fun e => core e.2) || (Tbl.get Ctx.empty s.disp.ctxs ten).cores.any (fun e => core e.2)

/-- Set or clear a table; its digest is recorded anew. -/
def State.putTable (s : State) (ten n : Nat) (t : List (BitVec 16)) : State :=
  { s with tabs := { s.tabs with dec := Tbl.set [] s.tabs.dec (16 * ten + n) t, badCfg := removeAll s.tabs.badCfg 3 } }

def State.dtOp (s : State) : Nat := s.blockField 3 0 1
def State.dtNum (s : State) : Nat := s.blockField 3 1 1
def State.dtTen (s : State) : Nat := s.blockField 3 2 1
def State.dtAddr (s : State) : Nat := s.blockField 3 8 8

/-- A command of the block whose fields are out of range is refused with a STATUS that the spec does not give (log 9). -/
def State.dtCommand (s : State) (f : State → State) : State :=
  if (s.dtOp ≠ 1 ∧ s.dtOp ≠ 2) ∨ s.dtNum = 0 ∨ 15 < s.dtNum ∨ 15 < s.dtTen ∨ 2 ^ 40 < s.dtAddr + 2048 then
    let (w, s) := s.freeWord
    s.blockDone 3 w.toNat
  else f s

/-- `decode-table install` (R52, R223): OP 1, from the entries as their homes hold them (R123). -/
def execDecodeTableInstall (s : State) : Host.Outcome State Fault Refusal :=
  .next (if !s.blockPending 3 ∨ s.dtOp = 2 then s
    else s.dtCommand (fun s =>
      match s.homeRange (s.dtAddr / 128) ((s.dtAddr + 2048 + 127) / 128) with
      | .error (.hold s _) | .error (.trap s _ _ _) => s
      | .ok s =>
        let t := s.tableAt s.dtAddr
        if !tableGood t then s.blockDone 3 1
        else if s.tableUsed s.dtTen s.dtNum then s.blockDone 3 2
        else (s.putTable s.dtTen s.dtNum t).blockDone 3 0))

/-- `decode-table remove` (R223): OP 2. -/
def execDecodeTableRemove (s : State) : Host.Outcome State Fault Refusal :=
  .next (if !s.blockPending 3 ∨ s.dtOp ≠ 2 then s
    else s.dtCommand (fun s =>
      if s.tableUsed s.dtTen s.dtNum then s.blockDone 3 2
      else (s.putTable s.dtTen s.dtNum []).blockDone 3 0))

end Sys2Proof.Machine
end

