-- ==== Sys2Proof/Machine/Scalar.lean ====
section
/-! DEFINITION. The integer base: upper immediates, jumps, branches, register operations, multiply and divide, loads and stores (R250 to R261), on cores and on sweep lanes (R160). -/

namespace Sys2Proof.Machine

/-! Jumps and branches (R37, R250, R252, R253). -/

/-- The task-exit address (R250). -/
def taskExit : Word := 0x3E400000000#64

/-- The core's jump retires: a jump to the task-exit address in user mode ends the task (R18, R250). -/
def State.jumped (s : State) (n : Nat) (t : Word) : State :=
  let user := decide ((s.coreAt n).mode = .u)
  let s := s.retireTo n t
  if user && decide (t = taskExit) then s.endTask n else s

/-- A taken branch or jump: cause 0 on a misaligned target, else rd takes the link and the jump retires (R37, R252). -/
def State.jump (s : State) (n : Nat) (rd : BitVec 5) (t : Word) : Except Stop State :=
  if t.toNat % 4 ≠ 0 then trap s 0 t
  else .ok ((s.updCore n (fun c => c.wx rd (c.pc + 4#64))).jumped n t)

/-- A lane's branch: the index moves by the offset in words. R37 and R167 say nothing of an offset that names no word, which install refuses and
only another decode table brings about: it leaves an index past the body, a body fault with FCODE 0x105 (DESIGN CHOICE, log 98). -/
def State.laneJump (s : State) (c j : Nat) (off : Word) : State :=
  match s.passAt c, s.laneAt c j with
  | some p, some l =>
    let t := (4 * l.idx : Int) + off.toInt
    s.laneRetire c j (if t < 0 ∨ t % 4 ≠ 0 then p.words else (t / 4).toNat)
  | _, _ => s

/-- A core takes a branch: cause 0 on a misaligned target, else it retires as taken (R25, R37, R250, R253). -/
def State.takeBranch (s : State) (n : Nat) (t : Word) : Except Stop State :=
  let user := decide ((s.coreAt n).mode = .u)
  if t.toNat % 4 ≠ 0 then trap s 0 t
  else
    let s := s.retireBranch n t true
    .ok (if user && decide (t = taskExit) then s.endTask n else s)

/-- A conditional branch of the acting agent (R253). -/
def branch (taken : Word → Word → Bool) (rs1 rs2 : BitVec 5) (hi : BitVec 7) (lo : BitVec 5) (s : State) : Host.Outcome State Fault Refusal :=
  if taken (s.rx rs1) (s.rx rs2) then
    match s.run.cur with
    | .core n => runAny s (s.takeBranch n ((s.coreAt n).pc + immB hi lo))
    | .lane c j => .next (s.laneJump c j (immB hi lo))
  else .next s.complete

/-- `lui` (R251). -/
def execLui (rd : BitVec 5) (imm : BitVec 20) (s : State) : Host.Outcome State Fault Refusal := .next (s.setRd rd (immU imm))

/-- `auipc` (R251). -/
def execAuipc (rd : BitVec 5) (imm : BitVec 20) (s : State) : Host.Outcome State Fault Refusal :=
  runCore s (fun n => .ok (s.setRd rd ((s.coreAt n).pc + immU imm)))

/-- `jal` (R252); in a body only with rd = x0 (R160). -/
def execJal (rd : BitVec 5) (imm : BitVec 20) (s : State) : Host.Outcome State Fault Refusal :=
  match s.run.cur with
  | .core n => finish n (s.jump n rd ((s.coreAt n).pc + immJ imm))
  | .lane c j => if rd = 0#5 then .next (s.laneJump c j (immJ imm)) else .next (s.laneIllegal c j)

/-- `jalr` (R252): rs1 is read before rd is written. -/
def execJalr (rd rs1 : BitVec 5) (imm : BitVec 12) (s : State) : Host.Outcome State Fault Refusal :=
  runCore s (fun n => do
    let t := ((s.coreAt n).rx rs1 + immI imm) &&& 0xFFFFFFFFFFFFFFFE#64
    let s ← s.jump n rd t
    pure (s.updCore n Core.awaitVector))

/-- `beq` (R253). -/
def execBeq (rs1 rs2 : BitVec 5) (hi : BitVec 7) (lo : BitVec 5) (s : State) : Host.Outcome State Fault Refusal :=
  branch (fun a b => a == b) rs1 rs2 hi lo s

/-- `bne` (R253). -/
def execBne (rs1 rs2 : BitVec 5) (hi : BitVec 7) (lo : BitVec 5) (s : State) : Host.Outcome State Fault Refusal :=
  branch (fun a b => a != b) rs1 rs2 hi lo s

/-- `blt` (R253). -/
def execBlt (rs1 rs2 : BitVec 5) (hi : BitVec 7) (lo : BitVec 5) (s : State) : Host.Outcome State Fault Refusal :=
  branch (fun a b => a.slt b) rs1 rs2 hi lo s

/-- `bge` (R253). -/
def execBge (rs1 rs2 : BitVec 5) (hi : BitVec 7) (lo : BitVec 5) (s : State) : Host.Outcome State Fault Refusal :=
  branch (fun a b => b.sle a) rs1 rs2 hi lo s

/-- `bltu` (R253). -/
def execBltu (rs1 rs2 : BitVec 5) (hi : BitVec 7) (lo : BitVec 5) (s : State) : Host.Outcome State Fault Refusal :=
  branch (fun a b => a.ult b) rs1 rs2 hi lo s

/-- `bgeu` (R253). -/
def execBgeu (rs1 rs2 : BitVec 5) (hi : BitVec 7) (lo : BitVec 5) (s : State) : Host.Outcome State Fault Refusal :=
  branch (fun a b => b.ule a) rs1 rs2 hi lo s

/-! Loads and stores (R257 to R260). -/

/-- A body load reads at its home and changes no clock; windows and the control region are closed (R160, R167). So is memory of another module,
which R160 neither lists nor excludes and which the sweep engine has no way to ask for: FCODE 5 (DESIGN CHOICE, log 101). Whether the completion of a host or pool read reports an error is a free bit (R260; log 9). -/
def State.laneLoad (s : State) (n : Nat) (ea : Word) (size : Nat) : Except Stop (State × List Byte) := do
  let (s, p) ← s.check n ea size size .load
  match p with
  | .cached key =>
    let (s, v) ← s.homeRead key size
    pure (s, natToBytes size v)
  | .scratch core off => pure (s, s.mem.readBytes (kPad core off) size)
  | .cxl key =>
    let (good, s) := s.freeBit
    if good then .ok (s, s.mem.readBytes key size) else trapAcc s .load 5 ea
  | .window _ _ => trapAcc s .load 28 ea
  | .remote _ | .ctrl _ | .nibbles _ _ | .words _ _ | .scaled _ _ _ _ | .row _ => trapAcc s .load 5 ea

/-- A load of `size` bytes, extended by `ext` (R257, R258). -/
def load (size : Nat) (ext : Nat → Word) (rd rs1 : BitVec 5) (imm : BitVec 12) (s : State) : Host.Outcome State Fault Refusal :=
  let ea := s.rx rs1 + immI imm
  runAny s (match s.run.cur with
    | .core n => do
      let (s, l, _) ← s.loadBytes n ea size size 0
      pure (s.setRd rd (ext (bytesToNat l)))
    | .lane _ _ => do
      let (s, l) ← s.laneLoad s.me ea size
      pure (s.setRd rd (ext (bytesToNat l))))

/-- The loaded number sign-extended from `n` bits. -/
def sext (n v : Nat) : Word := (BitVec.ofNat n v).signExtend 64

/-- A store of the low `size` bytes of rs2 (R257, R259). -/
def store (size : Nat) (rs1 rs2 : BitVec 5) (hi : BitVec 7) (lo : BitVec 5) (s : State) : Host.Outcome State Fault Refusal :=
  runCore s (fun n => do
    let c := s.coreAt n
    let s ← s.storeBytes n (c.rx rs1 + immS hi lo) size (natToBytes size (c.rx rs2).toNat)
    pure s.complete)

/-- `lb` (R257). -/
def execLb (rd rs1 : BitVec 5) (imm : BitVec 12) (s : State) : Host.Outcome State Fault Refusal := load 1 (sext 8) rd rs1 imm s

/-- `lh` (R257). -/
def execLh (rd rs1 : BitVec 5) (imm : BitVec 12) (s : State) : Host.Outcome State Fault Refusal := load 2 (sext 16) rd rs1 imm s

/-- `lw` (R257). -/
def execLw (rd rs1 : BitVec 5) (imm : BitVec 12) (s : State) : Host.Outcome State Fault Refusal := load 4 (sext 32) rd rs1 imm s

/-- `ld` (R257). -/
def execLd (rd rs1 : BitVec 5) (imm : BitVec 12) (s : State) : Host.Outcome State Fault Refusal := load 8 (BitVec.ofNat 64) rd rs1 imm s

/-- `lbu` (R257). -/
def execLbu (rd rs1 : BitVec 5) (imm : BitVec 12) (s : State) : Host.Outcome State Fault Refusal := load 1 (BitVec.ofNat 64) rd rs1 imm s

/-- `lhu` (R257). -/
def execLhu (rd rs1 : BitVec 5) (imm : BitVec 12) (s : State) : Host.Outcome State Fault Refusal := load 2 (BitVec.ofNat 64) rd rs1 imm s

/-- `lwu` (R257). -/
def execLwu (rd rs1 : BitVec 5) (imm : BitVec 12) (s : State) : Host.Outcome State Fault Refusal := load 4 (BitVec.ofNat 64) rd rs1 imm s

/-- `sb` (R257). -/
def execSb (rs1 rs2 : BitVec 5) (hi : BitVec 7) (lo : BitVec 5) (s : State) : Host.Outcome State Fault Refusal := store 1 rs1 rs2 hi lo s

/-- `sh` (R257). -/
def execSh (rs1 rs2 : BitVec 5) (hi : BitVec 7) (lo : BitVec 5) (s : State) : Host.Outcome State Fault Refusal := store 2 rs1 rs2 hi lo s

/-- `sw` (R257). -/
def execSw (rs1 rs2 : BitVec 5) (hi : BitVec 7) (lo : BitVec 5) (s : State) : Host.Outcome State Fault Refusal := store 4 rs1 rs2 hi lo s

/-- `sd` (R257). -/
def execSd (rs1 rs2 : BitVec 5) (hi : BitVec 7) (lo : BitVec 5) (s : State) : Host.Outcome State Fault Refusal := store 8 rs1 rs2 hi lo s

/-! Register operations (R254 to R256). -/

/-- 1 or 0. -/
def flagWord (b : Bool) : Word := if b then 1#64 else 0#64

/-- An operation on bits 31:0, sign-extended (R255). -/
def word32 (f : BitVec 32 → BitVec 32 → BitVec 32) (a b : Word) : Word := (f (a.setWidth 32) (b.setWidth 32)).signExtend 64

/-- Signed division truncated toward zero, with the results R256 gives for zero and overflow. -/
def divS {n : Nat} (a b : BitVec n) : BitVec n := if b = 0#n then BitVec.allOnes n else a.sdiv b

/-- Unsigned division; by zero, all ones. -/
def divU {n : Nat} (a b : BitVec n) : BitVec n := if b = 0#n then BitVec.allOnes n else a.udiv b

/-- Signed remainder, with the sign of a; by zero, a. -/
def remS {n : Nat} (a b : BitVec n) : BitVec n := if b = 0#n then a else a.srem b

/-- Unsigned remainder; by zero, a. -/
def remU {n : Nat} (a b : BitVec n) : BitVec n := if b = 0#n then a else a.umod b

/-- Bits 127:64 of a product of integers. -/
def mulHigh (a b : Int) : Word := BitVec.ofInt 64 (a * b / 2 ^ 64)

/-- A register–register operation. -/
def opRR (f : Word → Word → Word) (rd rs1 rs2 : BitVec 5) (s : State) : Host.Outcome State Fault Refusal :=
  .next (s.setRd rd (f (s.rx rs1) (s.rx rs2)))

/-- A register–immediate operation. -/
def opRI (f : Word → Word → Word) (rd rs1 : BitVec 5) (b : Word) (s : State) : Host.Outcome State Fault Refusal :=
  .next (s.setRd rd (f (s.rx rs1) b))

/-- The result of `add` (R254). -/
def aluAdd (a b : Word) : Word := a + b

/-- The result of `sub` (R254). -/
def aluSub (a b : Word) : Word := a - b

/-- The result of `sll` (R254). -/
def aluSll (a b : Word) : Word := a <<< (b.toNat % 64)

/-- The result of `slt` (R254). -/
def aluSlt (a b : Word) : Word := flagWord (a.slt b)

/-- The result of `sltu` (R254). -/
def aluSltu (a b : Word) : Word := flagWord (a.ult b)

/-- The result of `xor` (R254). -/
def aluXor (a b : Word) : Word := a ^^^ b

/-- The result of `srl` (R254). -/
def aluSrl (a b : Word) : Word := a >>> (b.toNat % 64)

/-- The result of `sra` (R254). -/
def aluSra (a b : Word) : Word := a.sshiftRight (b.toNat % 64)

/-- The result of `or` (R254). -/
def aluOr (a b : Word) : Word := a ||| b

/-- The result of `and` (R254). -/
def aluAnd (a b : Word) : Word := a &&& b

/-- The result of `addw` (R255). -/
def aluAddw (a b : Word) : Word := word32 (fun a b => a + b) a b

/-- The result of `subw` (R255). -/
def aluSubw (a b : Word) : Word := word32 (fun a b => a - b) a b

/-- The result of `sllw` (R255). -/
def aluSllw (a b : Word) : Word := word32 (fun a b => a <<< (b.toNat % 32)) a b

/-- The result of `srlw` (R255). -/
def aluSrlw (a b : Word) : Word := word32 (fun a b => a >>> (b.toNat % 32)) a b

/-- The result of `sraw` (R255). -/
def aluSraw (a b : Word) : Word := word32 (fun a b => a.sshiftRight (b.toNat % 32)) a b

/-- The result of `mul` (R256). -/
def aluMul (a b : Word) : Word := a * b

/-- The result of `mulh` (R256). -/
def aluMulh (a b : Word) : Word := mulHigh a.toInt b.toInt

/-- The result of `mulhsu` (R256). -/
def aluMulhsu (a b : Word) : Word := mulHigh a.toInt b.toNat

/-- The result of `mulhu` (R256). -/
def aluMulhu (a b : Word) : Word := mulHigh a.toNat b.toNat

/-- The result of `div` (R256). -/
def aluDiv (a b : Word) : Word := divS a b

/-- The result of `divu` (R256). -/
def aluDivu (a b : Word) : Word := divU a b

/-- The result of `rem` (R256). -/
def aluRem (a b : Word) : Word := remS a b

/-- The result of `remu` (R256). -/
def aluRemu (a b : Word) : Word := remU a b

/-- The result of `mulw` (R256). -/
def aluMulw (a b : Word) : Word := word32 (fun a b => a * b) a b

/-- The result of `divw` (R256). -/
def aluDivw (a b : Word) : Word := word32 (fun a b => divS a b) a b

/-- The result of `divuw` (R256). -/
def aluDivuw (a b : Word) : Word := word32 (fun a b => divU a b) a b

/-- The result of `remw` (R256). -/
def aluRemw (a b : Word) : Word := word32 (fun a b => remS a b) a b

/-- The result of `remuw` (R256). -/
def aluRemuw (a b : Word) : Word := word32 (fun a b => remU a b) a b

/-- `add` (R254). -/
def execAdd (rd rs1 rs2 : BitVec 5) (s : State) : Host.Outcome State Fault Refusal := opRR aluAdd rd rs1 rs2 s

/-- `sub` (R254). -/
def execSub (rd rs1 rs2 : BitVec 5) (s : State) : Host.Outcome State Fault Refusal := opRR aluSub rd rs1 rs2 s

/-- `sll` (R254). -/
def execSll (rd rs1 rs2 : BitVec 5) (s : State) : Host.Outcome State Fault Refusal := opRR aluSll rd rs1 rs2 s

/-- `slt` (R254). -/
def execSlt (rd rs1 rs2 : BitVec 5) (s : State) : Host.Outcome State Fault Refusal := opRR aluSlt rd rs1 rs2 s

/-- `sltu` (R254). -/
def execSltu (rd rs1 rs2 : BitVec 5) (s : State) : Host.Outcome State Fault Refusal := opRR aluSltu rd rs1 rs2 s

/-- `xor` (R254). -/
def execXor (rd rs1 rs2 : BitVec 5) (s : State) : Host.Outcome State Fault Refusal := opRR aluXor rd rs1 rs2 s

/-- `srl` (R254). -/
def execSrl (rd rs1 rs2 : BitVec 5) (s : State) : Host.Outcome State Fault Refusal := opRR aluSrl rd rs1 rs2 s

/-- `sra` (R254). -/
def execSra (rd rs1 rs2 : BitVec 5) (s : State) : Host.Outcome State Fault Refusal := opRR aluSra rd rs1 rs2 s

/-- `or` (R254). -/
def execOr (rd rs1 rs2 : BitVec 5) (s : State) : Host.Outcome State Fault Refusal := opRR aluOr rd rs1 rs2 s

/-- `and` (R254). -/
def execAnd (rd rs1 rs2 : BitVec 5) (s : State) : Host.Outcome State Fault Refusal := opRR aluAnd rd rs1 rs2 s

/-- `addw` (R255). -/
def execAddw (rd rs1 rs2 : BitVec 5) (s : State) : Host.Outcome State Fault Refusal := opRR aluAddw rd rs1 rs2 s

/-- `subw` (R255). -/
def execSubw (rd rs1 rs2 : BitVec 5) (s : State) : Host.Outcome State Fault Refusal := opRR aluSubw rd rs1 rs2 s

/-- `sllw` (R255). -/
def execSllw (rd rs1 rs2 : BitVec 5) (s : State) : Host.Outcome State Fault Refusal := opRR aluSllw rd rs1 rs2 s

/-- `srlw` (R255). -/
def execSrlw (rd rs1 rs2 : BitVec 5) (s : State) : Host.Outcome State Fault Refusal := opRR aluSrlw rd rs1 rs2 s

/-- `sraw` (R255). -/
def execSraw (rd rs1 rs2 : BitVec 5) (s : State) : Host.Outcome State Fault Refusal := opRR aluSraw rd rs1 rs2 s

/-- `mul` (R256). -/
def execMul (rd rs1 rs2 : BitVec 5) (s : State) : Host.Outcome State Fault Refusal := opRR aluMul rd rs1 rs2 s

/-- `mulh` (R256). -/
def execMulh (rd rs1 rs2 : BitVec 5) (s : State) : Host.Outcome State Fault Refusal := opRR aluMulh rd rs1 rs2 s

/-- `mulhsu` (R256). -/
def execMulhsu (rd rs1 rs2 : BitVec 5) (s : State) : Host.Outcome State Fault Refusal := opRR aluMulhsu rd rs1 rs2 s

/-- `mulhu` (R256). -/
def execMulhu (rd rs1 rs2 : BitVec 5) (s : State) : Host.Outcome State Fault Refusal := opRR aluMulhu rd rs1 rs2 s

/-- `div` (R256). -/
def execDiv (rd rs1 rs2 : BitVec 5) (s : State) : Host.Outcome State Fault Refusal := opRR aluDiv rd rs1 rs2 s

/-- `divu` (R256). -/
def execDivu (rd rs1 rs2 : BitVec 5) (s : State) : Host.Outcome State Fault Refusal := opRR aluDivu rd rs1 rs2 s

/-- `rem` (R256). -/
def execRem (rd rs1 rs2 : BitVec 5) (s : State) : Host.Outcome State Fault Refusal := opRR aluRem rd rs1 rs2 s

/-- `remu` (R256). -/
def execRemu (rd rs1 rs2 : BitVec 5) (s : State) : Host.Outcome State Fault Refusal := opRR aluRemu rd rs1 rs2 s

/-- `mulw` (R256). -/
def execMulw (rd rs1 rs2 : BitVec 5) (s : State) : Host.Outcome State Fault Refusal := opRR aluMulw rd rs1 rs2 s

/-- `divw` (R256). -/
def execDivw (rd rs1 rs2 : BitVec 5) (s : State) : Host.Outcome State Fault Refusal := opRR aluDivw rd rs1 rs2 s

/-- `divuw` (R256). -/
def execDivuw (rd rs1 rs2 : BitVec 5) (s : State) : Host.Outcome State Fault Refusal := opRR aluDivuw rd rs1 rs2 s

/-- `remw` (R256). -/
def execRemw (rd rs1 rs2 : BitVec 5) (s : State) : Host.Outcome State Fault Refusal := opRR aluRemw rd rs1 rs2 s

/-- `remuw` (R256). -/
def execRemuw (rd rs1 rs2 : BitVec 5) (s : State) : Host.Outcome State Fault Refusal := opRR aluRemuw rd rs1 rs2 s

/-- `addi` (R254). -/
def execAddi (rd rs1 : BitVec 5) (imm : BitVec 12) (s : State) : Host.Outcome State Fault Refusal :=
  opRI aluAdd rd rs1 (immI imm) s

/-- `slti` (R254). -/
def execSlti (rd rs1 : BitVec 5) (imm : BitVec 12) (s : State) : Host.Outcome State Fault Refusal :=
  opRI aluSlt rd rs1 (immI imm) s

/-- `sltiu` (R254). -/
def execSltiu (rd rs1 : BitVec 5) (imm : BitVec 12) (s : State) : Host.Outcome State Fault Refusal :=
  opRI aluSltu rd rs1 (immI imm) s

/-- `xori` (R254). -/
def execXori (rd rs1 : BitVec 5) (imm : BitVec 12) (s : State) : Host.Outcome State Fault Refusal :=
  opRI aluXor rd rs1 (immI imm) s

/-- `ori` (R254). -/
def execOri (rd rs1 : BitVec 5) (imm : BitVec 12) (s : State) : Host.Outcome State Fault Refusal :=
  opRI aluOr rd rs1 (immI imm) s

/-- `andi` (R254). -/
def execAndi (rd rs1 : BitVec 5) (imm : BitVec 12) (s : State) : Host.Outcome State Fault Refusal :=
  opRI aluAnd rd rs1 (immI imm) s

/-- `addiw` (R255). -/
def execAddiw (rd rs1 : BitVec 5) (imm : BitVec 12) (s : State) : Host.Outcome State Fault Refusal :=
  opRI aluAddw rd rs1 (immI imm) s

/-- `slli` (R254). -/
def execSlli (rd rs1 : BitVec 5) (sh : BitVec 6) (s : State) : Host.Outcome State Fault Refusal :=
  opRI aluSll rd rs1 (sh.setWidth 64) s

/-- `srli` (R254). -/
def execSrli (rd rs1 : BitVec 5) (sh : BitVec 6) (s : State) : Host.Outcome State Fault Refusal :=
  opRI aluSrl rd rs1 (sh.setWidth 64) s

/-- `srai` (R254). -/
def execSrai (rd rs1 : BitVec 5) (sh : BitVec 6) (s : State) : Host.Outcome State Fault Refusal :=
  opRI aluSra rd rs1 (sh.setWidth 64) s

/-- `slliw` (R255). -/
def execSlliw (rd rs1 : BitVec 5) (sh : BitVec 5) (s : State) : Host.Outcome State Fault Refusal :=
  opRI aluSllw rd rs1 (sh.setWidth 64) s

/-- `srliw` (R255). -/
def execSrliw (rd rs1 : BitVec 5) (sh : BitVec 5) (s : State) : Host.Outcome State Fault Refusal :=
  opRI aluSrlw rd rs1 (sh.setWidth 64) s

/-- `sraiw` (R255). -/
def execSraiw (rd rs1 : BitVec 5) (sh : BitVec 5) (s : State) : Host.Outcome State Fault Refusal :=
  opRI aluSraw rd rs1 (sh.setWidth 64) s

end Sys2Proof.Machine
end

