-- ==== Sys2Proof/Machine/Vector.lean ====
section
/-! DEFINITION. Custom-0: vector arithmetic, compares, masks, permutes, reductions, scans, conversions and repetition, with stall counts and the checking scoreboard (R46 to R48, R273 to R290). -/

namespace Sys2Proof.Machine

/-! An operation of the vector unit. Registers 0 to 31 are v registers; 32 to 39 are masks, in bits 63:0. -/

/-- What a custom-0 word does: its latency, the registers it reads besides the selected mask, the registers it writes, whether
it decides its elements with Active, and its results for the registers and CSRs of a core. -/
structure VInst where
  lat : Nat
  reads : List Nat
  writes : List Nat
  masked : Bool
  run : Core → List (Nat × BitVec 512)
  /-- Steps of the stochastic generator it makes (R109). -/
  steps : Core → Nat

/-- A register as 512 bits. -/
def Core.vreg (c : Core) (g : Nat) : BitVec 512 := if g < 32 then c.v.getD g 0#512 else (c.m.getD (g - 32) 0#64).setWidth 512

/-- Set a register. -/
def Core.setVreg (c : Core) (g : Nat) (w : BitVec 512) : Core :=
  if g < 32 then { c with v := c.v.setIfInBounds g w } else { c with m := c.m.setIfInBounds (g - 32) (w.setWidth 64) }

/-- Every register that a word reads or writes when it issues (R48): the mask that vmsel selects counts (R273). While vmsel.ALL is 1 no mask is
consulted and none counts; R273 has no case for it (DESIGN CHOICE, log 86). -/
def VInst.touches (v : VInst) (c : Core) : List Nat :=
  v.reads ++ v.writes ++ (if v.masked && !c.csr.vmsel.getLsbD 3 then [32 + (c.csr.vmsel.extractLsb' 0 3).toNat] else [])

/-- The last earlier custom-0 write of a register, when it is not yet done at cycle `t` (R48); the newest stand first. -/
def Core.inFlight (c : Core) (g t : Nat) : Option VPend := (c.vpend.find? (fun p => decide (p.reg = g))).filter (fun p => decide (t < p.fin))

/-- Is some write of the register still to come at cycle `t`? -/
def Core.unsettled (c : Core) (g t : Nat) : Bool := c.vpend.any (fun p => decide (p.reg = g) && decide (t < p.fin))

/-- Is some write still to come? -/
def Core.overlaps (c : Core) (t : Nat) : Bool := c.vpend.any (fun p => decide (t < p.fin))

/-- The later of two writes that are done; the first of a tie. -/
def laterDone (o : Option VPend) (p : VPend) : Option VPend :=
  match o with
  | some q => if q.fin < p.fin then some p else some q
  | none => some p

/-- What a register holds at cycle `t`: the result that was written last, or, while none of those listed is written, what it held before them.
The register file itself holds what stands in the end. -/
def Core.vview (c : Core) (g t : Nat) : BitVec 512 :=
  if !c.unsettled g t then c.vreg g
  else
    let mine := c.vpend.filter (fun p => decide (p.reg = g))
    match (mine.filter (fun p => decide (p.fin ≤ t) && !p.lost)).foldl laterDone none with
    | some p => p.new
    | none => match mine.getLast? with | some p => p.old | none => c.vreg g

/-- Does the word underrun at cycle `t`? -/
def VInst.underruns (v : VInst) (c : Core) (t : Nat) : Bool := (v.touches c).any (fun g => (c.inFlight g t).isSome)

/-- The registers as a word may read them while writes are still to come: where the last writer is not done, its result or what the register
held before (R48; log 9), else what it holds. -/
def Core.glimpse (c : Core) (t free : Nat) (l : List Nat) : Core :=
  (l.zipIdx).foldl (fun k p =>
    match c.inFlight p.1 t with
    | some q => k.setVreg p.1 (if Config.freeBit (free + p.2) then q.old else q.new)
    | none => k.setVreg p.1 (c.vview p.1 t)) c

/-- Write one result, done at cycle `fin`. Of the writes of a register that are still to come, the one that is done last stands in the end; of two
done in one cycle either (R48; log 9). -/
def Core.vwrite (c : Core) (t fin free : Nat) (r : Nat × BitVec 512) : Core :=
  let last := (c.vpend.filter (fun p => decide (p.reg = r.1) && decide (t < p.fin))).foldl (fun m p => max m p.fin) 0
  let lost := decide (last = fin) && Config.freeBit free
  let ties (p : VPend) : VPend := if p.reg = r.1 ∧ p.fin = fin ∧ !lost then { p with lost := true } else p
  let e : VPend := ⟨r.1, fin, c.vview r.1 t, r.2, lost⟩
  { (if fin < last ∨ lost then c else c.setVreg r.1 r.2) with vpend := e :: c.vpend.map ties }

/-- Registers whose writes are all done by cycle `t` have none in flight. -/
def Core.vprune (c : Core) (t : Nat) : Core := { c with vpend := c.vpend.filter (fun p => c.unsettled p.reg t) }

/-- Issue a word at the earliest cycle that R46 allows from `now` on; `none` when it underruns and scbchk.EN is 1. The answer
counts the free bits used. -/
def Core.issue (c : Core) (v : VInst) (stall now free : Nat) : Option (Core × Nat) :=
  let t := max now c.vnext
  let bad := v.underruns c t
  if bad && c.csr.scbchk.getLsbD 0 then none
  else
    let seen := if c.overlaps t then c.glimpse t free (v.touches c) else c
    let res := v.run seen
    let sr := if v.steps c = 0 then c.csr.srstate else srSteps c.csr.srstate (v.steps c)
    let k := res.foldl (fun k r => k.vwrite t (t + v.lat) (free + 64 + r.1) r) (c.vprune t)
    some ({ k with vnext := t + 1 + stall, csr := { k.csr with srstate := sr } }, if bad then free + 128 else free)

/-- A custom-0 instruction of the acting core: it issues and retires, or raises cause 24 (R46, R48). -/
def custom0 (v : VInst) (stall : BitVec 3) (s : State) : Host.Outcome State Fault Refusal :=
  runCore s (fun n =>
    match (s.coreAt n).issue v stall.toNat s.time.gtc s.run.free with
    | none => trap s 24 s.word
    | some (c, free) => .ok ({ s.setCore n c with run := { s.run with free := free } }).complete)

/-! Shapes of operations (R273, R274). -/

/-- Steps of the generator: none. -/
def noSteps (_ : Core) : Nat := 0

/-- Active lanes take `f a b d` of the lanes of vs1, vs2 and vd; the others keep theirs. -/
def lanes32 (lat : Nat) (f : Core → BitVec 32 → BitVec 32 → BitVec 32 → BitVec 32) (rd rs1 rs2 : BitVec 5) : VInst where
  lat := lat
  reads := [rs1.toNat, rs2.toNat]
  writes := [rd.toNat]
  masked := true
  run := fun c =>
    let a := c.rv rs1; let b := c.rv rs2; let d := c.rv rd
    [(rd.toNat, vmake (fun j => if c.active j then f c (vlane a j) (vlane b j) (vlane d j) else vlane d j))]
  steps := noSteps

/-- As `lanes32`, with vs1 only. -/
def unary32 (lat : Nat) (f : Core → BitVec 32 → BitVec 32) (rd rs1 : BitVec 5) : VInst where
  lat := lat
  reads := [rs1.toNat]
  writes := [rd.toNat]
  masked := true
  run := fun c =>
    let a := c.rv rs1; let d := c.rv rd
    [(rd.toNat, vmake (fun j => if c.active j then f c (vlane a j) else vlane d j))]
  steps := noSteps

/-- Active elements of width `w` take `f a b d`. -/
def packed (w lat : Nat) (f : Core → Nat → Nat → Nat → Nat) (rd rs1 rs2 : BitVec 5) : VInst where
  lat := lat
  reads := [rs1.toNat, rs2.toNat]
  writes := [rd.toNat]
  masked := true
  run := fun c =>
    let a := c.rv rs1; let b := c.rv rs2; let d := c.rv rd
    [(rd.toNat, vmakeW w (fun e => if c.active e then f c (velem a w e) (velem b w e) (velem d w e) else velem d w e))]
  steps := noSteps

/-- Active lanes rearranged: lane j takes lane `f b j` of vs1, where b is lane j of vs2. -/
def permute (f : BitVec 32 → Nat → Nat) (rs2 : List Nat) (rd rs1 : BitVec 5) : VInst where
  lat := 2
  reads := rs1.toNat :: rs2
  writes := [rd.toNat]
  masked := true
  run := fun c =>
    let a := c.rv rs1; let d := c.rv rd
    let b := match rs2 with | r :: _ => c.vreg r | [] => 0#512
    [(rd.toNat, vmake (fun j => if c.active j then vlane a (f (vlane b j) j) else vlane d j))]
  steps := noSteps

/-- A compare: bit j for each active lane, kept for the others, bits 63:16 clear (R282). -/
def compare32 (f : Core → BitVec 32 → BitVec 32 → Bool) (rd rs1 : BitVec 5) (rs2 : List Nat) : VInst where
  lat := 1
  reads := rs1.toNat :: rs2
  writes := [32 + rd.toNat]
  masked := true
  run := fun c =>
    let a := c.rv rs1
    let b := match rs2 with | r :: _ => c.vreg r | [] => 0#512
    let old := c.rm rd.toNat
    let m := (List.range 16).foldl (fun (k : Nat) j =>
      k + if (if c.active j then f c (vlane a j) (vlane b j) else old.getLsbD j) then 2 ^ j else 0) 0
    [(32 + rd.toNat, BitVec.ofNat 512 m)]
  steps := noSteps

/-- Mask logic: all 64 bits, whatever vmsel holds (R282). -/
def maskOp (f : Word → Word → Word) (rd rs1 rs2 : BitVec 5) : VInst where
  lat := 1
  reads := [32 + rs1.toNat, 32 + rs2.toNat]
  writes := [32 + rd.toNat]
  masked := false
  run := fun c => [(32 + rd.toNat, (f (c.rm rs1.toNat) (c.rm rs2.toNat)).setWidth 512)]
  steps := noSteps

/-- The fixed tree of a reduction: neighbours are combined, level by level (R284). -/
def treeFold (f : BitVec 32 → BitVec 32 → BitVec 32) : Nat → (Nat → BitVec 32) → Nat → BitVec 32
  | 0, g, i => g i
  | k + 1, g, i => f (treeFold f k g (2 * i)) (treeFold f k g (2 * i + 1))

/-- A reduction into lane 0, the other lanes 0; an inactive lane contributes the identity (R284). -/
def reduce (f : Core → BitVec 32 → BitVec 32 → BitVec 32) (id : BitVec 32) (rd rs1 : BitVec 5) : VInst where
  lat := 6
  reads := [rs1.toNat]
  writes := [rd.toNat]
  masked := true
  run := fun c => [(rd.toNat, (treeFold (f c) 4 (fun j => if c.active j then vlane (c.rv rs1) j else id) 0).setWidth 512)]
  steps := noSteps

/-- A scan through the active lanes in ascending order (R285). -/
def scan (f : Core → BitVec 32 → BitVec 32 → BitVec 32) (start : BitVec 32) (rd rs1 : BitVec 5) : VInst where
  lat := 8
  reads := [rs1.toNat]
  writes := [rd.toNat]
  masked := true
  run := fun c =>
    let a := c.rv rs1; let d := c.rv rd
    let r := (List.range 16).foldl (fun (p : BitVec 32 × List (BitVec 32)) j =>
      if c.active j then let t := f c p.1 (vlane a j); (t, p.2 ++ [t]) else (p.1, p.2 ++ [vlane d j])) (start, [])
    [(rd.toNat, vmake (fun j => r.2.getD j 0#32))]
  steps := noSteps

/-! Integer elements. -/

/-- Clamp a signed result to `w` bits. -/
def clampS (w : Nat) (i : Int) : Nat := intBits w (clampInt i (-(2 ^ (w - 1) : Nat)) ((2 ^ (w - 1) : Nat) - 1)).1

/-! Floating elements (R277). -/

/-- The result of an exact value under the core's modes. -/
def fround (c : Core) (f : Fmt) (x : Num) : Nat := (f.encode c.modes x).1

/-- An input, FTZ applied. -/
def finput (c : Core) (f : Fmt) (raw : Nat) : Num := f.decodeFtz c.modes.ftz raw

/-- Is the mode rounding down? -/
def rdown (c : Core) : Bool := decide (c.modes.round = .rdn)

def fadd (c : Core) (f : Fmt) (a b : Nat) : Nat := fround c f (Num.add (rdown c) (finput c f a) (finput c f b))
def fsub (c : Core) (f : Fmt) (a b : Nat) : Nat := fround c f (Num.add (rdown c) (finput c f a) (finput c f b).neg)
def fmul (c : Core) (f : Fmt) (a b : Nat) : Nat := fround c f (Num.mul (finput c f a) (finput c f b))
/-- c + a × b, one rounding. -/
def ffma (c : Core) (f : Fmt) (a b d : Nat) : Nat :=
  fround c f (Num.add (rdown c) (finput c f d) (Num.mul (finput c f a) (finput c f b)))
/-- a × b − c, one rounding. -/
def ffms (c : Core) (f : Fmt) (a b d : Nat) : Nat :=
  fround c f (Num.add (rdown c) (Num.mul (finput c f a) (finput c f b)) (finput c f d).neg)

/-- The sign of a number. -/
def Num.sign (a : Num) : Bool :=
  match a with
  | .nan => false
  | .inf s => s
  | .fin s _ _ => s

/-- The smaller (or, with `big`, the larger) of two numbers: −0 counts below +0, and a NaN gives the other operand (R280). -/
def pick (big : Bool) (x y : Num) : Num :=
  if x.isNan then y
  else if y.isNan then x
  else if Num.lt x y then (if big then y else x)
  else if Num.lt y x then (if big then x else y)
  else if x.sign = big then y else x

/-- Minimum or maximum of two codes; nothing is rounded, and FTZ applies to the inputs (R280). -/
def fpick (big : Bool) (c : Core) (f : Fmt) (a b : Nat) : Nat :=
  (f.encode ⟨.rtz, false, false⟩ (pick big (finput c f a) (finput c f b))).1

/-- FP32 on lanes. -/
def f32 (g : Core → Fmt → Nat → Nat → Nat) (c : Core) (a b : BitVec 32) : BitVec 32 := BitVec.ofNat 32 (g c .fp32 a.toNat b.toNat)

/-- A comparison of FP32 lanes under FTZ (R282). -/
def fcompare (g : Num → Num → Bool) (c : Core) (a b : BitVec 32) : Bool :=
  let x := finput c .fp32 a.toNat
  let y := finput c .fp32 b.toNat
  !x.isNan && !y.isNan && g x y

/-- The class of an FP32 lane: 0 NaN, 1 ±∞, 2 ±0, 3 subnormal, 4 normal (R282). -/
def fclass (a : BitVec 32) : Nat :=
  let e := (a.extractLsb' 23 8).toNat
  let m := (a.extractLsb' 0 23).toNat
  if e = 255 then (if m = 0 then 1 else 0) else if e = 0 then (if m = 0 then 2 else 3) else 4

/-- FP32 lane j plus two products of 16-bit elements, one rounding (R281). -/
def dot (f : Fmt) (c : Core) (a b d : BitVec 32) : BitVec 32 :=
  let p (i : Nat) : Num := Num.mul (finput c f (a.extractLsb' (16 * i) 16).toNat) (finput c f (b.extractLsb' (16 * i) 16).toNat)
  BitVec.ofNat 32 (fround c .fp32 (Num.add (rdown c) (Num.add (rdown c) (finput c .fp32 d.toNat) (p 0)) (p 1)))

/-! Conversions (R286, R287). -/

/-- Do the sticky events of a conversion hold any? -/
def Events.any (e : Events) : Bool := e.ovf || e.nan || e.inv || e.sat

/-- A conversion of 16 elements between formats: the narrower side is part `p` of its register, an event mask collects
events, and floating narrowing rounds stochastically under SREN (R287). -/
def vconvert (src dst : Fmt) (narrowing : Bool) (rd rs1 : BitVec 5) (part : BitVec 2) (em : BitVec 3) : VInst where
  lat := 3
  reads := [rs1.toNat] ++ (if em = 0#3 then [] else [32 + em.toNat])
  writes := [rd.toNat] ++ (if em = 0#3 then [] else [32 + em.toNat])
  masked := true
  run := fun c =>
    let sr := narrowing && c.csr.acfg.getLsbD 3
    let a := c.rv rs1
    let d := c.rv rd
    let at_ (f : Fmt) (j : Nat) : Nat := if f.bits = 32 then j else 16 * part.toNat + j
    let conv (j : Nat) : Nat × Events :=
      convert src dst { c.modes with round := if sr then .stochastic (srField c.csr.srstate j) else c.modes.round } (velem a src.bits (at_ src j))
    let w := dst.bits
    let out := (List.range 16).foldl (fun d j => if c.active j then putBits d (w * at_ dst j) w (conv j).1 else d) d
    let ev := (List.range 16).foldl (fun (k : Nat) j => k + if c.active j && (conv j).2.any then 2 ^ j else 0) 0
    let m := (BitVec.ofNat 64 ev) ||| ((c.rm em.toNat) &&& 0xFFFF#64)
    (rd.toNat, out) :: (if em = 0#3 then [] else [(32 + em.toNat, m.setWidth 512)])
  steps := fun c => if narrowing && c.csr.acfg.getLsbD 3 then 4 else 0

/-! The operations. -/

/-- The operation of `vaddI32` (R278). -/
def opVaddI32 (rd : BitVec 5) (rs1 : BitVec 5) (rs2 : BitVec 5) : VInst :=
  lanes32 1 (fun _ a b _ => a + b) rd rs1 rs2

/-- `vaddI32` (R278). -/
def execVaddI32 (rd : BitVec 5) (rs1 : BitVec 5) (rs2 : BitVec 5) (stall : BitVec 3) (s : State) : Host.Outcome State Fault Refusal :=
  custom0 (opVaddI32 rd rs1 rs2) stall s

/-- The operation of `vsubI32` (R278). -/
def opVsubI32 (rd : BitVec 5) (rs1 : BitVec 5) (rs2 : BitVec 5) : VInst :=
  lanes32 1 (fun _ a b _ => a - b) rd rs1 rs2

/-- `vsubI32` (R278). -/
def execVsubI32 (rd : BitVec 5) (rs1 : BitVec 5) (rs2 : BitVec 5) (stall : BitVec 3) (s : State) : Host.Outcome State Fault Refusal :=
  custom0 (opVsubI32 rd rs1 rs2) stall s

/-- The operation of `vmulI32` (R278). -/
def opVmulI32 (rd : BitVec 5) (rs1 : BitVec 5) (rs2 : BitVec 5) : VInst :=
  lanes32 3 (fun _ a b _ => a * b) rd rs1 rs2

/-- `vmulI32` (R278). -/
def execVmulI32 (rd : BitVec 5) (rs1 : BitVec 5) (rs2 : BitVec 5) (stall : BitVec 3) (s : State) : Host.Outcome State Fault Refusal :=
  custom0 (opVmulI32 rd rs1 rs2) stall s

/-- The operation of `vmulhI32` (R278). -/
def opVmulhI32 (rd : BitVec 5) (rs1 : BitVec 5) (rs2 : BitVec 5) : VInst :=
  lanes32 3 (fun _ a b _ => BitVec.ofInt 32 (a.toInt * b.toInt / 2 ^ 32)) rd rs1 rs2

/-- `vmulhI32` (R278). -/
def execVmulhI32 (rd : BitVec 5) (rs1 : BitVec 5) (rs2 : BitVec 5) (stall : BitVec 3) (s : State) : Host.Outcome State Fault Refusal :=
  custom0 (opVmulhI32 rd rs1 rs2) stall s

/-- The operation of `vminI32` (R278). -/
def opVminI32 (rd : BitVec 5) (rs1 : BitVec 5) (rs2 : BitVec 5) : VInst :=
  lanes32 1 (fun _ a b _ => if a.slt b then a else b) rd rs1 rs2

/-- `vminI32` (R278). -/
def execVminI32 (rd : BitVec 5) (rs1 : BitVec 5) (rs2 : BitVec 5) (stall : BitVec 3) (s : State) : Host.Outcome State Fault Refusal :=
  custom0 (opVminI32 rd rs1 rs2) stall s

/-- The operation of `vmaxI32` (R278). -/
def opVmaxI32 (rd : BitVec 5) (rs1 : BitVec 5) (rs2 : BitVec 5) : VInst :=
  lanes32 1 (fun _ a b _ => if a.slt b then b else a) rd rs1 rs2

/-- `vmaxI32` (R278). -/
def execVmaxI32 (rd : BitVec 5) (rs1 : BitVec 5) (rs2 : BitVec 5) (stall : BitVec 3) (s : State) : Host.Outcome State Fault Refusal :=
  custom0 (opVmaxI32 rd rs1 rs2) stall s

/-- The operation of `vminuI32` (R278). -/
def opVminuI32 (rd : BitVec 5) (rs1 : BitVec 5) (rs2 : BitVec 5) : VInst :=
  lanes32 1 (fun _ a b _ => if a.ult b then a else b) rd rs1 rs2

/-- `vminuI32` (R278). -/
def execVminuI32 (rd : BitVec 5) (rs1 : BitVec 5) (rs2 : BitVec 5) (stall : BitVec 3) (s : State) : Host.Outcome State Fault Refusal :=
  custom0 (opVminuI32 rd rs1 rs2) stall s

/-- The operation of `vmaxuI32` (R278). -/
def opVmaxuI32 (rd : BitVec 5) (rs1 : BitVec 5) (rs2 : BitVec 5) : VInst :=
  lanes32 1 (fun _ a b _ => if a.ult b then b else a) rd rs1 rs2

/-- `vmaxuI32` (R278). -/
def execVmaxuI32 (rd : BitVec 5) (rs1 : BitVec 5) (rs2 : BitVec 5) (stall : BitVec 3) (s : State) : Host.Outcome State Fault Refusal :=
  custom0 (opVmaxuI32 rd rs1 rs2) stall s

/-- The operation of `vand` (R278). -/
def opVand (rd : BitVec 5) (rs1 : BitVec 5) (rs2 : BitVec 5) : VInst :=
  lanes32 1 (fun _ a b _ => a &&& b) rd rs1 rs2

/-- `vand` (R278). -/
def execVand (rd : BitVec 5) (rs1 : BitVec 5) (rs2 : BitVec 5) (stall : BitVec 3) (s : State) : Host.Outcome State Fault Refusal :=
  custom0 (opVand rd rs1 rs2) stall s

/-- The operation of `vor` (R278). -/
def opVor (rd : BitVec 5) (rs1 : BitVec 5) (rs2 : BitVec 5) : VInst :=
  lanes32 1 (fun _ a b _ => a ||| b) rd rs1 rs2

/-- `vor` (R278). -/
def execVor (rd : BitVec 5) (rs1 : BitVec 5) (rs2 : BitVec 5) (stall : BitVec 3) (s : State) : Host.Outcome State Fault Refusal :=
  custom0 (opVor rd rs1 rs2) stall s

/-- The operation of `vxor` (R278). -/
def opVxor (rd : BitVec 5) (rs1 : BitVec 5) (rs2 : BitVec 5) : VInst :=
  lanes32 1 (fun _ a b _ => a ^^^ b) rd rs1 rs2

/-- `vxor` (R278). -/
def execVxor (rd : BitVec 5) (rs1 : BitVec 5) (rs2 : BitVec 5) (stall : BitVec 3) (s : State) : Host.Outcome State Fault Refusal :=
  custom0 (opVxor rd rs1 rs2) stall s

/-- The operation of `vsllI32` (R278). -/
def opVsllI32 (rd : BitVec 5) (rs1 : BitVec 5) (rs2 : BitVec 5) : VInst :=
  lanes32 1 (fun _ a b _ => a <<< (b.toNat % 32)) rd rs1 rs2

/-- `vsllI32` (R278). -/
def execVsllI32 (rd : BitVec 5) (rs1 : BitVec 5) (rs2 : BitVec 5) (stall : BitVec 3) (s : State) : Host.Outcome State Fault Refusal :=
  custom0 (opVsllI32 rd rs1 rs2) stall s

/-- The operation of `vsrlI32` (R278). -/
def opVsrlI32 (rd : BitVec 5) (rs1 : BitVec 5) (rs2 : BitVec 5) : VInst :=
  lanes32 1 (fun _ a b _ => a >>> (b.toNat % 32)) rd rs1 rs2

/-- `vsrlI32` (R278). -/
def execVsrlI32 (rd : BitVec 5) (rs1 : BitVec 5) (rs2 : BitVec 5) (stall : BitVec 3) (s : State) : Host.Outcome State Fault Refusal :=
  custom0 (opVsrlI32 rd rs1 rs2) stall s

/-- The operation of `vsraI32` (R278). -/
def opVsraI32 (rd : BitVec 5) (rs1 : BitVec 5) (rs2 : BitVec 5) : VInst :=
  lanes32 1 (fun _ a b _ => a.sshiftRight (b.toNat % 32)) rd rs1 rs2

/-- `vsraI32` (R278). -/
def execVsraI32 (rd : BitVec 5) (rs1 : BitVec 5) (rs2 : BitVec 5) (stall : BitVec 3) (s : State) : Host.Outcome State Fault Refusal :=
  custom0 (opVsraI32 rd rs1 rs2) stall s

/-- The operation of `vaddsI32` (R278). -/
def opVaddsI32 (rd : BitVec 5) (rs1 : BitVec 5) (rs2 : BitVec 5) : VInst :=
  lanes32 1 (fun _ a b _ => BitVec.ofNat 32 (clampS 32 (a.toInt + b.toInt))) rd rs1 rs2

/-- `vaddsI32` (R278). -/
def execVaddsI32 (rd : BitVec 5) (rs1 : BitVec 5) (rs2 : BitVec 5) (stall : BitVec 3) (s : State) : Host.Outcome State Fault Refusal :=
  custom0 (opVaddsI32 rd rs1 rs2) stall s

/-- The operation of `vmacI32` (R278). -/
def opVmacI32 (rd : BitVec 5) (rs1 : BitVec 5) (rs2 : BitVec 5) : VInst :=
  lanes32 3 (fun _ a b d => d + a * b) rd rs1 rs2

/-- `vmacI32` (R278). -/
def execVmacI32 (rd : BitVec 5) (rs1 : BitVec 5) (rs2 : BitVec 5) (stall : BitVec 3) (s : State) : Host.Outcome State Fault Refusal :=
  custom0 (opVmacI32 rd rs1 rs2) stall s

/-- The operation of `vaddI16` (R279). -/
def opVaddI16 (rd : BitVec 5) (rs1 : BitVec 5) (rs2 : BitVec 5) : VInst :=
  packed 16 1 (fun _ a b _ => a + b) rd rs1 rs2

/-- `vaddI16` (R279). -/
def execVaddI16 (rd : BitVec 5) (rs1 : BitVec 5) (rs2 : BitVec 5) (stall : BitVec 3) (s : State) : Host.Outcome State Fault Refusal :=
  custom0 (opVaddI16 rd rs1 rs2) stall s

/-- The operation of `vsubI16` (R279). -/
def opVsubI16 (rd : BitVec 5) (rs1 : BitVec 5) (rs2 : BitVec 5) : VInst :=
  packed 16 1 (fun _ a b _ => a + 2 ^ 16 - b) rd rs1 rs2

/-- `vsubI16` (R279). -/
def execVsubI16 (rd : BitVec 5) (rs1 : BitVec 5) (rs2 : BitVec 5) (stall : BitVec 3) (s : State) : Host.Outcome State Fault Refusal :=
  custom0 (opVsubI16 rd rs1 rs2) stall s

/-- The operation of `vaddsI16` (R279). -/
def opVaddsI16 (rd : BitVec 5) (rs1 : BitVec 5) (rs2 : BitVec 5) : VInst :=
  packed 16 1 (fun _ a b _ => clampS 16 (signedOf 16 a + signedOf 16 b)) rd rs1 rs2

/-- `vaddsI16` (R279). -/
def execVaddsI16 (rd : BitVec 5) (rs1 : BitVec 5) (rs2 : BitVec 5) (stall : BitVec 3) (s : State) : Host.Outcome State Fault Refusal :=
  custom0 (opVaddsI16 rd rs1 rs2) stall s

/-- The operation of `vsubsI16` (R279). -/
def opVsubsI16 (rd : BitVec 5) (rs1 : BitVec 5) (rs2 : BitVec 5) : VInst :=
  packed 16 1 (fun _ a b _ => clampS 16 (signedOf 16 a - signedOf 16 b)) rd rs1 rs2

/-- `vsubsI16` (R279). -/
def execVsubsI16 (rd : BitVec 5) (rs1 : BitVec 5) (rs2 : BitVec 5) (stall : BitVec 3) (s : State) : Host.Outcome State Fault Refusal :=
  custom0 (opVsubsI16 rd rs1 rs2) stall s

/-- The operation of `vaddusI16` (R279). -/
def opVaddusI16 (rd : BitVec 5) (rs1 : BitVec 5) (rs2 : BitVec 5) : VInst :=
  packed 16 1 (fun _ a b _ => min (a + b) (2 ^ 16 - 1)) rd rs1 rs2

/-- `vaddusI16` (R279). -/
def execVaddusI16 (rd : BitVec 5) (rs1 : BitVec 5) (rs2 : BitVec 5) (stall : BitVec 3) (s : State) : Host.Outcome State Fault Refusal :=
  custom0 (opVaddusI16 rd rs1 rs2) stall s

/-- The operation of `vminI16` (R279). -/
def opVminI16 (rd : BitVec 5) (rs1 : BitVec 5) (rs2 : BitVec 5) : VInst :=
  packed 16 1 (fun _ a b _ => if signedOf 16 a < signedOf 16 b then a else b) rd rs1 rs2

/-- `vminI16` (R279). -/
def execVminI16 (rd : BitVec 5) (rs1 : BitVec 5) (rs2 : BitVec 5) (stall : BitVec 3) (s : State) : Host.Outcome State Fault Refusal :=
  custom0 (opVminI16 rd rs1 rs2) stall s

/-- The operation of `vmaxI16` (R279). -/
def opVmaxI16 (rd : BitVec 5) (rs1 : BitVec 5) (rs2 : BitVec 5) : VInst :=
  packed 16 1 (fun _ a b _ => if signedOf 16 a < signedOf 16 b then b else a) rd rs1 rs2

/-- `vmaxI16` (R279). -/
def execVmaxI16 (rd : BitVec 5) (rs1 : BitVec 5) (rs2 : BitVec 5) (stall : BitVec 3) (s : State) : Host.Outcome State Fault Refusal :=
  custom0 (opVmaxI16 rd rs1 rs2) stall s

/-- The operation of `vmulI16` (R279). -/
def opVmulI16 (rd : BitVec 5) (rs1 : BitVec 5) (rs2 : BitVec 5) : VInst :=
  packed 16 3 (fun _ a b _ => a * b) rd rs1 rs2

/-- `vmulI16` (R279). -/
def execVmulI16 (rd : BitVec 5) (rs1 : BitVec 5) (rs2 : BitVec 5) (stall : BitVec 3) (s : State) : Host.Outcome State Fault Refusal :=
  custom0 (opVmulI16 rd rs1 rs2) stall s

/-- The operation of `vaddI8` (R279). -/
def opVaddI8 (rd : BitVec 5) (rs1 : BitVec 5) (rs2 : BitVec 5) : VInst :=
  packed 8 1 (fun _ a b _ => a + b) rd rs1 rs2

/-- `vaddI8` (R279). -/
def execVaddI8 (rd : BitVec 5) (rs1 : BitVec 5) (rs2 : BitVec 5) (stall : BitVec 3) (s : State) : Host.Outcome State Fault Refusal :=
  custom0 (opVaddI8 rd rs1 rs2) stall s

/-- The operation of `vsubI8` (R279). -/
def opVsubI8 (rd : BitVec 5) (rs1 : BitVec 5) (rs2 : BitVec 5) : VInst :=
  packed 8 1 (fun _ a b _ => a + 2 ^ 8 - b) rd rs1 rs2

/-- `vsubI8` (R279). -/
def execVsubI8 (rd : BitVec 5) (rs1 : BitVec 5) (rs2 : BitVec 5) (stall : BitVec 3) (s : State) : Host.Outcome State Fault Refusal :=
  custom0 (opVsubI8 rd rs1 rs2) stall s

/-- The operation of `vaddsI8` (R279). -/
def opVaddsI8 (rd : BitVec 5) (rs1 : BitVec 5) (rs2 : BitVec 5) : VInst :=
  packed 8 1 (fun _ a b _ => clampS 8 (signedOf 8 a + signedOf 8 b)) rd rs1 rs2

/-- `vaddsI8` (R279). -/
def execVaddsI8 (rd : BitVec 5) (rs1 : BitVec 5) (rs2 : BitVec 5) (stall : BitVec 3) (s : State) : Host.Outcome State Fault Refusal :=
  custom0 (opVaddsI8 rd rs1 rs2) stall s

/-- The operation of `vsubsI8` (R279). -/
def opVsubsI8 (rd : BitVec 5) (rs1 : BitVec 5) (rs2 : BitVec 5) : VInst :=
  packed 8 1 (fun _ a b _ => clampS 8 (signedOf 8 a - signedOf 8 b)) rd rs1 rs2

/-- `vsubsI8` (R279). -/
def execVsubsI8 (rd : BitVec 5) (rs1 : BitVec 5) (rs2 : BitVec 5) (stall : BitVec 3) (s : State) : Host.Outcome State Fault Refusal :=
  custom0 (opVsubsI8 rd rs1 rs2) stall s

/-- The operation of `vaddusI8` (R279). -/
def opVaddusI8 (rd : BitVec 5) (rs1 : BitVec 5) (rs2 : BitVec 5) : VInst :=
  packed 8 1 (fun _ a b _ => min (a + b) (2 ^ 8 - 1)) rd rs1 rs2

/-- `vaddusI8` (R279). -/
def execVaddusI8 (rd : BitVec 5) (rs1 : BitVec 5) (rs2 : BitVec 5) (stall : BitVec 3) (s : State) : Host.Outcome State Fault Refusal :=
  custom0 (opVaddusI8 rd rs1 rs2) stall s

/-- The operation of `vminI8` (R279). -/
def opVminI8 (rd : BitVec 5) (rs1 : BitVec 5) (rs2 : BitVec 5) : VInst :=
  packed 8 1 (fun _ a b _ => if signedOf 8 a < signedOf 8 b then a else b) rd rs1 rs2

/-- `vminI8` (R279). -/
def execVminI8 (rd : BitVec 5) (rs1 : BitVec 5) (rs2 : BitVec 5) (stall : BitVec 3) (s : State) : Host.Outcome State Fault Refusal :=
  custom0 (opVminI8 rd rs1 rs2) stall s

/-- The operation of `vmaxI8` (R279). -/
def opVmaxI8 (rd : BitVec 5) (rs1 : BitVec 5) (rs2 : BitVec 5) : VInst :=
  packed 8 1 (fun _ a b _ => if signedOf 8 a < signedOf 8 b then b else a) rd rs1 rs2

/-- `vmaxI8` (R279). -/
def execVmaxI8 (rd : BitVec 5) (rs1 : BitVec 5) (rs2 : BitVec 5) (stall : BitVec 3) (s : State) : Host.Outcome State Fault Refusal :=
  custom0 (opVmaxI8 rd rs1 rs2) stall s

/-- The operation of `vmulI8` (R279). -/
def opVmulI8 (rd : BitVec 5) (rs1 : BitVec 5) (rs2 : BitVec 5) : VInst :=
  packed 8 3 (fun _ a b _ => a * b) rd rs1 rs2

/-- `vmulI8` (R279). -/
def execVmulI8 (rd : BitVec 5) (rs1 : BitVec 5) (rs2 : BitVec 5) (stall : BitVec 3) (s : State) : Host.Outcome State Fault Refusal :=
  custom0 (opVmulI8 rd rs1 rs2) stall s

/-- The operation of `vfaddF32` (R280). -/
def opVfaddF32 (rd : BitVec 5) (rs1 : BitVec 5) (rs2 : BitVec 5) : VInst :=
  lanes32 3 (fun c a b _ => f32 (fadd) c a b) rd rs1 rs2

/-- `vfaddF32` (R280). -/
def execVfaddF32 (rd : BitVec 5) (rs1 : BitVec 5) (rs2 : BitVec 5) (stall : BitVec 3) (s : State) : Host.Outcome State Fault Refusal :=
  custom0 (opVfaddF32 rd rs1 rs2) stall s

/-- The operation of `vfsubF32` (R280). -/
def opVfsubF32 (rd : BitVec 5) (rs1 : BitVec 5) (rs2 : BitVec 5) : VInst :=
  lanes32 3 (fun c a b _ => f32 (fsub) c a b) rd rs1 rs2

/-- `vfsubF32` (R280). -/
def execVfsubF32 (rd : BitVec 5) (rs1 : BitVec 5) (rs2 : BitVec 5) (stall : BitVec 3) (s : State) : Host.Outcome State Fault Refusal :=
  custom0 (opVfsubF32 rd rs1 rs2) stall s

/-- The operation of `vfmulF32` (R280). -/
def opVfmulF32 (rd : BitVec 5) (rs1 : BitVec 5) (rs2 : BitVec 5) : VInst :=
  lanes32 4 (fun c a b _ => f32 (fmul) c a b) rd rs1 rs2

/-- `vfmulF32` (R280). -/
def execVfmulF32 (rd : BitVec 5) (rs1 : BitVec 5) (rs2 : BitVec 5) (stall : BitVec 3) (s : State) : Host.Outcome State Fault Refusal :=
  custom0 (opVfmulF32 rd rs1 rs2) stall s

/-- The operation of `vfminF32` (R280). -/
def opVfminF32 (rd : BitVec 5) (rs1 : BitVec 5) (rs2 : BitVec 5) : VInst :=
  lanes32 3 (fun c a b _ => f32 (fpick false) c a b) rd rs1 rs2

/-- `vfminF32` (R280). -/
def execVfminF32 (rd : BitVec 5) (rs1 : BitVec 5) (rs2 : BitVec 5) (stall : BitVec 3) (s : State) : Host.Outcome State Fault Refusal :=
  custom0 (opVfminF32 rd rs1 rs2) stall s

/-- The operation of `vfmaxF32` (R280). -/
def opVfmaxF32 (rd : BitVec 5) (rs1 : BitVec 5) (rs2 : BitVec 5) : VInst :=
  lanes32 3 (fun c a b _ => f32 (fpick true) c a b) rd rs1 rs2

/-- `vfmaxF32` (R280). -/
def execVfmaxF32 (rd : BitVec 5) (rs1 : BitVec 5) (rs2 : BitVec 5) (stall : BitVec 3) (s : State) : Host.Outcome State Fault Refusal :=
  custom0 (opVfmaxF32 rd rs1 rs2) stall s

/-- The operation of `vfmaF32` (R280). -/
def opVfmaF32 (rd : BitVec 5) (rs1 : BitVec 5) (rs2 : BitVec 5) : VInst :=
  lanes32 4 (fun c a b d => BitVec.ofNat 32 (ffma c .fp32 a.toNat b.toNat d.toNat)) rd rs1 rs2

/-- `vfmaF32` (R280). -/
def execVfmaF32 (rd : BitVec 5) (rs1 : BitVec 5) (rs2 : BitVec 5) (stall : BitVec 3) (s : State) : Host.Outcome State Fault Refusal :=
  custom0 (opVfmaF32 rd rs1 rs2) stall s

/-- The operation of `vfmsF32` (R280). -/
def opVfmsF32 (rd : BitVec 5) (rs1 : BitVec 5) (rs2 : BitVec 5) : VInst :=
  lanes32 4 (fun c a b d => BitVec.ofNat 32 (ffms c .fp32 a.toNat b.toNat d.toNat)) rd rs1 rs2

/-- `vfmsF32` (R280). -/
def execVfmsF32 (rd : BitVec 5) (rs1 : BitVec 5) (rs2 : BitVec 5) (stall : BitVec 3) (s : State) : Host.Outcome State Fault Refusal :=
  custom0 (opVfmsF32 rd rs1 rs2) stall s

/-- The operation of `vfabsF32` (R280). -/
def opVfabsF32 (rd : BitVec 5) (rs1 : BitVec 5) : VInst :=
  unary32 3 (fun _ a => a &&& 0x7FFFFFFF#32) rd rs1

/-- `vfabsF32` (R280). -/
def execVfabsF32 (rd : BitVec 5) (rs1 : BitVec 5) (stall : BitVec 3) (s : State) : Host.Outcome State Fault Refusal :=
  custom0 (opVfabsF32 rd rs1) stall s

/-- The operation of `vfnegF32` (R280). -/
def opVfnegF32 (rd : BitVec 5) (rs1 : BitVec 5) : VInst :=
  unary32 3 (fun _ a => a ^^^ 0x80000000#32) rd rs1

/-- `vfnegF32` (R280). -/
def execVfnegF32 (rd : BitVec 5) (rs1 : BitVec 5) (stall : BitVec 3) (s : State) : Host.Outcome State Fault Refusal :=
  custom0 (opVfnegF32 rd rs1) stall s

/-- The operation of `vfaddBf16` (R281). -/
def opVfaddBf16 (rd : BitVec 5) (rs1 : BitVec 5) (rs2 : BitVec 5) : VInst :=
  packed 16 4 (fun c a b _ => fadd c .bf16 a b) rd rs1 rs2

/-- `vfaddBf16` (R281). -/
def execVfaddBf16 (rd : BitVec 5) (rs1 : BitVec 5) (rs2 : BitVec 5) (stall : BitVec 3) (s : State) : Host.Outcome State Fault Refusal :=
  custom0 (opVfaddBf16 rd rs1 rs2) stall s

/-- The operation of `vfsubBf16` (R281). -/
def opVfsubBf16 (rd : BitVec 5) (rs1 : BitVec 5) (rs2 : BitVec 5) : VInst :=
  packed 16 4 (fun c a b _ => fsub c .bf16 a b) rd rs1 rs2

/-- `vfsubBf16` (R281). -/
def execVfsubBf16 (rd : BitVec 5) (rs1 : BitVec 5) (rs2 : BitVec 5) (stall : BitVec 3) (s : State) : Host.Outcome State Fault Refusal :=
  custom0 (opVfsubBf16 rd rs1 rs2) stall s

/-- The operation of `vfmulBf16` (R281). -/
def opVfmulBf16 (rd : BitVec 5) (rs1 : BitVec 5) (rs2 : BitVec 5) : VInst :=
  packed 16 4 (fun c a b _ => fmul c .bf16 a b) rd rs1 rs2

/-- `vfmulBf16` (R281). -/
def execVfmulBf16 (rd : BitVec 5) (rs1 : BitVec 5) (rs2 : BitVec 5) (stall : BitVec 3) (s : State) : Host.Outcome State Fault Refusal :=
  custom0 (opVfmulBf16 rd rs1 rs2) stall s

/-- The operation of `vfminBf16` (R281). -/
def opVfminBf16 (rd : BitVec 5) (rs1 : BitVec 5) (rs2 : BitVec 5) : VInst :=
  packed 16 4 (fun c a b _ => fpick false c .bf16 a b) rd rs1 rs2

/-- `vfminBf16` (R281). -/
def execVfminBf16 (rd : BitVec 5) (rs1 : BitVec 5) (rs2 : BitVec 5) (stall : BitVec 3) (s : State) : Host.Outcome State Fault Refusal :=
  custom0 (opVfminBf16 rd rs1 rs2) stall s

/-- The operation of `vfmaxBf16` (R281). -/
def opVfmaxBf16 (rd : BitVec 5) (rs1 : BitVec 5) (rs2 : BitVec 5) : VInst :=
  packed 16 4 (fun c a b _ => fpick true c .bf16 a b) rd rs1 rs2

/-- `vfmaxBf16` (R281). -/
def execVfmaxBf16 (rd : BitVec 5) (rs1 : BitVec 5) (rs2 : BitVec 5) (stall : BitVec 3) (s : State) : Host.Outcome State Fault Refusal :=
  custom0 (opVfmaxBf16 rd rs1 rs2) stall s

/-- The operation of `vfmaBf16` (R281). -/
def opVfmaBf16 (rd : BitVec 5) (rs1 : BitVec 5) (rs2 : BitVec 5) : VInst :=
  packed 16 4 (fun c a b d => ffma c .bf16 a b d) rd rs1 rs2

/-- `vfmaBf16` (R281). -/
def execVfmaBf16 (rd : BitVec 5) (rs1 : BitVec 5) (rs2 : BitVec 5) (stall : BitVec 3) (s : State) : Host.Outcome State Fault Refusal :=
  custom0 (opVfmaBf16 rd rs1 rs2) stall s

/-- The operation of `vdotBf16` (R281). -/
def opVdotBf16 (rd : BitVec 5) (rs1 : BitVec 5) (rs2 : BitVec 5) : VInst :=
  lanes32 5 (dot .bf16) rd rs1 rs2

/-- `vdotBf16` (R281). -/
def execVdotBf16 (rd : BitVec 5) (rs1 : BitVec 5) (rs2 : BitVec 5) (stall : BitVec 3) (s : State) : Host.Outcome State Fault Refusal :=
  custom0 (opVdotBf16 rd rs1 rs2) stall s

/-- The operation of `vfaddF16` (R281). -/
def opVfaddF16 (rd : BitVec 5) (rs1 : BitVec 5) (rs2 : BitVec 5) : VInst :=
  packed 16 4 (fun c a b _ => fadd c .fp16 a b) rd rs1 rs2

/-- `vfaddF16` (R281). -/
def execVfaddF16 (rd : BitVec 5) (rs1 : BitVec 5) (rs2 : BitVec 5) (stall : BitVec 3) (s : State) : Host.Outcome State Fault Refusal :=
  custom0 (opVfaddF16 rd rs1 rs2) stall s

/-- The operation of `vfsubF16` (R281). -/
def opVfsubF16 (rd : BitVec 5) (rs1 : BitVec 5) (rs2 : BitVec 5) : VInst :=
  packed 16 4 (fun c a b _ => fsub c .fp16 a b) rd rs1 rs2

/-- `vfsubF16` (R281). -/
def execVfsubF16 (rd : BitVec 5) (rs1 : BitVec 5) (rs2 : BitVec 5) (stall : BitVec 3) (s : State) : Host.Outcome State Fault Refusal :=
  custom0 (opVfsubF16 rd rs1 rs2) stall s

/-- The operation of `vfmulF16` (R281). -/
def opVfmulF16 (rd : BitVec 5) (rs1 : BitVec 5) (rs2 : BitVec 5) : VInst :=
  packed 16 4 (fun c a b _ => fmul c .fp16 a b) rd rs1 rs2

/-- `vfmulF16` (R281). -/
def execVfmulF16 (rd : BitVec 5) (rs1 : BitVec 5) (rs2 : BitVec 5) (stall : BitVec 3) (s : State) : Host.Outcome State Fault Refusal :=
  custom0 (opVfmulF16 rd rs1 rs2) stall s

/-- The operation of `vfminF16` (R281). -/
def opVfminF16 (rd : BitVec 5) (rs1 : BitVec 5) (rs2 : BitVec 5) : VInst :=
  packed 16 4 (fun c a b _ => fpick false c .fp16 a b) rd rs1 rs2

/-- `vfminF16` (R281). -/
def execVfminF16 (rd : BitVec 5) (rs1 : BitVec 5) (rs2 : BitVec 5) (stall : BitVec 3) (s : State) : Host.Outcome State Fault Refusal :=
  custom0 (opVfminF16 rd rs1 rs2) stall s

/-- The operation of `vfmaxF16` (R281). -/
def opVfmaxF16 (rd : BitVec 5) (rs1 : BitVec 5) (rs2 : BitVec 5) : VInst :=
  packed 16 4 (fun c a b _ => fpick true c .fp16 a b) rd rs1 rs2

/-- `vfmaxF16` (R281). -/
def execVfmaxF16 (rd : BitVec 5) (rs1 : BitVec 5) (rs2 : BitVec 5) (stall : BitVec 3) (s : State) : Host.Outcome State Fault Refusal :=
  custom0 (opVfmaxF16 rd rs1 rs2) stall s

/-- The operation of `vfmaF16` (R281). -/
def opVfmaF16 (rd : BitVec 5) (rs1 : BitVec 5) (rs2 : BitVec 5) : VInst :=
  packed 16 4 (fun c a b d => ffma c .fp16 a b d) rd rs1 rs2

/-- `vfmaF16` (R281). -/
def execVfmaF16 (rd : BitVec 5) (rs1 : BitVec 5) (rs2 : BitVec 5) (stall : BitVec 3) (s : State) : Host.Outcome State Fault Refusal :=
  custom0 (opVfmaF16 rd rs1 rs2) stall s

/-- The operation of `vdotF16` (R281). -/
def opVdotF16 (rd : BitVec 5) (rs1 : BitVec 5) (rs2 : BitVec 5) : VInst :=
  lanes32 5 (dot .fp16) rd rs1 rs2

/-- `vdotF16` (R281). -/
def execVdotF16 (rd : BitVec 5) (rs1 : BitVec 5) (rs2 : BitVec 5) (stall : BitVec 3) (s : State) : Host.Outcome State Fault Refusal :=
  custom0 (opVdotF16 rd rs1 rs2) stall s

/-- The operation of `vcmpeqI32` (R282). -/
def opVcmpeqI32 (rd : BitVec 5) (rs1 : BitVec 5) (rs2 : BitVec 5) : VInst :=
  compare32 (fun _ a b => a == b) rd rs1 [rs2.toNat]

/-- `vcmpeqI32` (R282). -/
def execVcmpeqI32 (rd : BitVec 5) (rs1 : BitVec 5) (rs2 : BitVec 5) (stall : BitVec 3) (s : State) : Host.Outcome State Fault Refusal :=
  custom0 (opVcmpeqI32 rd rs1 rs2) stall s

/-- The operation of `vcmpltI32` (R282). -/
def opVcmpltI32 (rd : BitVec 5) (rs1 : BitVec 5) (rs2 : BitVec 5) : VInst :=
  compare32 (fun _ a b => a.slt b) rd rs1 [rs2.toNat]

/-- `vcmpltI32` (R282). -/
def execVcmpltI32 (rd : BitVec 5) (rs1 : BitVec 5) (rs2 : BitVec 5) (stall : BitVec 3) (s : State) : Host.Outcome State Fault Refusal :=
  custom0 (opVcmpltI32 rd rs1 rs2) stall s

/-- The operation of `vcmpltuI32` (R282). -/
def opVcmpltuI32 (rd : BitVec 5) (rs1 : BitVec 5) (rs2 : BitVec 5) : VInst :=
  compare32 (fun _ a b => a.ult b) rd rs1 [rs2.toNat]

/-- `vcmpltuI32` (R282). -/
def execVcmpltuI32 (rd : BitVec 5) (rs1 : BitVec 5) (rs2 : BitVec 5) (stall : BitVec 3) (s : State) : Host.Outcome State Fault Refusal :=
  custom0 (opVcmpltuI32 rd rs1 rs2) stall s

/-- The operation of `vfcmpeqF32` (R282). -/
def opVfcmpeqF32 (rd : BitVec 5) (rs1 : BitVec 5) (rs2 : BitVec 5) : VInst :=
  compare32 (fcompare Num.eq) rd rs1 [rs2.toNat]

/-- `vfcmpeqF32` (R282). -/
def execVfcmpeqF32 (rd : BitVec 5) (rs1 : BitVec 5) (rs2 : BitVec 5) (stall : BitVec 3) (s : State) : Host.Outcome State Fault Refusal :=
  custom0 (opVfcmpeqF32 rd rs1 rs2) stall s

/-- The operation of `vfcmpltF32` (R282). -/
def opVfcmpltF32 (rd : BitVec 5) (rs1 : BitVec 5) (rs2 : BitVec 5) : VInst :=
  compare32 (fcompare Num.lt) rd rs1 [rs2.toNat]

/-- `vfcmpltF32` (R282). -/
def execVfcmpltF32 (rd : BitVec 5) (rs1 : BitVec 5) (rs2 : BitVec 5) (stall : BitVec 3) (s : State) : Host.Outcome State Fault Refusal :=
  custom0 (opVfcmpltF32 rd rs1 rs2) stall s

/-- The operation of `vfcmpleF32` (R282). -/
def opVfcmpleF32 (rd : BitVec 5) (rs1 : BitVec 5) (rs2 : BitVec 5) : VInst :=
  compare32 (fcompare (fun x y => Num.lt x y || Num.eq x y)) rd rs1 [rs2.toNat]

/-- `vfcmpleF32` (R282). -/
def execVfcmpleF32 (rd : BitVec 5) (rs1 : BitVec 5) (rs2 : BitVec 5) (stall : BitVec 3) (s : State) : Host.Outcome State Fault Refusal :=
  custom0 (opVfcmpleF32 rd rs1 rs2) stall s

/-- The operation of `vfclassF32` (R282). -/
def opVfclassF32 (rd : BitVec 5) (rs1 : BitVec 5) (set : BitVec 5) : VInst :=
  compare32 (fun _ a _ => set.getLsbD (fclass a)) rd rs1 []

/-- `vfclassF32` (R282). -/
def execVfclassF32 (rd : BitVec 5) (rs1 : BitVec 5) (set : BitVec 5) (stall : BitVec 3) (s : State) : Host.Outcome State Fault Refusal :=
  custom0 (opVfclassF32 rd rs1 set) stall s

/-- The operation of `mand` (R282). -/
def opMand (rd : BitVec 5) (rs1 : BitVec 5) (rs2 : BitVec 5) : VInst :=
  maskOp (fun a b => a &&& b) rd rs1 rs2

/-- `mand` (R282). -/
def execMand (rd : BitVec 5) (rs1 : BitVec 5) (rs2 : BitVec 5) (stall : BitVec 3) (s : State) : Host.Outcome State Fault Refusal :=
  custom0 (opMand rd rs1 rs2) stall s

/-- The operation of `mor` (R282). -/
def opMor (rd : BitVec 5) (rs1 : BitVec 5) (rs2 : BitVec 5) : VInst :=
  maskOp (fun a b => a ||| b) rd rs1 rs2

/-- `mor` (R282). -/
def execMor (rd : BitVec 5) (rs1 : BitVec 5) (rs2 : BitVec 5) (stall : BitVec 3) (s : State) : Host.Outcome State Fault Refusal :=
  custom0 (opMor rd rs1 rs2) stall s

/-- The operation of `mxor` (R282). -/
def opMxor (rd : BitVec 5) (rs1 : BitVec 5) (rs2 : BitVec 5) : VInst :=
  maskOp (fun a b => a ^^^ b) rd rs1 rs2

/-- `mxor` (R282). -/
def execMxor (rd : BitVec 5) (rs1 : BitVec 5) (rs2 : BitVec 5) (stall : BitVec 3) (s : State) : Host.Outcome State Fault Refusal :=
  custom0 (opMxor rd rs1 rs2) stall s

/-- The operation of `mandn` (R282). -/
def opMandn (rd : BitVec 5) (rs1 : BitVec 5) (rs2 : BitVec 5) : VInst :=
  maskOp (fun a b => a &&& ~~~b) rd rs1 rs2

/-- `mandn` (R282). -/
def execMandn (rd : BitVec 5) (rs1 : BitVec 5) (rs2 : BitVec 5) (stall : BitVec 3) (s : State) : Host.Outcome State Fault Refusal :=
  custom0 (opMandn rd rs1 rs2) stall s

/-- The operation of `vperm` (R283). -/
def opVperm (rd : BitVec 5) (rs1 : BitVec 5) (rs2 : BitVec 5) : VInst :=
  permute (fun b _ => (b.extractLsb' 0 4).toNat) [rs2.toNat] rd rs1

/-- `vperm` (R283). -/
def execVperm (rd : BitVec 5) (rs1 : BitVec 5) (rs2 : BitVec 5) (stall : BitVec 3) (s : State) : Host.Outcome State Fault Refusal :=
  custom0 (opVperm rd rs1 rs2) stall s

/-- The operation of `vrot` (R283). -/
def opVrot (rd : BitVec 5) (rs1 : BitVec 5) (n : BitVec 5) : VInst :=
  permute (fun _ j => (j + n.toNat) % 16) [] rd rs1

/-- `vrot` (R283). -/
def execVrot (rd : BitVec 5) (rs1 : BitVec 5) (n : BitVec 5) (stall : BitVec 3) (s : State) : Host.Outcome State Fault Refusal :=
  custom0 (opVrot rd rs1 n) stall s

/-- The operation of `vmerge` (R283). -/
def opVmerge (rd : BitVec 5) (rs1 : BitVec 5) (rs2 : BitVec 5) : VInst :=
  { lat := 1, reads := [rs1.toNat, rs2.toNat], writes := [rd.toNat], masked := true, steps := noSteps,
    run := fun c => [(rd.toNat, vmake (fun j => if c.active j then vlane (c.rv rs1) j else vlane (c.rv rs2) j))] }

/-- `vmerge` (R283). -/
def execVmerge (rd : BitVec 5) (rs1 : BitVec 5) (rs2 : BitVec 5) (stall : BitVec 3) (s : State) : Host.Outcome State Fault Refusal :=
  custom0 (opVmerge rd rs1 rs2) stall s

/-- The operation of `vbcast` (R283). -/
def opVbcast (rd : BitVec 5) (rs1 : BitVec 5) (n : BitVec 5) : VInst :=
  permute (fun _ _ => n.toNat) [] rd rs1

/-- `vbcast` (R283). -/
def execVbcast (rd : BitVec 5) (rs1 : BitVec 5) (n : BitVec 5) (stall : BitVec 3) (s : State) : Host.Outcome State Fault Refusal :=
  custom0 (opVbcast rd rs1 n) stall s

/-- The operation of `vredsumI32` (R284). -/
def opVredsumI32 (rd : BitVec 5) (rs1 : BitVec 5) : VInst :=
  reduce (fun _ a b => a + b) 0#32 rd rs1

/-- `vredsumI32` (R284). -/
def execVredsumI32 (rd : BitVec 5) (rs1 : BitVec 5) (stall : BitVec 3) (s : State) : Host.Outcome State Fault Refusal :=
  custom0 (opVredsumI32 rd rs1) stall s

/-- The operation of `vredmaxI32` (R284). -/
def opVredmaxI32 (rd : BitVec 5) (rs1 : BitVec 5) : VInst :=
  reduce (fun _ a b => if a.slt b then b else a) 0x80000000#32 rd rs1

/-- `vredmaxI32` (R284). -/
def execVredmaxI32 (rd : BitVec 5) (rs1 : BitVec 5) (stall : BitVec 3) (s : State) : Host.Outcome State Fault Refusal :=
  custom0 (opVredmaxI32 rd rs1) stall s

/-- The operation of `vredminI32` (R284). -/
def opVredminI32 (rd : BitVec 5) (rs1 : BitVec 5) : VInst :=
  reduce (fun _ a b => if a.slt b then a else b) 0x7FFFFFFF#32 rd rs1

/-- `vredminI32` (R284). -/
def execVredminI32 (rd : BitVec 5) (rs1 : BitVec 5) (stall : BitVec 3) (s : State) : Host.Outcome State Fault Refusal :=
  custom0 (opVredminI32 rd rs1) stall s

/-- The operation of `vredsumF32` (R284). -/
def opVredsumF32 (rd : BitVec 5) (rs1 : BitVec 5) : VInst :=
  reduce (f32 fadd) 0x80000000#32 rd rs1

/-- `vredsumF32` (R284). -/
def execVredsumF32 (rd : BitVec 5) (rs1 : BitVec 5) (stall : BitVec 3) (s : State) : Host.Outcome State Fault Refusal :=
  custom0 (opVredsumF32 rd rs1) stall s

/-- The operation of `vredmaxF32` (R284). -/
def opVredmaxF32 (rd : BitVec 5) (rs1 : BitVec 5) : VInst :=
  reduce (f32 (fpick true)) 0xFF800000#32 rd rs1

/-- `vredmaxF32` (R284). -/
def execVredmaxF32 (rd : BitVec 5) (rs1 : BitVec 5) (stall : BitVec 3) (s : State) : Host.Outcome State Fault Refusal :=
  custom0 (opVredmaxF32 rd rs1) stall s

/-- The operation of `vredminF32` (R284). -/
def opVredminF32 (rd : BitVec 5) (rs1 : BitVec 5) : VInst :=
  reduce (f32 (fpick false)) 0x7F800000#32 rd rs1

/-- `vredminF32` (R284). -/
def execVredminF32 (rd : BitVec 5) (rs1 : BitVec 5) (stall : BitVec 3) (s : State) : Host.Outcome State Fault Refusal :=
  custom0 (opVredminF32 rd rs1) stall s

/-- The operation of `vscanI32` (R285). -/
def opVscanI32 (rd : BitVec 5) (rs1 : BitVec 5) : VInst :=
  scan (fun _ a b => a + b) 0#32 rd rs1

/-- `vscanI32` (R285). -/
def execVscanI32 (rd : BitVec 5) (rs1 : BitVec 5) (stall : BitVec 3) (s : State) : Host.Outcome State Fault Refusal :=
  custom0 (opVscanI32 rd rs1) stall s

/-- The operation of `vscanF32` (R285). -/
def opVscanF32 (rd : BitVec 5) (rs1 : BitVec 5) : VInst :=
  scan (f32 fadd) 0x80000000#32 rd rs1

/-- `vscanF32` (R285). -/
def execVscanF32 (rd : BitVec 5) (rs1 : BitVec 5) (stall : BitVec 3) (s : State) : Host.Outcome State Fault Refusal :=
  custom0 (opVscanF32 rd rs1) stall s

/-- The operation of `vcvtBf16F32` (R286). -/
def opVcvtBf16F32 (rd : BitVec 5) (rs1 : BitVec 5) (part : BitVec 2) (em : BitVec 3) : VInst :=
  vconvert .fp32 .bf16 true rd rs1 part em

/-- `vcvtBf16F32` (R286). -/
def execVcvtBf16F32 (rd : BitVec 5) (rs1 : BitVec 5) (part : BitVec 2) (em : BitVec 3) (stall : BitVec 3) (s : State) : Host.Outcome State Fault Refusal :=
  custom0 (opVcvtBf16F32 rd rs1 part em) stall s

/-- The operation of `vcvtF16F32` (R286). -/
def opVcvtF16F32 (rd : BitVec 5) (rs1 : BitVec 5) (part : BitVec 2) (em : BitVec 3) : VInst :=
  vconvert .fp32 .fp16 true rd rs1 part em

/-- `vcvtF16F32` (R286). -/
def execVcvtF16F32 (rd : BitVec 5) (rs1 : BitVec 5) (part : BitVec 2) (em : BitVec 3) (stall : BitVec 3) (s : State) : Host.Outcome State Fault Refusal :=
  custom0 (opVcvtF16F32 rd rs1 part em) stall s

/-- The operation of `vcvtE4m3F32` (R286). -/
def opVcvtE4m3F32 (rd : BitVec 5) (rs1 : BitVec 5) (part : BitVec 2) (em : BitVec 3) : VInst :=
  vconvert .fp32 .e4m3 true rd rs1 part em

/-- `vcvtE4m3F32` (R286). -/
def execVcvtE4m3F32 (rd : BitVec 5) (rs1 : BitVec 5) (part : BitVec 2) (em : BitVec 3) (stall : BitVec 3) (s : State) : Host.Outcome State Fault Refusal :=
  custom0 (opVcvtE4m3F32 rd rs1 part em) stall s

/-- The operation of `vcvtE5m2F32` (R286). -/
def opVcvtE5m2F32 (rd : BitVec 5) (rs1 : BitVec 5) (part : BitVec 2) (em : BitVec 3) : VInst :=
  vconvert .fp32 .e5m2 true rd rs1 part em

/-- `vcvtE5m2F32` (R286). -/
def execVcvtE5m2F32 (rd : BitVec 5) (rs1 : BitVec 5) (part : BitVec 2) (em : BitVec 3) (stall : BitVec 3) (s : State) : Host.Outcome State Fault Refusal :=
  custom0 (opVcvtE5m2F32 rd rs1 part em) stall s

/-- The operation of `vcvtI8F32` (R286). -/
def opVcvtI8F32 (rd : BitVec 5) (rs1 : BitVec 5) (part : BitVec 2) (em : BitVec 3) : VInst :=
  vconvert .fp32 .int8 false rd rs1 part em

/-- `vcvtI8F32` (R286). -/
def execVcvtI8F32 (rd : BitVec 5) (rs1 : BitVec 5) (part : BitVec 2) (em : BitVec 3) (stall : BitVec 3) (s : State) : Host.Outcome State Fault Refusal :=
  custom0 (opVcvtI8F32 rd rs1 part em) stall s

/-- The operation of `vcvtI32F32` (R286). -/
def opVcvtI32F32 (rd : BitVec 5) (rs1 : BitVec 5) (part : BitVec 2) (em : BitVec 3) : VInst :=
  vconvert .fp32 .int32 false rd rs1 part em

/-- `vcvtI32F32` (R286). -/
def execVcvtI32F32 (rd : BitVec 5) (rs1 : BitVec 5) (part : BitVec 2) (em : BitVec 3) (stall : BitVec 3) (s : State) : Host.Outcome State Fault Refusal :=
  custom0 (opVcvtI32F32 rd rs1 part em) stall s

/-- The operation of `vcvtI8I32` (R286). -/
def opVcvtI8I32 (rd : BitVec 5) (rs1 : BitVec 5) (part : BitVec 2) (em : BitVec 3) : VInst :=
  vconvert .int32 .int8 false rd rs1 part em

/-- `vcvtI8I32` (R286). -/
def execVcvtI8I32 (rd : BitVec 5) (rs1 : BitVec 5) (part : BitVec 2) (em : BitVec 3) (stall : BitVec 3) (s : State) : Host.Outcome State Fault Refusal :=
  custom0 (opVcvtI8I32 rd rs1 part em) stall s

/-- The operation of `vcvtF32I32` (R286). -/
def opVcvtF32I32 (rd : BitVec 5) (rs1 : BitVec 5) (part : BitVec 2) (em : BitVec 3) : VInst :=
  vconvert .int32 .fp32 false rd rs1 part em

/-- `vcvtF32I32` (R286). -/
def execVcvtF32I32 (rd : BitVec 5) (rs1 : BitVec 5) (part : BitVec 2) (em : BitVec 3) (stall : BitVec 3) (s : State) : Host.Outcome State Fault Refusal :=
  custom0 (opVcvtF32I32 rd rs1 part em) stall s

/-- The operation of `vcvtF32Bf16` (R286). -/
def opVcvtF32Bf16 (rd : BitVec 5) (rs1 : BitVec 5) (part : BitVec 2) (em : BitVec 3) : VInst :=
  vconvert .bf16 .fp32 false rd rs1 part em

/-- `vcvtF32Bf16` (R286). -/
def execVcvtF32Bf16 (rd : BitVec 5) (rs1 : BitVec 5) (part : BitVec 2) (em : BitVec 3) (stall : BitVec 3) (s : State) : Host.Outcome State Fault Refusal :=
  custom0 (opVcvtF32Bf16 rd rs1 part em) stall s

/-- The operation of `vcvtF32F16` (R286). -/
def opVcvtF32F16 (rd : BitVec 5) (rs1 : BitVec 5) (part : BitVec 2) (em : BitVec 3) : VInst :=
  vconvert .fp16 .fp32 false rd rs1 part em

/-- `vcvtF32F16` (R286). -/
def execVcvtF32F16 (rd : BitVec 5) (rs1 : BitVec 5) (part : BitVec 2) (em : BitVec 3) (stall : BitVec 3) (s : State) : Host.Outcome State Fault Refusal :=
  custom0 (opVcvtF32F16 rd rs1 part em) stall s

/-- The operation of `vcvtF32E4m3` (R286). -/
def opVcvtF32E4m3 (rd : BitVec 5) (rs1 : BitVec 5) (part : BitVec 2) (em : BitVec 3) : VInst :=
  vconvert .e4m3 .fp32 false rd rs1 part em

/-- `vcvtF32E4m3` (R286). -/
def execVcvtF32E4m3 (rd : BitVec 5) (rs1 : BitVec 5) (part : BitVec 2) (em : BitVec 3) (stall : BitVec 3) (s : State) : Host.Outcome State Fault Refusal :=
  custom0 (opVcvtF32E4m3 rd rs1 part em) stall s

/-- The operation of `vcvtF32E5m2` (R286). -/
def opVcvtF32E5m2 (rd : BitVec 5) (rs1 : BitVec 5) (part : BitVec 2) (em : BitVec 3) : VInst :=
  vconvert .e5m2 .fp32 false rd rs1 part em

/-- `vcvtF32E5m2` (R286). -/
def execVcvtF32E5m2 (rd : BitVec 5) (rs1 : BitVec 5) (part : BitVec 2) (em : BitVec 3) (stall : BitVec 3) (s : State) : Host.Outcome State Fault Refusal :=
  custom0 (opVcvtF32E5m2 rd rs1 part em) stall s

/-- The operation of `vcvtI32I8` (R286). -/
def opVcvtI32I8 (rd : BitVec 5) (rs1 : BitVec 5) (part : BitVec 2) (em : BitVec 3) : VInst :=
  vconvert .int8 .int32 false rd rs1 part em

/-- `vcvtI32I8` (R286). -/
def execVcvtI32I8 (rd : BitVec 5) (rs1 : BitVec 5) (part : BitVec 2) (em : BitVec 3) (stall : BitVec 3) (s : State) : Host.Outcome State Fault Refusal :=
  custom0 (opVcvtI32I8 rd rs1 part em) stall s

/-- The operation of `vzero` (R288). -/
def opVzero (rd : BitVec 5) : VInst :=
  { lat := 1, reads := [], writes := [rd.toNat], masked := false, steps := noSteps, run := fun _ => [(rd.toNat, 0#512)] }

/-- `vzero` (R288). -/
def execVzero (rd : BitVec 5) (stall : BitVec 3) (s : State) : Host.Outcome State Fault Refusal :=
  custom0 (opVzero rd) stall s

/-- The operation of `vid` (R288). -/
def opVid (rd : BitVec 5) : VInst :=
  { lat := 1, reads := [], writes := [rd.toNat], masked := true, steps := noSteps,
    run := fun c => [(rd.toNat, vmake (fun j => if c.active j then BitVec.ofNat 32 j else vlane (c.rv rd) j))] }

/-- `vid` (R288). -/
def execVid (rd : BitVec 5) (stall : BitVec 3) (s : State) : Host.Outcome State Fault Refusal :=
  custom0 (opVid rd) stall s

/-! Repetition (R289). -/

/-- The operation and stall count of a custom-0 instruction of groups 000 to 110. -/
def vinstOf (i : Instr) : Option (VInst × BitVec 3) :=
  match i with
  | .vaddI32 rd rs1 rs2 stall => some (opVaddI32 rd rs1 rs2, stall)
  | .vsubI32 rd rs1 rs2 stall => some (opVsubI32 rd rs1 rs2, stall)
  | .vmulI32 rd rs1 rs2 stall => some (opVmulI32 rd rs1 rs2, stall)
  | .vmulhI32 rd rs1 rs2 stall => some (opVmulhI32 rd rs1 rs2, stall)
  | .vminI32 rd rs1 rs2 stall => some (opVminI32 rd rs1 rs2, stall)
  | .vmaxI32 rd rs1 rs2 stall => some (opVmaxI32 rd rs1 rs2, stall)
  | .vminuI32 rd rs1 rs2 stall => some (opVminuI32 rd rs1 rs2, stall)
  | .vmaxuI32 rd rs1 rs2 stall => some (opVmaxuI32 rd rs1 rs2, stall)
  | .vand rd rs1 rs2 stall => some (opVand rd rs1 rs2, stall)
  | .vor rd rs1 rs2 stall => some (opVor rd rs1 rs2, stall)
  | .vxor rd rs1 rs2 stall => some (opVxor rd rs1 rs2, stall)
  | .vsllI32 rd rs1 rs2 stall => some (opVsllI32 rd rs1 rs2, stall)
  | .vsrlI32 rd rs1 rs2 stall => some (opVsrlI32 rd rs1 rs2, stall)
  | .vsraI32 rd rs1 rs2 stall => some (opVsraI32 rd rs1 rs2, stall)
  | .vaddsI32 rd rs1 rs2 stall => some (opVaddsI32 rd rs1 rs2, stall)
  | .vmacI32 rd rs1 rs2 stall => some (opVmacI32 rd rs1 rs2, stall)
  | .vaddI16 rd rs1 rs2 stall => some (opVaddI16 rd rs1 rs2, stall)
  | .vsubI16 rd rs1 rs2 stall => some (opVsubI16 rd rs1 rs2, stall)
  | .vaddsI16 rd rs1 rs2 stall => some (opVaddsI16 rd rs1 rs2, stall)
  | .vsubsI16 rd rs1 rs2 stall => some (opVsubsI16 rd rs1 rs2, stall)
  | .vaddusI16 rd rs1 rs2 stall => some (opVaddusI16 rd rs1 rs2, stall)
  | .vminI16 rd rs1 rs2 stall => some (opVminI16 rd rs1 rs2, stall)
  | .vmaxI16 rd rs1 rs2 stall => some (opVmaxI16 rd rs1 rs2, stall)
  | .vmulI16 rd rs1 rs2 stall => some (opVmulI16 rd rs1 rs2, stall)
  | .vaddI8 rd rs1 rs2 stall => some (opVaddI8 rd rs1 rs2, stall)
  | .vsubI8 rd rs1 rs2 stall => some (opVsubI8 rd rs1 rs2, stall)
  | .vaddsI8 rd rs1 rs2 stall => some (opVaddsI8 rd rs1 rs2, stall)
  | .vsubsI8 rd rs1 rs2 stall => some (opVsubsI8 rd rs1 rs2, stall)
  | .vaddusI8 rd rs1 rs2 stall => some (opVaddusI8 rd rs1 rs2, stall)
  | .vminI8 rd rs1 rs2 stall => some (opVminI8 rd rs1 rs2, stall)
  | .vmaxI8 rd rs1 rs2 stall => some (opVmaxI8 rd rs1 rs2, stall)
  | .vmulI8 rd rs1 rs2 stall => some (opVmulI8 rd rs1 rs2, stall)
  | .vfaddF32 rd rs1 rs2 stall => some (opVfaddF32 rd rs1 rs2, stall)
  | .vfsubF32 rd rs1 rs2 stall => some (opVfsubF32 rd rs1 rs2, stall)
  | .vfmulF32 rd rs1 rs2 stall => some (opVfmulF32 rd rs1 rs2, stall)
  | .vfminF32 rd rs1 rs2 stall => some (opVfminF32 rd rs1 rs2, stall)
  | .vfmaxF32 rd rs1 rs2 stall => some (opVfmaxF32 rd rs1 rs2, stall)
  | .vfmaF32 rd rs1 rs2 stall => some (opVfmaF32 rd rs1 rs2, stall)
  | .vfmsF32 rd rs1 rs2 stall => some (opVfmsF32 rd rs1 rs2, stall)
  | .vfabsF32 rd rs1 stall => some (opVfabsF32 rd rs1, stall)
  | .vfnegF32 rd rs1 stall => some (opVfnegF32 rd rs1, stall)
  | .vfaddBf16 rd rs1 rs2 stall => some (opVfaddBf16 rd rs1 rs2, stall)
  | .vfsubBf16 rd rs1 rs2 stall => some (opVfsubBf16 rd rs1 rs2, stall)
  | .vfmulBf16 rd rs1 rs2 stall => some (opVfmulBf16 rd rs1 rs2, stall)
  | .vfminBf16 rd rs1 rs2 stall => some (opVfminBf16 rd rs1 rs2, stall)
  | .vfmaxBf16 rd rs1 rs2 stall => some (opVfmaxBf16 rd rs1 rs2, stall)
  | .vfmaBf16 rd rs1 rs2 stall => some (opVfmaBf16 rd rs1 rs2, stall)
  | .vdotBf16 rd rs1 rs2 stall => some (opVdotBf16 rd rs1 rs2, stall)
  | .vfaddF16 rd rs1 rs2 stall => some (opVfaddF16 rd rs1 rs2, stall)
  | .vfsubF16 rd rs1 rs2 stall => some (opVfsubF16 rd rs1 rs2, stall)
  | .vfmulF16 rd rs1 rs2 stall => some (opVfmulF16 rd rs1 rs2, stall)
  | .vfminF16 rd rs1 rs2 stall => some (opVfminF16 rd rs1 rs2, stall)
  | .vfmaxF16 rd rs1 rs2 stall => some (opVfmaxF16 rd rs1 rs2, stall)
  | .vfmaF16 rd rs1 rs2 stall => some (opVfmaF16 rd rs1 rs2, stall)
  | .vdotF16 rd rs1 rs2 stall => some (opVdotF16 rd rs1 rs2, stall)
  | .vcmpeqI32 rd rs1 rs2 stall => some (opVcmpeqI32 rd rs1 rs2, stall)
  | .vcmpltI32 rd rs1 rs2 stall => some (opVcmpltI32 rd rs1 rs2, stall)
  | .vcmpltuI32 rd rs1 rs2 stall => some (opVcmpltuI32 rd rs1 rs2, stall)
  | .vfcmpeqF32 rd rs1 rs2 stall => some (opVfcmpeqF32 rd rs1 rs2, stall)
  | .vfcmpltF32 rd rs1 rs2 stall => some (opVfcmpltF32 rd rs1 rs2, stall)
  | .vfcmpleF32 rd rs1 rs2 stall => some (opVfcmpleF32 rd rs1 rs2, stall)
  | .vfclassF32 rd rs1 set stall => some (opVfclassF32 rd rs1 set, stall)
  | .mand rd rs1 rs2 stall => some (opMand rd rs1 rs2, stall)
  | .mor rd rs1 rs2 stall => some (opMor rd rs1 rs2, stall)
  | .mxor rd rs1 rs2 stall => some (opMxor rd rs1 rs2, stall)
  | .mandn rd rs1 rs2 stall => some (opMandn rd rs1 rs2, stall)
  | .vperm rd rs1 rs2 stall => some (opVperm rd rs1 rs2, stall)
  | .vrot rd rs1 n stall => some (opVrot rd rs1 n, stall)
  | .vmerge rd rs1 rs2 stall => some (opVmerge rd rs1 rs2, stall)
  | .vbcast rd rs1 n stall => some (opVbcast rd rs1 n, stall)
  | .vredsumI32 rd rs1 stall => some (opVredsumI32 rd rs1, stall)
  | .vredmaxI32 rd rs1 stall => some (opVredmaxI32 rd rs1, stall)
  | .vredminI32 rd rs1 stall => some (opVredminI32 rd rs1, stall)
  | .vredsumF32 rd rs1 stall => some (opVredsumF32 rd rs1, stall)
  | .vredmaxF32 rd rs1 stall => some (opVredmaxF32 rd rs1, stall)
  | .vredminF32 rd rs1 stall => some (opVredminF32 rd rs1, stall)
  | .vscanI32 rd rs1 stall => some (opVscanI32 rd rs1, stall)
  | .vscanF32 rd rs1 stall => some (opVscanF32 rd rs1, stall)
  | .vcvtBf16F32 rd rs1 part em stall => some (opVcvtBf16F32 rd rs1 part em, stall)
  | .vcvtF16F32 rd rs1 part em stall => some (opVcvtF16F32 rd rs1 part em, stall)
  | .vcvtE4m3F32 rd rs1 part em stall => some (opVcvtE4m3F32 rd rs1 part em, stall)
  | .vcvtE5m2F32 rd rs1 part em stall => some (opVcvtE5m2F32 rd rs1 part em, stall)
  | .vcvtI8F32 rd rs1 part em stall => some (opVcvtI8F32 rd rs1 part em, stall)
  | .vcvtI32F32 rd rs1 part em stall => some (opVcvtI32F32 rd rs1 part em, stall)
  | .vcvtI8I32 rd rs1 part em stall => some (opVcvtI8I32 rd rs1 part em, stall)
  | .vcvtF32I32 rd rs1 part em stall => some (opVcvtF32I32 rd rs1 part em, stall)
  | .vcvtF32Bf16 rd rs1 part em stall => some (opVcvtF32Bf16 rd rs1 part em, stall)
  | .vcvtF32F16 rd rs1 part em stall => some (opVcvtF32F16 rd rs1 part em, stall)
  | .vcvtF32E4m3 rd rs1 part em stall => some (opVcvtF32E4m3 rd rs1 part em, stall)
  | .vcvtF32E5m2 rd rs1 part em stall => some (opVcvtF32E5m2 rd rs1 part em, stall)
  | .vcvtI32I8 rd rs1 part em stall => some (opVcvtI32I8 rd rs1 part em, stall)
  | _ => none

/-- The custom-0 instruction of groups 000 to 110 that a word's fields name. -/
def repeatable (f : Fields) : Option (VInst × BitVec 3) :=
  let r := if f.op ≠ 11#7 then Except.error DecodeError.majorOpcode
    else if f.f3 = 0#3 then Group.custom00 f
    else if f.f3 = 1#3 then Group.custom01 f
    else if f.f3 = 2#3 then Group.custom02 f
    else if f.f3 = 3#3 then Group.custom03 f
    else if f.f3 = 4#3 then Group.custom04 f
    else if f.f3 = 5#3 then Group.custom05 f
    else if f.f3 = 6#3 then Group.custom06 f
    else .error .operation
  match r with
  | .ok i => if i.wf then vinstOf i else none
  | .error _ => none

/-- A register field moved by `d`: modulo 32 for a v field, modulo 8 for a mask field (kind 1), unchanged for kind 0. -/
def moveField (kind : Nat) (x : BitVec 5) (d : Nat) : BitVec 5 :=
  match kind with
  | 0 => x
  | 1 => BitVec.ofNat 5 ((x.toNat + d) % 8)
  | _ => BitVec.ofNat 5 ((x.toNat + d) % 32)

/-- Kinds of vd, vs1 and vs2 of a custom-0 word: 0 no register, 1 mask, 2 vector (R278 to R286). -/
def fieldKinds (f : Fields) : Nat × Nat × Nat :=
  let op := (f.b1 ++ f.c3).toNat
  if f.f3 = 4#3 then (if 8 ≤ op then (1, 1, 1) else (1, 2, if op = 6 then 0 else 2))
  else if f.f3 = 5#3 then (2, 2, if op = 0 ∨ op = 2 then 2 else 0)
  else if f.f3 = 6#3 then (2, 2, 0)
  else if f.f3 = 2#3 then (2, 2, if op = 8 ∨ op = 9 then 0 else 2)
  else (2, 2, 2)

/-- The fields of repetition `i`: each register field that SMASK selects moves on by i × step (R289). `g` holds the fields as
the decode table maps them. -/
def stagger (g f : Fields) (smask : BitVec 3) (d : Nat) : Fields :=
  let k := fieldKinds g
  { f with
    rd := if smask.getLsbD 0 then moveField k.1 f.rd d else f.rd
    rs1 := if smask.getLsbD 1 then moveField k.2.1 f.rs1 d else f.rs1
    rs2 := if smask.getLsbD 2 then moveField k.2.2 f.rs2 d else f.rs2 }

/-- A word as the core's decode table maps it. -/
def State.mapsTo (s : State) (n : Nat) (w : IWord) : Option IWord :=
  match s.table (s.coreAt n).ten (s.coreAt n).csr.dsel with
  | none => some w
  | some t => mapWord t w

/-- Fetch the `k` words after `pc`; the address of the first that lies outside the text stops it (R38). -/
def State.fetchAfter (s : State) (n : Nat) (pc : Word) : Nat → Except Word (List IWord)
  | 0 => .ok []
  | k + 1 =>
    match (s.updCore n (fun c => { c with pc := pc + 4#64 })).fetch n with
    | .word w => (match s.fetchAfter n (pc + 4#64) k with
      | .ok l => .ok (w :: l)
      | .error a => .error a)
    | .fault | .void => .error (pc + 4#64)

/-- One word of a repetition: its own fields and its mapped fields. -/
abbrev RepWord := Fields × Fields

/-- The words as fields; the first that is no repeatable custom-0 word stops it. -/
def State.repWords (s : State) (n : Nat) : List IWord → Except IWord (List RepWord)
  | [] => .ok []
  | w :: t =>
    match s.mapsTo n w with
    | none => .error w
    | some m =>
      if (repeatable (Fields.split m)).isNone then .error w
      else
        match s.repWords n t with
        | .ok l => .ok ((Fields.split w, Fields.split m) :: l)
        | .error e => .error e

/-- Issue the instances of a repetition in order; an underrun under scbchk gives the word of the first instance that has it. -/
def Core.repIssue (now : Nat) (smask : BitVec 3) : List (RepWord × Nat) → Core × Nat → Except IWord (Core × Nat)
  | [], r => .ok r
  | ((f, g), d) :: t, (c, free) =>
    match repeatable (stagger g g smask d) with
    | none => .error (stagger g f smask d).join
    | some (v, stall) =>
      match c.issue v stall.toNat now free with
      | none => .error (stagger g f smask d).join
      | some r => Core.repIssue now smask t r

/-- `vrep` (R288, R289): `len` holds len − 1. -/
def execVrep (rs1 len : BitVec 5) (stp : BitVec 2) (smask stall : BitVec 3) (s : State) : Host.Outcome State Fault Refusal :=
  runCore s (fun n =>
    let c := s.coreAt n
    let k := (c.rx rs1).toNat
    let cnt := len.toNat + 1
    if 16 < k then illegal s
    else
      match s.fetchAfter n c.pc cnt with
      | .error a => trap s 1 a
      | .ok ws =>
        match s.repWords n ws with
        | .error w => trap s 2 (w.setWidth 64)
        | .ok l =>
          let t := max s.time.gtc c.vnext
          let c := { c with vnext := t + 1 + stall.toNat }
          let all := (List.range k).flatMap (fun i => l.map (fun r => (r, i * 2 ^ stp.toNat)))
          match Core.repIssue s.time.gtc smask all (c, s.run.free) with
          | .error w => trap s 24 (w.setWidth 64)
          | .ok (c, free) => .ok (({ s.setCore n c with run := { s.run with free := free } }).retireTo n (c.pc + BitVec.ofNat 64 (4 + 4 * cnt))))

end Sys2Proof.Machine
end

