-- ==== Sys2Proof/Machine/Install.lean ====
section
/-! DEFINITION. Capsules: the portable form, its checks, stall filling, install, delete, rebuild and first use (R10, R11, R49, R54, R154, R160, R162, R224 to R228, R349, R366, R368, R372, R375). -/

namespace Sys2Proof.Machine

/-! Which words are instructions (R40, R54). -/

/-- Bits 31:25 of a word. -/
def Fields.f7 (f : Fields) : BitVec 7 := f.a3 ++ f.b1 ++ f.c3

/-- Groups 101, 110 and 111 of custom-3: the words their entries list for user level, with the fields they name in range and the others zero;
`rebuild` and `dbg.stepdrain` are supervisor's (R40, R349, R352). -/
def sysLegal (f : Fields) : Bool :=
  let z2 := decide (f.rs2 = 0#5)
  let z1 := decide (f.rs1 = 0#5)
  let zd := decide (f.rd = 0#5)
  let op := (Fields.f7 f).toNat
  if f.f3 = 5#3 then
    match op with
    | 0 => z2 && isEngine f.rd
    | 1 | 3 | 6 => z2
    | 2 | 5 => z2 && zd
    | 4 => true
    | _ => false
  else if f.f3 = 6#3 then
    match op with
    | 0 => z2
    | 1 => zd
    | 16 => z1 && decide (f.rs2.toNat < 6)
    | 17 => z1 && decide (f.rs2.toNat < 3)
    | 18 => z2 && decide (f.rd.toNat < 3)
    | 19 | 22 | 23 => z2 && zd
    | 20 | 21 | 24 => z2 && z1 && zd
    | _ => false
  else
    match op with
    | 0 => z2 && z1 && zd
    | 1 | 3 | 4 => z2 && zd
    | 5 => zd
    | 8 | 9 | 10 | 11 | 12 | 13 | 14 | 15 => z2
    | _ => false

/-- Is a decoded instruction well formed? -/
def legalResult (r : Except DecodeError Instr) : Bool :=
  match r with
  | .ok i => i.wf
  | .error _ => false

/-- Is a SYSTEM word legal at user level: `ecall` or `ebreak`, or a word that names a listed CSR, not a supervisor's, and writes no read-only one
(R40, R264)? -/
def systemWordGood (f : Fields) : Bool :=
  match Major.system f with
  | .ok .sret | .ok .wfi | .error _ => false
  | .ok _ =>
    if f.f3 = 0#3 then true
    else
      match CsrName.ofNumber (Fields.f7 f ++ f.rs2) with
      | none => false
      | some c => !c.supervisor && (!c.readOnly || (decide (f.f3.extractLsb' 0 2 ≠ 1#2) && decide (f.rs1 = 0#5)))

/-- Is the word one of the sweep-body operations, which stand in bodies only (R346)? -/
def bodyOp (w : IWord) : Bool :=
  let f := Fields.split w
  decide (f.op = 123#7) && decide (f.f3 = 6#3) && decide (16 ≤ (Fields.f7 f).toNat) && decide ((Fields.f7 f).toNat ≤ 24)

/-- Is the word an instruction of user level, where capsule text runs (R268), under table 0, with its reserved and unused fields zero (R40, R54)? The one canonical word of MISC-MEM is
`fence`, 0x0FF0_000F (R262). -/
def legalWord (w : IWord) : Bool :=
  let f := Fields.split w
  if f.op = 3#7 then legalResult (Major.load f)
  else if f.op = 11#7 then legalResult (Major.custom0 f)
  else if f.op = 15#7 then decide (w = 0x0FF0000F#32)
  else if f.op = 19#7 then legalResult (Major.opImm f)
  else if f.op = 23#7 then true
  else if f.op = 27#7 then legalResult (Major.opImm32 f)
  else if f.op = 35#7 then legalResult (Major.store f)
  else if f.op = 43#7 then legalResult (Major.custom1 f)
  else if f.op = 51#7 then legalResult (Major.op f)
  else if f.op = 55#7 then true
  else if f.op = 59#7 then legalResult (Major.op32 f)
  else if f.op = 91#7 then legalResult (Major.custom2 f)
  else if f.op = 99#7 then legalResult (Major.branch f)
  else if f.op = 103#7 then legalResult (Major.jalr f)
  else if f.op = 111#7 then true
  else if f.op = 115#7 then systemWordGood f
  else if f.op = 123#7 then
    (if f.f3 = 0#3 then legalResult (Group.custom30 f)
     else if f.f3 = 1#3 then legalResult (Group.custom31 f)
     else if f.f3 = 2#3 then legalResult (Group.custom32 f)
     else if f.f3 = 3#3 then legalResult (Group.custom33 f)
     else if f.f3 = 4#3 then legalResult (Group.custom34 f)
     else sysLegal f)
  else false

/-! Targets (R249, R253, R252). -/

/-- The portable index that a branch or `jal` at index `i` names; `none` for another word or a target off the word grid. -/
def targetOf (i : Nat) (f : Fields) : Option Int :=
  let imm : Int := if f.op = 99#7 then (immB (Fields.f7 f) f.rd).toInt else (immJ ((Fields.f7 f) ++ f.rs2 ++ f.rs1 ++ f.f3)).toInt
  if f.op ≠ 99#7 ∧ f.op ≠ 111#7 then none
  else if imm % 4 = 0 then some (i + imm / 4) else none

/-- Is the target inside `[b, b + n)`? -/
def targetIn (i : Nat) (f : Fields) (b n : Nat) : Bool :=
  match targetOf i f with
  | some t => decide ((b : Int) ≤ t) && decide (t < b + n)
  | none => false

/-! Sweep bodies (R160, R161). -/

/-- May the word at index `i` stand in the body `[b, b + n)`? -/
def bodyWordGood (b n i : Nat) (w : IWord) : Bool :=
  let f := Fields.split w
  legalWord w && laneWordGood w &&
    (if f.op = 51#7 ∨ f.op = 59#7 ∨ f.op = 19#7 ∨ f.op = 27#7 ∨ f.op = 3#7 ∨ f.op = 55#7 then true
     else if f.op = 99#7 then targetIn i f b n
     else if f.op = 111#7 then decide (f.rd = 0#5) && targetIn i f b n
     else if f.op = 123#7 ∧ f.f3 = 6#3 then decide ((Fields.f7 f).toNat = 1) || bodyOp w
     else false)

/-! Stall filling (R49). -/

/-- A word of the control-flow graph: of a custom-0 word the v and m registers it touches and those it writes (v 0 to 31, m 32 to 39), its
latency and stall count; and the indices that follow it. -/
structure FlowWord where
  vec : Bool
  regs : List Nat
  writes : List Nat
  lat : Nat
  stall : Nat
  succ : List Int
  deriving DecidableEq, Repr

/-- All eight mask registers: what a word that decides its elements with Active counts as reading. -/
def allMasks : List Nat := (List.range 8).map (32 + ·)

/-- The registers that a vector operation touches in the analysis. -/
def VInst.flow (v : VInst) : List Nat := v.reads ++ v.writes ++ (if v.masked then allMasks else [])

/-- Does the word trap whenever a core executes it at user level: illegal, a sweep-body operation but `swake`, `ecall` or `ebreak`? Every issued
custom-0 instruction completes before the trap (R47), so nothing is in flight behind it. -/
def trapsAlways (m : IWord) : Bool :=
  let f := Fields.split m
  !(legalWord m || (decide (f.op = 15#7) && decide (f.f3 = 0#3))) || bodyOp m || (decide (f.op = 115#7) && decide (f.f3 = 0#3))

/-- The indices that follow the word at index `i`: branches, `jal`, no way over a register jump (R49) or a trap, and over the words that a `vrep`
with n = 0 skips (R289). -/
def flowSucc (i : Nat) (m : IWord) : List Int :=
  let f := Fields.split m
  let next : List Int := [(i : Int) + 1]
  if trapsAlways m then []
  else if f.op = 99#7 then next ++ (targetOf i f).toList
  else if f.op = 111#7 then (targetOf i f).toList
  else if f.op = 103#7 then []
  else if f.op = 11#7 ∧ f.f3 = 7#3 then
    match Group.custom07 f with
    | .ok (.vrep _ len _ _ _) => next ++ [(i : Int) + 2 + len.toNat]
    | _ => next
  else next

/-- The word at index `i`, as the table maps it, in the graph. The words of a sweep body are plain words where a core runs through them. -/
def flowWord (table : Option (List (BitVec 16))) (i : Nat) (w : IWord) : FlowWord :=
  let m := match table with | none => w | some t => (mapWord t w).getD 0#32
  let f := Fields.split m
  let succ := flowSucc i m
  if f.op = 11#7 ∧ !trapsAlways m then
    match repeatable f with
    | some (v, stall) => ⟨true, v.flow, v.writes, v.lat, stall.toNat, succ⟩
    | none =>
      match Group.custom07 f with
      | .ok (.vzero rd stall) => ⟨true, (opVzero rd).flow, (opVzero rd).writes, (opVzero rd).lat, stall.toNat, succ⟩
      | .ok (.vid rd stall) => ⟨true, (opVid rd).flow, (opVid rd).writes, (opVid rd).lat, stall.toNat, succ⟩
      | _ => ⟨true, [], [], 0, f.a3.toNat, succ⟩
  else ⟨false, [], [], 0, 0, succ⟩

/-- What is in flight at a word: (last custom-0 word before it, register, cycles until its write is done). -/
abbrev Flight := List (Nat × Nat × Nat)

/-- Join an entry: the longest wait stands. -/
def Flight.join (l : Flight) (e : Nat × Nat × Nat) : Flight :=
  match takeFirst (fun a : Nat × Nat × Nat => decide (a.1 = e.1) && decide (a.2.1 = e.2.1)) l with
  | some (a, rest) => (e.1, e.2.1, max a.2.2 e.2.2) :: rest
  | none => e :: l

/-- What is in flight after a word, which counts as 1 cycle and its stall cycles, whatever it waits for (R49). -/
def flowOut (i : Nat) (x : FlowWord) (l : Flight) : Flight :=
  if x.vec then
    let merged := l.foldl (fun m e => if x.writes.contains e.2.1 then m else Flight.join m (i, e.2.1, e.2.2)) []
    let all := x.writes.foldl (fun m g => Flight.join m (i, g, x.lat)) merged
    (all.map (fun (e : Nat × Nat × Nat) => (e.1, e.2.1, e.2.2 - (1 + x.stall)))).filter (fun e => decide (0 < e.2.2))
  else (l.map (fun (e : Nat × Nat × Nat) => (e.1, e.2.1, e.2.2 - 1))).filter (fun e => decide (0 < e.2.2))

/-- Carry what is in flight after word `i` to the words that follow it. -/
def flowPush (st : List Flight) (succ : List Int) (l : Flight) : List Flight :=
  succ.foldl (fun st j => if j < 0 then st else st.modify j.toNat (fun m => l.foldl Flight.join m)) st

/-- One round over every word from index `i` on. -/
def flowRound (i : Nat) (st : List Flight) : List FlowWord → List Flight
  | [] => st
  | x :: t => flowRound (i + 1) (flowPush st x.succ (flowOut i x (st.getD i []))) t

/-- Rounds until nothing changes. -/
def flowFix (ws : List FlowWord) (st : List Flight) : Nat → List Flight
  | 0 => st
  | k + 1 =>
    let st' := flowRound 0 st ws
    if st' = st then st else flowFix ws st' k

/-- What word `q` must add so that no word after it underruns. -/
def deficit (ws : List FlowWord) (st : List Flight) (q : Nat) : Nat :=
  (ws.zip st).foldl (fun d p =>
    if p.1.vec then (p.2.filter (fun e => decide (e.1 = q) && p.1.regs.contains e.2.1)).foldl (fun d e => max d e.2.2) d else d) 0

/-- What is in flight at every word. -/
def flights (ws : List FlowWord) : List Flight := flowFix ws (ws.map (fun _ => [])) (64 * ws.length + 1)

/-- The words with another stall count at index `q`. -/
def setStall (ws : List FlowWord) (q stall : Nat) : List FlowWord := ws.modify q (fun x => { x with stall := stall })

/-- The stall count of the word at index `q`. -/
def stallAt (ws : List FlowWord) (q : Nat) : Nat := match ws[q]? with | some x => x.stall | none => 0

/-- Raise stall counts, one word at a time from the first on, until no path underruns: the count of the last custom-0 word before one that
would (log 40). -/
def fillLoop (ws : List FlowWord) : Nat → List FlowWord
  | 0 => ws
  | k + 1 =>
    let st := flights ws
    match (List.range ws.length).find? (fun q => decide (0 < deficit ws st q) && decide (stallAt ws q < 7)) with
    | some q => fillLoop (setStall ws q (min 7 (stallAt ws q + deficit ws st q))) k
    | none => ws

/-- Does no path underrun? -/
def settled (ws : List FlowWord) : Bool := let st := flights ws; (List.range ws.length).all (fun q => decide (deficit ws st q = 0))

/-- Lower each raised count, from the first word on, as far as no path underruns, down to the count of the portable form (R49). -/
def lowerStalls (old : List FlowWord) (ws : List FlowWord) : List FlowWord :=
  (List.range ws.length).foldl (fun ws q =>
    let lo := stallAt old q
    if lo = stallAt ws q then ws
    else
      match (List.range (stallAt ws q - lo)).find? (fun d => settled (setStall ws q (lo + d))) with
      | some d => setStall ws q (lo + d)
      | none => ws) ws

/-- Is index `i` in some body? -/
def inBodies (bodies : List (Nat × Nat)) (i : Nat) : Bool := bodies.any (fun b => decide (b.1 ≤ i) && decide (i < b.1 + b.2))

/-- The native body: every custom-0 stall count raised as R49 gives, no other field of any word changed. -/
def fillStalls (table : Option (List (BitVec 16))) (words : List IWord) : List IWord :=
  let ws := words.zipIdx.map (fun p => flowWord table p.2 p.1)
  let out := lowerStalls ws (fillLoop ws (7 * words.length + 1))
  (words.zip out).map (fun p => if p.2.vec then BitVec.ofNat 3 p.2.stall ++ p.1.extractLsb' 0 29 else p.1)

/-! The portable form (R372). It is read through a function from offset and length to a number. -/

/-- Places of a form: (offset, bytes). -/
abbrev Part := Nat × Nat

/-- Do two parts share no byte? -/
def apart (a b : Part) : Bool := decide (a.2 = 0) || decide (b.2 = 0) || decide (a.1 + a.2 ≤ b.1) || decide (b.1 + b.2 ≤ a.1)

/-- Is every part apart from every other? -/
def allApart : List Part → Bool
  | [] => true
  | a :: t => t.all (apart a) && allApart t

def formNins (r : Nat → Nat → Nat) : Nat := r 8 4
def formBodies (r : Nat → Nat → Nat) : List (Nat × Nat) := (List.range (r 14 2)).map (fun i => (r (r 48 8 + 8 * i) 4, r (r 48 8 + 8 * i + 4) 4))
def formWords (r : Nat → Nat → Nat) : List IWord := (List.range (formNins r)).map (fun i => BitVec.ofNat 32 (r (r 24 8 + 4 * i) 4))

/-- The end of the names of the export table. -/
def exportEnd (r : Nat → Nat → Nat) : Nat :=
  (List.range (r 18 2)).foldl (fun m i => max m (r (r 56 8 + 16 * i) 4 + r (r 56 8 + 16 * i + 4) 2)) (16 * r 18 2)

/-- The parts that the header locates. -/
def formParts (r : Nat → Nat → Nat) : List Part :=
  [(0, 512), (r 24 8, 4 * formNins r), (r 32 8, r 20 4), (r 40 8, 16 * r 12 2), (r 48 8, 8 * r 14 2), (r 56 8, exportEnd r)]

/-- Limits of the header's own fields. -/
def headerGood (r : Nat → Nat → Nat) : Bool :=
  decide (r 0 4 = 0x5A555A44) && decide (r 4 2 = 1) && decide (r 6 1 ≤ 15) && decide (1 ≤ r 7 1) && decide (r 7 1 ≤ 16) &&
    decide (1 ≤ formNins r) && decide (formNins r ≤ 2 ^ 20) && decide (r 12 2 ≤ 256) && decide (r 14 2 ≤ 256) && decide (r 20 4 ≤ 2 ^ 30) &&
    decide (r 24 8 % 4 = 0) && decide (r 32 8 % 8 = 0) && decide (r 40 8 % 8 = 0) && decide (r 48 8 % 8 = 0) && decide (r 56 8 % 8 = 0) &&
    (List.range 24).all (fun i => decide (r (320 + 8 * i) 8 = 0))

/-- Stage entries. -/
def stagesGood (r : Nat → Nat → Nat) : Bool :=
  (List.range 16).all (fun s =>
    let o := 64 + 8 * s
    if s < r 7 1 then
      decide (r o 4 < formNins r) && !inBodies (formBodies r) (r o 4) && decide (r (o + 4) 1 ≤ 20) && decide (r (o + 5) 1 ≤ 16) &&
        (decide (r (o + 4) 1 = 0) == decide (r (o + 5) 1 = 0)) && decide (r (o + 6) 2 = 0)
    else decide (r o 8 = 0))

/-- Window entries (R93, R94). -/
def windowsGood (r : Nat → Nat → Nat) : Bool :=
  (List.range 16).all (fun w =>
    let e := BitVec.ofNat 64 (r (192 + 8 * w) 8)
    if natBit (r 16 2) w then winConsistent e && decide (e.extractLsb' 0 32 = 0#32) else decide (e = 0#64))

/-- A tensor entry (R154). -/
def formTensor (r : Nat → Nat → Nat) (i : Nat) : Tensor :=
  let o := r 40 8 + 16 * i
  ⟨r o 1, r (o + 1) 1, r (o + 4) 4, r (o + 8) 8⟩

/-- Limits of a tensor entry (R154, R372). -/
def tensorGood (r : Nat → Nat → Nat) (i : Nat) : Bool :=
  let t := formTensor r i
  let size := ((Fmt.ofCode t.fmt).getD .fp32).bits / 8
  decide (t.fmt ≤ 6) && [1, 2, 4, 8, 16].contains t.width && decide (r (r 40 8 + 16 * i + 2) 2 = 0) && decide (1 ≤ t.count) && decide (t.count ≤ 2 ^ 24) &&
    (decide (t.ctx = 0) || (decide (t.ctx % 16 = 0) && decide (t.count * size ≤ t.ctx)))

/-- Bodies and their words (R160, R372). -/
def bodiesGood (r : Nat → Nat → Nat) : Bool :=
  let l := formBodies r
  allApart l && l.all (fun b => decide (1 ≤ b.2) && decide (b.1 + b.2 ≤ formNins r) &&
    (List.range b.2).all (fun k => bodyWordGood b.1 b.2 (b.1 + k) (BitVec.ofNat 32 (r (r 24 8 + 4 * (b.1 + k)) 4))))

/-- The name of export `i`. -/
def exportName (r : Nat → Nat → Nat) (i : Nat) : List Nat :=
  let o := r 56 8 + 16 * i
  (List.range (r (o + 4) 2)).map (fun k => r (r 56 8 + r o 4 + k) 1)

/-- The bytes of `xplan`. -/
def xplanName : List Nat := [0x78, 0x70, 0x6C, 0x61, 0x6E]

/-- Export entries (R372, R375). -/
def exportsGood (r : Nat → Nat → Nat) : Bool :=
  let n := r 18 2
  (List.range n).all (fun i =>
    let o := r 56 8 + 16 * i
    decide (16 * n ≤ r o 4) && decide (1 ≤ r (o + 4) 2) && decide (r (o + 4) 2 ≤ 255) && decide (r (o + 6) 1 ≤ 1) && decide (r (o + 7) 1 = 0) &&
      (if r (o + 6) 1 = 0 then decide (r (o + 8) 8 % 4 = 0) && decide (r (o + 8) 8 ≤ 4 * formNins r) else decide (r (o + 8) 8 ≤ r 20 4))) &&
    decide (((List.range n).filter (fun i => decide (exportName r i = xplanName))).length ≤ 1)

/-- Where the plan table stands in the data image (R224): `none` without an `xplan` of the data image. -/
def planAt (r : Nat → Nat → Nat) : Option Nat :=
  match (List.range (r 18 2)).find? (fun i => decide (exportName r i = xplanName) && decide (r (r 56 8 + 16 * i + 6) 1 = 1)) with
  | some i => some (r (r 56 8 + 16 * i + 8) 8)
  | none => none

/-- The 512 rules of the plan table. -/
def planRules (r : Nat → Nat → Nat) (a : Nat) : List (BitVec 128) := (List.range 512).map (fun i => BitVec.ofNat 128 (r (r 32 8 + a + 16 * i) 16))

/-- Does a rule keep R224? -/
def ruleGood (p : BitVec 128) : Bool :=
  decide (p.extractLsb' 109 3 = 0#3) && decide (p.extractLsb' 77 19 = 0#19) && decide (p.extractLsb' 52 12 = 0#12) &&
    decide (p.extractLsb' 44 4 = 0#4) && decide (p.extractLsb' 12 20 = 0#20) &&
    (!p.getLsbD 127 || !decide (p.extractLsb' 125 2 = 3#2)) &&
    decide (p.extractLsb' 112 13 ≤ p.extractLsb' 96 13) && decide (p.extractLsb' 32 12 ≤ p.extractLsb' 0 12)

/-- The plan table keeps R224, or there is none. -/
def planGood (r : Nat → Nat → Nat) : Bool :=
  match planAt r with
  | none => true
  | some a => decide (a + 8192 ≤ r 20 4) && (planRules r a).all ruleGood

/-- The words of the form: each legal, and no sweep-body operation outside every body (R54, R346). -/
def wordsGood (r : Nat → Nat → Nat) : Bool :=
  (formWords r).zipIdx.all (fun p => legalWord p.1 && (!bodyOp p.1 || inBodies (formBodies r) p.2))

/-- Does a form pass every check of install (R54, R154, R160, R224, R372)? Its header's limits hold. -/
def formGood (r : Nat → Nat → Nat) : Bool :=
  allApart (formParts r) && stagesGood r && windowsGood r && (List.range (r 12 2)).all (tensorGood r) && bodiesGood r && exportsGood r && planGood r &&
    wordsGood r

/-! Reading the form at PFADDR (R149, R372; log 41). -/

/-- The key of a byte of the tenant's paged region, as its tables stand. -/
def State.pfKey (s : State) (t va : Nat) : Option Nat :=
  match s.walk t 0 va .load with
  | .ok (_, some e) => some (e.key va)
  | _ => none

/-- Read the tenant's bytes `[va, stop)` at their homes, at most so many lines; the flag falls when a page faults, one of their words is poisoned or
the paged region ends. -/
def State.touch (s : State) (t stop va : Nat) : Nat → Except Stop (State × Bool)
  | 0 => .ok (s, true)
  | k + 1 => do
    if stop ≤ va then return (s, true)
    if 0x20000000000 ≤ va then return (s, false)
    let (s, e) ← s.walk t 0 va .load
    match e with
    | none => pure (s, false)
    | some e =>
      let key := e.key va
      let n := min (128 - va % 128) (stop - va)
      let bad := s.anyPoison key n
      let s ← (if s.atHome key n then do let (s, _) ← s.homeRead key n; pure s else pure s : Except Stop State)
      if bad then pure (s, false) else s.touch t stop (va + n) k

/-- Read several parts. -/
def State.touchAll (s : State) (t base : Nat) : List Part → Except Stop (State × Bool)
  | [] => .ok (s, true)
  | p :: rest => do
    let (s, ok) ← s.touch t (base + p.1 + p.2) (base + p.1) (p.2 / 128 + 2)
    if ok then s.touchAll t base rest else pure (s, false)

/-- `n` bytes at offset `o` of the form at `base`. -/
def State.formRead (s : State) (t base o n : Nat) : Nat :=
  bytesToNat ((List.range n).map (fun i => match s.pfKey t (base + o + i) with | some k => s.mem.byte k | none => 0#8))

/-- Write native words from key `k` on. -/
def Mem.putWords (m : Mem) (k : Nat) : List IWord → Mem
  | [] => m
  | w :: t => Mem.putWords (m.write k 4 w.toNat) (k + 4) t

/-- The native body of a form, under the table that its decode select names (R49). -/
def State.nativeBody (s : State) (t : Nat) (r : Nat → Nat → Nat) : List IWord := fillStalls (s.table t (BitVec.ofNat 4 (r 6 1))) (formWords r)

/-- The bytes of a body. -/
def bodyBytes (body : List IWord) : List Byte := body.flatMap (fun w => natToBytes 4 w.toNat)

/-- Put a body into a capsule's text window. -/
def State.putBody (s : State) (c : Nat) (body : List IWord) : State :=
  let s := s.setMem (Tbl.clear s.mem (kText (textBase c)) (kText (textBase c + 0x400000)))
  s.setMem (s.mem.putWords (kText (textBase c)) body)

/-- Seal a new body: the entry takes what the form gives, and the text is written (R225, R226, R228). -/
def State.sealCapsule (s : State) (c t pf : Nat) (r : Nat → Nat → Nat) : State :=
  let body := s.nativeBody t r
  let bytes := bodyBytes body
  let e : Caps := {
    st := .sealed, rb := false, ten := t, dsel := BitVec.ofNat 4 (r 6 1), nins := formNins r, nctx := 0#16, nrun := 0#16, gen := s.tabs.gen
    fw := s.tabs.fw, pf := BitVec.ofNat 64 pf, digest := Config.sm3 bytes, sig := Config.sm2Sign (Config.sm3 bytes)
    stages := (List.range (r 7 1)).map (fun i => (r (64 + 8 * i) 4, r (68 + 8 * i) 1, r (69 + 8 * i) 1))
    windows := (List.range 16).map (fun w => BitVec.ofNat 64 (r (192 + 8 * w) 8))
    tensors := (List.range (r 12 2)).map (formTensor r), bodies := formBodies r, plans := (planAt r).map (planRules r) }
  (s.putBody c body).updCap c (fun _ => e)

/-- A form that fails leaves the entry free (R226). -/
def State.refuseInstall (s : State) (c : Nat) : State := (s.updCap c (fun _ => Caps.free)).blockDone 4 1

/-- The plan table's place in the form: all that install reads of the data image (R375). -/
def planPart (r : Nat → Nat → Nat) : List Part :=
  match planAt r with
  | some a => if a + 8192 ≤ r 20 4 then [(r 32 8 + a, 8192)] else []
  | none => []

/-- The parts of a form that install reads, in the order in which one locates the next: the header; words, tensors, bodies and export
entries; the names; the plan table (R372, R375). -/
def readParts : List ((Nat → Nat → Nat) → List Part) :=
  [fun _ => [(0, 512)],
   fun r => [(r 24 8, 4 * formNins r), (r 40 8, 16 * r 12 2), (r 48 8, 8 * r 14 2), (r 56 8, 16 * r 18 2)],
   fun r => [(r 56 8, exportEnd r)], planPart]

/-- Read the parts, stopping at the first that cannot be read or at a header that breaks a limit. -/
def State.readForm (s : State) (t pf : Nat) : List ((Nat → Nat → Nat) → List Part) → Except Stop (State × Bool)
  | [] => .ok (s, true)
  | f :: rest => do
    let (s, ok) ← s.touchAll t pf (f (s.formRead t pf))
    if ok && headerGood (s.formRead t pf) then s.readForm t pf rest else pure (s, false)

/-- Verify and seal the form at PFADDR for a tenant. The entry is installing from here on (R226): while a read waits at a home the command
stays under way, and its next event goes on. -/
def State.install (s : State) (c t pf : Nat) : State :=
  let s := (s.updCap c (fun _ => { Caps.free with st := .installing })).blockStart 4 (2 * c)
  if pf % 4096 ≠ 0 ∨ 0x20000000000 ≤ pf ∨ !partV (s.part t) then s.refuseInstall c
  else absorb (do
    let (s, ok) ← s.readForm t pf readParts
    if !ok || !formGood (s.formRead t pf) then pure (s.refuseInstall c)
    else pure ((s.sealCapsule c t pf (s.formRead t pf)).blockDone 4 0))

/-! The capsule command block (R226, R366). -/

def State.cpOp (s : State) : Nat := s.blockField 4 0 1
def State.cpTen (s : State) : Nat := s.blockField 4 1 1
def State.cpNum (s : State) : Nat := s.blockField 4 2 2
def State.cpForm (s : State) : Nat := s.blockField 4 8 8

/-- Do the fields keep R366? -/
def State.cpGood (s : State) : Bool :=
  s.blockZero 4 4 8 && s.blockZero 4 16 40 && decide (1 ≤ s.cpOp) && decide (s.cpOp ≤ 3) && decide (s.cpNum ≤ 4095) && decide (s.cpTen ≤ 15)

/-- A rebuild of a capsule's body starts: RB is set, and the performing core takes it behind its earlier requests (R226, R228). -/
def State.startRebuild (s : State) (server c : Nat) : State := (s.updCap c (fun e => { e with rb := true })).addJob server (some c)

/-- A rebuild command starts its rebuild, which stands where the command stood among its core's requests (R226, R228). -/
def State.commandRebuild (s : State) (c : Nat) : State :=
  let s := s.updCap c (fun e => { e with rb := true })
  { s with tabs := { s.tabs with jobs := s.tabs.jobs.map (fun j => if j.2 = none then (j.1, some c) else j) } }

/-- May the command of the capsule block be performed now: it has started, and its core works on no earlier request (R207, R228)? -/
def State.capsTurn (s : State) : Bool := s.blockPending 4 && s.jobTurn none

/-- `capsule install` (R226, R366, R372): OP 1; an OP that does not exist ends here with STATUS 4. It waits for its server core's earlier
requests (R228), and goes on with an install that waits at a home. -/
def execCapsuleInstall (s : State) : Host.Outcome State Fault Refusal :=
  .next (if s.cpOp = 2 ∨ s.cpOp = 3 then s
    else if s.blockUnder 4 then (if (s.cap s.cpNum).st = .installing then s.install s.cpNum s.cpTen s.cpForm else s)
    else if !s.capsTurn then s
    else if !s.cpGood then s.blockDone 4 4
    else
      match (s.cap s.cpNum).st with
      | .free | .deleted => s.install s.cpNum s.cpTen s.cpForm
      | .installing | .sealed | .void => s.blockDone 4 2)

/-- `capsule delete` (R226, R366): OP 2, in its turn (R228). A rebuild of the entry that has not ended goes with it (DESIGN CHOICE, log 109). -/
def execCapsuleDelete (s : State) : Host.Outcome State Fault Refusal :=
  .next (if !s.capsTurn ∨ s.cpOp ≠ 2 then s
    else
      let e := s.cap s.cpNum
      if !s.cpGood ∨ s.cpTen ≠ e.ten then s.blockDone 4 4
      else
        match e.st with
        | .free | .installing | .deleted => s.blockDone 4 5
        | .sealed | .void =>
          if e.nctx = 0#16 ∧ e.nrun = 0#16 ∧ !s.disp.launches.any (fun l => decide (l.caps = s.cpNum)) then
            ((s.dropJob (some s.cpNum)).updCap s.cpNum (fun c => { c with st := .deleted, rb := false })).blockDone 4 0
          else s.blockDone 4 3)

/-- `capsule rebuild` (R226, R366): OP 3, in its turn (R228). A rebuild under way is waited for, with STATUS 3, and its core goes on meanwhile. -/
def execCapsuleRebuild (s : State) : Host.Outcome State Fault Refusal :=
  .next (if !s.capsTurn ∨ s.cpOp ≠ 3 then s
    else
      let e := s.cap s.cpNum
      if !s.cpGood ∨ s.cpTen ≠ e.ten then s.blockDone 4 4
      else
        match e.st with
        | .free | .installing | .deleted => s.blockDone 4 2
        | .sealed => s.blockDone 4 1
        | .void =>
          if e.rb then (s.dropJob none).blockStart 4 (2 * s.cpNum)
          else (s.commandRebuild s.cpNum).blockStart 4 (2 * s.cpNum + 1))

/-! First use and the end of a rebuild (R11, R226, R227, R368). -/

/-- `first-use rebuild`: a core's fetch meets a void body: cause 30 when the tenant has first-use rebuild off, else the rebuild starts, or the
core waits for the one under way (R226, R368). -/
def execFirstUseRebuild (core : Nat) (s : State) : Host.Outcome State Fault Refusal :=
  .next (match (s.coreAt core).task with
    | none => s
    | some t =>
      if (s.cap t.caps).st = .void ∧ (s.coreAt core).mode = .u ∧ s.runs core then
        if partRboff (s.part t.ten) then s.takeTrap core 30 (BitVec.ofNat 64 t.caps)
        else
          let s := if (s.cap t.caps).rb then s else s.startRebuild (s.larupCore (dieOf (clusterOf core))) t.caps
          s.updCore core (fun c => { c with wait := .rebuild })
      else s)

/-- Does a form still give an entry's declarations, so that a rebuild keeps every portable index (R227)? -/
def Caps.sameForm (e : Caps) (r : Nat → Nat → Nat) : Bool :=
  decide (formNins r = e.nins) && decide (BitVec.ofNat 4 (r 6 1) = e.dsel) && decide (formBodies r = e.bodies) &&
    decide ((List.range (r 7 1)).map (fun i => (r (64 + 8 * i) 4, r (68 + 8 * i) 1, r (69 + 8 * i) 1)) = e.stages)

/-- A rebuild is over: RB clears, and a command that started it or waits for it ends (R226). -/
def State.rebuildOver (s : State) (c mine other : Nat) : State :=
  let s := (s.dropJob (some c)).updCap c (fun e => { e with rb := false })
  match (s.block 4).running with
  | some (_, arg + 1) => if s.cpOp = 3 ∧ arg / 2 = c then s.blockDone 4 (if arg % 2 = 1 then mine else other) else s
  | _ => s

/-- A new body from the portable form at PFADDR, sealed for the current GEN and FW (R226, R227). A form that can no longer be read, fails its
check or declares something else leaves the body void, and the STATUS of the command is open (DESIGN CHOICE, log 109). -/
def State.rebuildBody (s : State) (c : Nat) : Except Stop State := do
  let e := s.cap c
  let (s, ok) ← s.readForm e.ten e.pf.toNat readParts
  let r := s.formRead e.ten e.pf.toNat
  if !ok || !formGood r || !e.sameForm r then
    let (w, s) := s.freeWord
    pure (s.rebuildOver c w.toNat w.toNat)
  else
    let body := s.nativeBody e.ten r
    let digest := Config.sm3 (bodyBytes body)
    pure (((s.putBody c body).updCap c (fun e =>
      { e with st := .sealed, gen := s.tabs.gen, fw := s.tabs.fw, digest := digest, sig := Config.sm2Sign digest })).rebuildOver c 0 3)

/-- `rebuild end`: a new body is sealed, RB clears, and a command that started it or waits for it ends with STATUS 0 or 3 (R226, R227). Each
server core ends its requests one at a time, in their order of arrival (R228). While a read of the form waits at a home it goes on later. -/
def execRebuildEnd (caps : Nat) (s : State) : Host.Outcome State Fault Refusal :=
  .next (if (s.cap caps).rb && s.jobTurn (some caps) then
      if (s.cap caps).st = .void then absorb (s.rebuildBody caps) else s.rebuildOver caps 0 3
    else s)

/-- `rebuild` (R349): only in supervisor mode on a server core. -/
def execRebuild (rd rs1 : BitVec 5) (s : State) : Host.Outcome State Fault Refusal :=
  runCore s (fun n =>
    if (s.coreAt n).mode = .u ∨ !s.isServer n then illegal s
    else
      let c := ((s.rx rs1).extractLsb' 0 12).toNat
      let e := s.cap c
      match (s.coreAt n).contrib with
      | .rebuild k mine =>
        if (s.cap k).rb then hold s .rebuild
        else .ok (s.setRd rd (if mine then 0#64 else 3#64))
      | _ =>
        match e.st with
        | .free | .installing | .deleted => .ok (s.setRd rd 2#64)
        | .sealed => .ok (s.setRd rd 1#64)
        | .void =>
          let s := if e.rb then s else s.startRebuild n c
          hold (s.updCore n (fun k => { k with contrib := .rebuild c (!e.rb) })) .rebuild)

end Sys2Proof.Machine
end

