-- ==== Sys2Proof/Machine/Launch.lean ====
section
/-! DEFINITION. Launches: landing, parse and refusal, dependences, completion, the placement of fields, task loads and the power of clusters (R13 to R23, R69, R80, R81, R144, R185 to R196, R216, R219, R361, R370). -/

namespace Sys2Proof.Machine

/-! The launch record (R185). -/

/-- `n` bytes at offset `o` of a record, as a number. -/
def recNat (r : List Byte) (o n : Nat) : Nat := bytesToNat ((r.drop o).take n)

/-- QD of stage `i` (R185). -/
def recDepth (r : List Byte) (i : Nat) : Nat := recNat r (54 + 8 * i) 2

/-- The launch that a landing's record asks for, with the next sequence number (R185, R187). -/
def State.launchOf (s : State) (l : Landing) : Launch where
  jseq := s.tabs.head
  slot := l.slot
  caps := recNat l.record 0 2
  ten := l.slot / 16
  asid := recNat l.record 4 2
  jseed := BitVec.ofNat 64 (recNat l.record 8 8)
  caddr := BitVec.ofNat 64 (recNat l.record 16 8)
  dep0 := recNat l.record 24 8
  dep1 := recNat l.record 32 8
  args := (List.range 9).map (fun a => BitVec.ofNat 64 (recNat l.record (176 + 8 * a) 8))
  stages := (List.range 16).map (fun i => ⟨recNat l.record (48 + 8 * i) 4, recNat l.record (52 + 8 * i) 2, 0, 0⟩)
  running := false
  gacc := s.time.gtc
  ntask := 0
  nfault := 0

/-- Are the reserved fields 0 and every field within its limits (R185)? -/
def recordGood (l : Launch) (r : List Byte) : Bool :=
  decide (recNat r 2 2 = 0) && decide (recNat r 6 2 = 0) && decide (recNat r 40 8 = 0) && decide (recNat r 248 7 = 0) &&
    decide (l.caps < 4096) && decide (l.dep0 < l.jseq) && decide (l.dep1 < l.jseq) &&
    (List.range 16).all (fun i =>
      let g := l.stage i
      decide (g.tcnt < 2 ^ 28) && decide (g.w ≤ 320) && (decide (g.tcnt = 0) == decide (g.w = 0)) &&
        !decide (recDepth r i = 1) && decide (recDepth r i ≤ 1024))

/-- The page of the completion address, when the address is usable: a multiple of 64 in the paged region that translates for a store
(R189). -/
def State.caddrPage (s : State) (l : Launch) : Except Stop (State × Option TlbEntry) :=
  if l.caddr.toNat % 64 = 0 ∧ l.caddr.toNat < 0x20000000000 ∧ partV (s.part l.ten) then s.walk l.ten l.asid l.caddr.toNat .store
  else .ok (s, none)

/-! Clusters for a field (R13, R16, R19, R361). -/

/-- The clusters that the partition of a tenant holds. -/
def State.partition (s : State) (t : Nat) : List Nat := if partV (s.part t) then s.maskOf t else []

/-- The teams of field `f` of a stage (R13). -/
def StageRun.teams (g : StageRun) (f : Nat) : Nat := (min (g.tcnt - f * (16 * g.w)) (16 * g.w) + 15) / 16

/-- The gang shape that a capsule declares for a stage, columns and rows. -/
def Caps.gang (c : Caps) (i : Nat) : Option (Nat × Nat) :=
  match c.stages[i]? with
  | some (_, w, h) => if w = 0 then none else some (w, h)
  | none => none

/-- The rectangles of a shape on the mesh, lowest cluster first; each lists its clusters in team order (R6, R361). -/
def rectangles (w h : Nat) : List (List Nat) :=
  (List.range (17 - h)).flatMap (fun y => (List.range (21 - w)).map (fun x => (List.range (w * h)).map (fun t => 20 * (y + t / w) + x + t % w)))

/-- The first rectangle of a shape that lies in a set of clusters (R19). -/
def rectangleIn (l : List Nat) (shape : Nat × Nat) : Option (List Nat) := (rectangles shape.1 shape.2).find? (fun r => r.all l.contains)

/-- How many clusters the largest field of a stage needs (R16, R361). -/
def StageRun.need (g : StageRun) (gang : Option (Nat × Nat)) : Nat := if gang.isSome then g.w else g.teams 0

/-- The status of the checks that need the capsule's declarations (R189); 0 when they pass. -/
def State.capsStatus (s : State) (l : Launch) (r : List Byte) : Nat :=
  let c := s.cap l.caps
  let live := (List.range 16).filter (fun i => !decide ((l.stage i).tcnt = 0))
  let part := s.partition l.ten
  if (c.st ≠ .sealed ∧ c.st ≠ .void) ∨ c.ten ≠ l.ten then 1
  else if (List.range 16).any (fun i => decide (c.stages.length ≤ i) && !decide (recNat r (48 + 8 * i) 8 = 0)) ||
      live.any (fun i => match c.gang i with | some (w, h) => !decide ((l.stage i).w = w * h) | none => false) then 3
  else if live.any (fun i => decide (part.length < (l.stage i).need (c.gang i))) ||
      (decide (2 ≤ live.length) && decide (part.length < (live.map (fun i => (l.stage i).w)).foldl (· + ·) 0)) ||
      (List.range c.stages.length).any (fun i => match c.gang i with | some g => (rectangleIn part g).isNone | none => false) then 2
  else 0

/-! Dependences (R189, R190). -/

/-- How a named entry stands: complete, ended refused or aborted, or (none) not ended. -/
def State.depEnd (s : State) (d : Nat) : Option Bool :=
  if d = 0 ∨ d + 65535 < s.tabs.head then some true
  else if s.entryState d = 3 then some true
  else if s.entryState d = 4 ∨ s.entryState d = 5 then some false
  else none

/-- Does a named entry refuse the launch (R189)? -/
def State.depBad (s : State) (l : Launch) : Bool := decide (s.depEnd l.dep0 = some false) || decide (s.depEnd l.dep1 = some false)

/-- Are both named entries complete (R190)? -/
def State.depsMet (s : State) (l : Launch) : Bool := decide (s.depEnd l.dep0 = some true) && decide (s.depEnd l.dep1 = some true)

/-- The status of a launch at its parse, in R189's order; `usable` says whether its completion address is. -/
def State.parseStatus (s : State) (l : Launch) (r : List Byte) (usable : Bool) : Nat :=
  if !recordGood l r || !usable then 3
  else if s.capsStatus l r ≠ 0 then s.capsStatus l r
  else if s.depBad l then 4
  else 0

/-! Ending a launch (R18, R144, R191). -/

/-- The completion record (R191). -/
def State.completionBytes (s : State) (l : Launch) (status : Nat) : List Byte :=
  natToBytes 8 l.jseq ++ natToBytes 4 status ++ natToBytes 2 l.caps ++ natToBytes 1 l.slot ++ natToBytes 1 0 ++ natToBytes 8 l.gacc ++
    natToBytes 8 s.time.gtc ++ natToBytes 8 l.ntask ++ natToBytes 4 l.nfault ++ natToBytes 20 0

/-- Write the completion record; when its store faults it is not written (R189). -/
def State.complRecord (s : State) (l : Launch) (status : Nat) : Except Stop State := do
  let (s, t) ← s.caddrPage l
  match t with
  | none => pure s
  | some e =>
    let key := e.key l.caddr.toNat
    let bytes := (s.completionBytes l status).map some
    if e.bk = 0 then do
      let (s, _) ← s.homeWrite key bytes 0 4
      pure s
    else pure (s.setMem (s.mem.overlay key bytes))

/-- The journal entry of a launch in a STATE (R192). -/
def State.launchEntry (s : State) (l : Launch) (state status gend : Nat) : State :=
  s.writeEntry ⟨l.jseq, 1, state, l.ten, l.slot, l.caps, status, l.caddr.toNat, l.gacc, gend, l.ntask⟩

/-- The cores of a tenant's partition that hold no task: what they stored, a task that has ended stored. -/
def State.freeCores (s : State) (t : Nat) : List Nat :=
  ((s.partition t).flatMap (fun c => (List.range 16).map (16 * c + ·))).filter (fun n => (s.coreAt n).task.isNone)

/-- Drain the store buffers of some cores. -/
def State.drainCores (s : State) : List Nat → Except Stop State
  | [] => .ok s
  | n :: t => do
    let s ← s.drain n
    s.drainCores t

/-- Does an engine hold a command of the launch? -/
def State.engineWorks (s : State) (p : Cmd → Bool) : Bool :=
  s.clusters.any (fun e => e.2.eng.cmds.any p) || s.engines.any (fun e => e.2.cmds.any p)

/-- The system-scope release of every store made by the launch's tasks and engines (R18, R175). -/
def State.launchRelease (s : State) (l : Launch) : Except Stop State := do
  let s ← s.drainCores (s.freeCores l.ten)
  if (s.freeCores l.ten).any (fun n => !(s.coreAt n).remStores.isEmpty || (s.coreAt n).cxl.any CxlReq.isWrite) ||
      s.engineWorks (fun c => decide (c.jseq = l.jseq)) then hold s .fence
  else pure s

/-- A launch ends with a status, in R18's order: release, replicas dropped, completion record, journal entry. -/
def State.endLaunch (s : State) (l : Launch) (status : Nat) : Except Stop State := do
  let s ← (if l.running then s.launchRelease l else pure s : Except Stop State)
  let s := s.dropReplicasIf (fun r => decide (r.jseq = l.jseq))
  let s ← s.complRecord l status
  let s := s.launchEntry l (if status = 0 then 3 else if status = 7 then 5 else 4) status s.time.gtc
  pure (State.fixTail { s with disp := { s.disp with
    launches := s.disp.launches.filter (fun m => !decide (m.jseq = l.jseq)), queues := s.disp.queues.filter (fun q => !decide (q.jseq = l.jseq)) } })

/-- Have all tasks of a launch ended? -/
def Launch.over (l : Launch) : Bool := l.stages.all (fun g => decide (g.tcnt ≤ g.ended))

/-- Re-examine one launch that waits: refused when a named entry ended badly, running when both are complete; with no task at all it
completes at once (R32, R189, R190). -/
def State.examine (s : State) (j : Nat) : State :=
  match s.launch j with
  | none => s
  | some l =>
    if l.running then s
    else if s.depBad l then absorb (s.endLaunch l 4)
    else if s.depsMet l then
      let l := { l with running := true }
      let s := (s.updLaunch j (fun _ => l)).launchEntry l 2 0 0
      if l.over then absorb (s.endLaunch l 0) else s
    else s

/-- Re-examine the launches that wait, in ascending sequence number (R191). -/
def State.examineAll (s : State) : State := (s.disp.launches.map Launch.jseq).foldl State.examine s

/-! Landing and parse (R186 to R190, R194). -/

/-- `launch landing`: a write of a slot's sequence byte reaches its home (R186). -/
def execLaunchLanding (slot : Nat) (seq : BitVec 8) (s : State) : Host.Outcome State Fault Refusal :=
  .next (if slot < 256 then s.ctrlWrite (256 * slot + 255) [some seq] else s)

/-- The stage queues of a launch, one between each two declared stages (R194). -/
def State.newQueues (s : State) (l : Launch) (r : List Byte) : List StageQ :=
  (List.range ((s.cap l.caps).stages.length - 1)).map (fun i =>
    ⟨l.jseq, i, false, (if recDepth r i = 0 then 64 else recDepth r i) - 1, 0, 0, [], none, none⟩)

/-- LAST and JSEQ of a slot (R188). -/
def State.setSlotStatus (s : State) (slot : Nat) (seq : Byte) (j : Nat) : State :=
  { s with tabs := { s.tabs with status := Tbl.set 0#64 s.tabs.status slot (seq ++ BitVec.ofNat 56 j) } }

/-- Parse a landing (R187): journal entry, LAST and JSEQ, HEAD; a refused record gets its completion record, an accepted one its stage
queues, and it starts when it waits for nothing. -/
def State.parse (s : State) (a : Landing) : Except Stop State := do
  let l := s.launchOf a
  let (s, page) ← s.caddrPage l
  let status := s.parseStatus l a.record page.isSome
  let s ← (if status = 0 then pure s else s.complRecord l status : Except Stop State)
  let s := s.launchEntry l (if status = 0 then 1 else 4) status (if status = 0 then 0 else s.time.gtc)
  let s := s.setSlotStatus a.slot a.seq l.jseq
  let s := { s with tabs := { s.tabs with head := l.jseq + 1 }, disp := { s.disp with landings := s.disp.landings.tail } }
  if status = 0 then
    let s := { s with disp := { s.disp with launches := s.disp.launches ++ [l], queues := s.disp.queues ++ s.newQueues l a.record } }
    pure (s.examine l.jseq)
  else pure s.fixTail

/-- `launch parse`: the monitor parses the landing that waits longest, once the journal has room (R187). It parses a landing from the next cycle
on, so that those of one cycle stand in the order of their slots. -/
def execLaunchParse (s : State) : Host.Outcome State Fault Refusal :=
  .next (match s.disp.landings with
    | [] => s
    | a :: _ => if s.journalFull || decide (s.time.gtc ≤ a.cycle) then s else absorb (s.parse a))

/-- `launch completion` of launch `jseq` (R18, R191): when its last task has ended, or a named entry has refused it; then the launches
that wait are re-examined. -/
def execLaunchCompletion (jseq : Nat) (s : State) : Host.Outcome State Fault Refusal :=
  .next (match s.launch jseq with
    | none => s
    | some l =>
      if l.running ∧ l.over then absorb (do let s ← s.endLaunch l 0; pure s.examineAll)
      else if !l.running ∧ s.depBad l then absorb (do let s ← s.endLaunch l 4; pure s.examineAll)
      else s)

/-! The server's abort of a launch. R189, R191 and R242 give what follows from it; what orders it, and what becomes of a task on a core, the spec
does not say (DESIGN CHOICE, log 23). -/

/-- Is the task that a core holds one of launch `j`? -/
def Core.ofLaunch (c : Core) (j : Nat) : Bool := match c.task with | some k => decide (k.jseq = j) | none => false

/-- Can the server abort a launch: no core holds a task of it and no engine a command (log 23)? -/
def State.abortable (s : State) (l : Launch) : Bool :=
  !s.cores.any (fun e => e.2.ofLaunch l.jseq) && !s.engineWorks (fun c => decide (c.jseq = l.jseq))

/-- A saved cluster without the references of some commands to its sealed buffers (R240). -/
def Cluster.forgetRefs (c : Nat) (k : Cluster) (refs : List Nat) : Cluster :=
  (refs.filter (fun r => decide (r / 32 = c))).foldl (fun k r =>
    let e := k.seals.getD (r % 32) ⟨false, 0, 0, 0⟩
    { k with seals := k.seals.setIfInBounds (r % 32) { e with cnt := e.cnt - 1 } }) k

/-- A saved context without the cores, the engine commands and the messages of launch `j`, and with their clusters' leases free (R242). -/
def Ctx.abandon (x : Ctx) (j : Nat) : Ctx :=
  let gone := (x.cores.filter (fun p => p.2.ofLaunch j)).map Prod.fst
  let mine (c : Cmd) : Bool := decide (c.jseq = j)
  let refs := ((x.clusters.flatMap (fun p => p.2.eng.cmds) ++ x.engines.flatMap Prod.snd).filter mine).flatMap Cmd.refs
  { x with
    cores := x.cores.filter (fun p => !gone.contains p.1)
    clusters := x.clusters.map (fun p =>
      let k := p.2.forgetRefs p.1 refs
      (p.1, if gone.any (fun n => decide (clusterOf n = p.1)) then
          { k with holder := none, lastHolder := none, lwait := [], relClk := 0, relFrom := none, lidle := 0, eng := { Engine.empty with ewm := k.eng.ewm } }
        else k))
    engines := (x.engines.map (fun e => (e.1, e.2.filter (fun c => !mine c)))).filter (fun e => !e.2.isEmpty)
    msgs := x.msgs.filter (fun m => !gone.contains m.src && !gone.contains m.dst) }

/-- How many tasks of launch `j`, idle ranks not counted, a saved context holds (R242). -/
def Ctx.tasksOf (x : Ctx) (j : Nat) : Nat :=
  (x.cores.filter (fun p => match p.2.task with | some k => decide (k.jseq = j) && !k.idle | none => false)).length

/-- The tasks of a launch whose fields have started, and which have not ended (R242). -/
def State.startedTasks (s : State) (l : Launch) : Nat :=
  ((s.disp.fields.filter (fun f => decide (f.jseq = l.jseq) && f.full)).map (fun f => f.running (l.stage f.stage))).foldl (· + ·) 0

/-- The saved state of a launch is abandoned: NCTX falls for each of its saved tasks and NRUN for each that has started, and its fields are given
up (R242). -/
def State.abandon (s : State) (l : Launch) : State :=
  let x := Tbl.get Ctx.empty s.disp.ctxs l.ten
  let n := BitVec.ofNat 16 (x.tasksOf l.jseq)
  let k := BitVec.ofNat 16 (s.startedTasks l)
  let s := s.updCap l.caps (fun c => { c with nctx := c.nctx - n, nrun := c.nrun - k })
  { s with disp := { s.disp with
    ctxs := Tbl.set Ctx.empty s.disp.ctxs l.ten (x.abandon l.jseq), fields := s.disp.fields.filter (fun f => !decide (f.jseq = l.jseq)) } }

/-- The server aborts launch `j`: the steps of R191 with STATUS 7 and STATE 5, its saved state is abandoned, and the launches that wait are
re-examined (R189, R191, R242). A launch that cannot be aborted now is left as it is. -/
def State.serverAbort (s : State) (j : Nat) : State :=
  match s.launch j with
  | none => s
  | some l => if s.abortable l then absorb (do let s ← s.endLaunch l 7; pure (s.abandon l).examineAll) else s

/-! Power (R20). -/

/-- `power gate`: a cluster that has held no team, and that no field has waited for, for 65,536 cycles, or that is in no valid CMASK,
writes back its dirty lines and loses its power (R20). Stores that cannot be performed as it is gated, since they wait for a host or for the clock
ceiling, stay in their buffers and are performed later: R20 has no rule for them (DESIGN CHOICE, log 85). -/
def execPowerGate (cluster : Nat) (s : State) : Host.Outcome State Fault Refusal :=
  .next (if s.gateable cluster && (!s.owned cluster || (!s.clusterWanted cluster && decide ((s.clusterAt cluster).idleSince + 65536 ≤ s.time.gtc))) then
      (absorb (s.drainCores ((List.range 16).map (16 * cluster + ·)))).gate cluster
    else s)

/-- `cluster wake`: 7,200 cycles after the dispatcher called for it, the cluster has power and its SRAM is zero (R20). -/
def execClusterWake (cluster : Nat) (s : State) : Host.Outcome State Fault Refusal :=
  .next (match (s.clusterAt cluster).power with
    | .waking r => if r ≤ s.time.gtc then (s.zeroSram cluster).updCluster cluster (fun k => { k with power := .awake }) else s
    | .gated | .awake => s)

/-! Placement (R13 to R16, R19, R22, R196, R361). -/

/-- The free clusters of a tenant's partition in R19's order: awake, then power-gated, each in ascending number. -/
def State.freeClusters (s : State) (t : Nat) : List Nat :=
  let free := (s.partition t).filter (fun c => !(s.fieldsOf t).any (fun f => f.teams.contains c || f.held.contains c))
  free.filter s.powered ++ free.filter (fun c => !s.powered c)

/-- The placed fields of a stage. -/
def State.stageFields (s : State) (j stage : Nat) : List Field := s.disp.fields.filter (fun f => decide (f.jseq = j) && decide (f.stage = stage))

/-- Has a stage fields that wait? -/
def StageRun.waits (g : StageRun) : Bool := decide (g.placed * (16 * g.w) < g.tcnt)

/-- The stage queue from a stage to the next. -/
def State.queueOf (s : State) (j stage : Nat) : Option StageQ := s.disp.queues.find? (fun q => decide (q.jseq = j) && decide (q.stage = stage))

/-- Has the output queue of a stage room? The last stage has none to fill. -/
def State.outRoom (s : State) (j stage : Nat) : Bool := match s.queueOf j stage with | some q => decide (q.recs.length < q.dm1 + 1) | none => true

/-- How many records wait at the input of a stage. -/
def State.inputCount (s : State) (j stage : Nat) : Nat :=
  if stage = 0 then 0 else match s.queueOf j (stage - 1) with | some q => q.recs.length | none => 0

/-- The stage that freed clusters go to: among those with fields waiting and room in their output queue, the one with the most records at
its input, ties to the lower number (R22). -/
def State.nextStage (s : State) (l : Launch) : Option Nat :=
  ((List.range 16).filter (fun i => (l.stage i).waits && s.outRoom l.jseq i)).foldl (fun best i =>
    match best with
    | some b => if s.inputCount l.jseq b < s.inputCount l.jseq i then some i else some b
    | none => some i) none

/-- The stages that clusters stay kept for: the other stages with tasks left and no field placed, of this launch and of the tenant's launches that
have a field placed (R196). Each with its width and its gang shape. -/
def State.keptStages (s : State) (l : Launch) (stage : Nat) : List (Nat × Option (Nat × Nat)) :=
  let others := s.disp.launches.filter (fun m => decide (m.ten = l.ten) && m.running &&
    (decide (m.jseq = l.jseq) || s.disp.fields.any (fun f => decide (f.jseq = m.jseq))))
  others.flatMap (fun m => ((List.range 16).filter (fun i =>
    !(decide (m.jseq = l.jseq) && decide (i = stage)) && decide ((m.stage i).ended < (m.stage i).tcnt) && (s.stageFields m.jseq i).isEmpty)).map
      (fun i => ((m.stage i).w, (s.cap m.caps).gang i)))

/-- Free clusters set aside for some stages: each gang a rectangle, whichever lets the others fit, and each other stage its width; `none` when that
cannot be done. -/
def reserveFor (free : List Nat) : List (Nat × Option (Nat × Nat)) → Option (List Nat)
  | [] => some []
  | (_, some shape) :: t =>
    (rectangles shape.1 shape.2).findSome? (fun r =>
      if r.all free.contains then (reserveFor (free.filter (fun c => !r.contains c)) t).map (r ++ ·) else none)
  | (w, none) :: t =>
    match reserveFor free t with
    | some l => let rest := free.filter (fun c => !l.contains c); if w ≤ rest.length then some (rest.reverse.take w ++ l) else none
    | none => none

/-- The clusters for the next field of a stage, teams and clusters held idle, when it can be placed now: chosen from the free ones that leave every
kept stage its own (R19, R196, R361). -/
def State.picks (s : State) (l : Launch) (stage : Nat) : Option (List Nat × List Nat) :=
  let g := l.stage stage
  let k := g.teams g.placed
  let free := s.freeClusters l.ten
  let kept := s.keptStages l stage
  let leaves (r : List Nat) : Bool := (reserveFor (free.filter (fun c => !r.contains c)) kept).isSome
  match (s.cap l.caps).gang stage with
  | some shape =>
    match (rectangles shape.1 shape.2).find? (fun r => r.all free.contains && leaves r) with
    | some r => some (r.take k, r.drop k)
    | none => none
  | none =>
    let r := free.take k
    if free.length < k then none
    else if leaves r then some (r, [])
    else
      match reserveFor free kept with
      | some set_ => let r := (free.filter (fun c => !set_.contains c)).take k; if r.length = k then some (r, []) else none
      | none => none

/-- May the stage be given clusters: it has none yet, or it is the stage of R22? -/
def State.stageTurn (s : State) (l : Launch) (stage : Nat) : Bool :=
  (s.stageFields l.jseq stage).isEmpty || decide (s.nextStage l = some stage)

/-- A cluster goes to a field of a tenant: what another left on it is zeroed, and power is called for (R20, R216). -/
def State.takeCluster (s : State) (t c : Nat) : State :=
  let s := if (s.clusterAt c).user = some t then s else s.zeroSram c
  s.updCluster c (fun k => { k with user := some t, power := (match k.power with | .gated => .waking (s.time.gtc + 7200) | p => p) })

/-- `field placement`: the next field of a stage is placed as one gang while its tenant runs (R13, R15, R19). -/
def execFieldPlacement (jseq stage : Nat) (s : State) : Host.Outcome State Fault Refusal :=
  .next (match s.launch jseq with
    | none => s
    | some l =>
      if l.running && (l.stage stage).waits && s.slotActive l.ten && s.stageTurn l stage then
        match s.picks l stage with
        | none => s
        | some (teams, held) =>
          let s := (teams ++ held).foldl (fun s c => s.takeCluster l.ten c) s
          let f : Field := ⟨jseq, stage, (l.stage stage).placed, teams, held, [], [], 0⟩
          let s := { s with disp := { s.disp with fields := s.disp.fields ++ [f] } }
          s.updLaunch jseq (fun l => l.updStage stage (fun g => { g with placed := g.placed + 1 }))
      else s)

/-! Task loads (R14, R17, R21, R69, R80, R81, R219, R370). -/

/-- The seed of a task's stochastic rounding (R80). -/
def taskSeed (j : Word) (lcore : BitVec 32) : Word :=
  let v := j ^^^ (lcore.setWidth 64 * 0x9E3779B97F4A7C15#64)
  if v = 0#64 then 1#64 else v

/-- The lcore CSR of a task: stage and task index (R78). -/
def Task.lcore (t : Task) : BitVec 32 := BitVec.ofNat 4 t.stage ++ BitVec.ofNat 28 t.index

/-- The coord CSR of a task (R78). -/
def Task.coord (t : Task) : Word := BitVec.ofNat 32 t.field ++ 0#15 ++ BitVec.ofNat 9 t.team ++ BitVec.ofNat 4 t.stage ++ BitVec.ofNat 4 t.rank

/-- The CSRs of a task at its load (R17, R78, R80, R81; log 43). -/
def taskCsr (c : Core) (l : Launch) (t : Task) (dsel : BitVec 4) : Csr :=
  { Csr.reset with
    lclk := c.csr.lclk
    dsel := dsel
    coord := t.coord
    lcore := t.lcore
    ptag := BitVec.ofNat 16 l.asid ++ 0#12 ++ BitVec.ofNat 4 l.ten
    srstate := taskSeed l.jseed t.lcore }

/-- A descriptor with its bit V clear (R73, R203). -/
def clearV (w : Word) : Word := w &&& 0x7FFFFFFFFFFFFFFF#64

/-- The core as a task finds it at its first instruction (R17): registers zero but ra, a0 and a1; counters, barriers and marks zero;
rings and receive buffers invalid; windows as declared. Supervisor CSRs, caches, marks and the clock stay the core's own. -/
def Core.load (c : Core) (l : Launch) (t : Task) (cap : Caps) (now : Nat) : Core :=
  let entry := match cap.stages[t.stage]? with | some (e, _, _) => e | none => 0
  { Core.reset with
    x := ((Core.reset.x.setIfInBounds 1 0x3E400000000#64).setIfInBounds 10 0x2200003FFB8#64).setIfInBounds 11 (BitVec.ofNat 64 t.index)
    pc := BitVec.ofNat 64 (textBase t.caps + 4 * entry)
    mode := .u
    csr := taskCsr c l t cap.dsel
    sup := c.sup, q := c.q.map clearV, rb := c.rb.map clearV, win := Vector.ofFn (fun (i : Fin 16) => cap.windows.getD i.val 0#64)
    ev := c.ev, swm := c.swm, scm := c.scm, l1 := c.l1, vb := c.vb, tlb := c.tlb, watches := c.watches, vnext := now, mirMark := c.mirMark
    inc := c.inc, lastRet := now, task := some t }

/-- The task or idle rank that core `n` is to hold in a field (R13, R14). -/
def taskAt (l : Launch) (f : Field) (team rank : Nat) : Task :=
  let i := 16 * (l.stage f.stage).w * f.f + 16 * team + rank
  ⟨l.jseq, f.stage, f.f, team, rank, i, l.caps, l.ten, decide ((l.stage f.stage).tcnt ≤ i)⟩

/-- The field that a core is to be loaded for: it has the core's cluster, every cluster of it has power, and the core is not loaded. -/
def State.loadField (s : State) (t n : Nat) : Option Field :=
  (s.fieldsOf t).find? (fun f =>
    match f.teams.idxOf? (clusterOf n) with
    | some team => f.teams.all s.powered && !f.loaded.contains (16 * team + n % 16)
    | none => false)

/-- Is nothing of the core's earlier work under way: no access outside the package, engine command, sweep pass, barrier update, or message
that could land (R21)? -/
def State.coreQuiet (s : State) (n : Nat) : Bool :=
  (s.coreAt n).cxl.isEmpty && (s.coreAt n).remStores.isEmpty && !s.engineWorks (fun c => decide (c.core = some n)) &&
    !(s.clusterAt (clusterOf n)).passes.any (fun p => decide (p.core = n)) &&
    !(match (s.clusterAt (clusterOf n)).pass with | some p => decide (p.core = n) | none => false) &&
    !(s.net.arrivals ++ s.net.reports).any (fun u => decide (u.dst = n)) &&
    !s.net.msgs.any (fun m => decide (m.dst = n) && s.lands m)

/-- A field starts with the load of its last rank: NRUN rises by 1 for each of its tasks, which reach their first instructions together (R15,
R242; log 42). -/
def State.startField (s : State) (l : Launch) (t : Task) : State :=
  match s.fieldOf t with
  | some f => if f.full then s.updCap l.caps (fun c => { c with nrun := c.nrun + BitVec.ofNat 16 (f.running (l.stage t.stage)) }) else s
  | none => s

/-- Write a task's state onto its core: a zeroed workspace and the argument block, the registers, the logical entry, and NRUN once the field
is complete (R17, R69, R219, R242, R370). The watchdog counts from the load of the field's last rank. -/
def State.loadTask (s : State) (n : Nat) (l : Launch) (f : Field) (t : Task) : State :=
  let s := if t.idle then s else
    (s.padWrite n 0x3F000 (List.replicate 2368 (some 0#8))).padWrite n 0x3FFB8 ((l.args.flatMap (fun a => natToBytes 8 a.toNat)).map some)
  let s := (s.updCore n (fun c => c.load l t (s.cap l.caps) s.time.gtc)).forgetCycle n
  let s := (s.updField t (fun g => { g with loaded := t.logical :: g.loaded })).startField l t
  f.cores.foldl (fun s m => s.updCore m (fun c => if c.task.isSome then { c with lastRet := s.time.gtc } else c)) s

/-- `task load`: the dispatcher loads the rank of core `core` once what the core did before has ended (R21). -/
def execTaskLoad (core : Nat) (s : State) : Host.Outcome State Fault Refusal :=
  .next (match s.disp.active with
    | none => s
    | some ten =>
      match (if s.slotActive ten then s.loadField ten core else none) with
      | none => s
      | some f =>
        match s.launch f.jseq, f.teams.idxOf? (clusterOf core) with
        | some l, some team =>
          absorb (do
            let s ← s.drain core
            if s.coreQuiet core then pure (s.loadTask core l f (taskAt l f team (core % 16))) else pure s)
        | _, _ => s)

end Sys2Proof.Machine
end

