-- ==== Sys2Proof/Machine/Matrix.lean ====
section
/-! DEFINITION. Custom-2: the matrix array's leases, rings, multiplies, accumulator clears, loads and stores, status and progress words, and gang reduction (R76, R111 to R113, R302 to R325). -/

namespace Sys2Proof.Machine

/-! Tiles (R76, R302). -/

/-- Row `i` of a tile. -/
def State.accRow (s : State) (c tile i : Nat) : BitVec 3072 := Tbl.get 0#3072 (s.clusterAt c).acc (64 * tile + i)

/-- Element `j` of a row. -/
def rowElem (r : BitVec 3072) (j : Nat) : Nat := (r.extractLsb' (32 * j) 32).toNat

/-- A row from its elements. -/
def rowMake (l : List Nat) : BitVec 3072 := l.zipIdx.foldl (fun r p => r ||| (BitVec.ofNat 3072 (p.1 % 2 ^ 32) <<< (32 * p.2))) 0#3072

/-- Write a row; poison of its words goes with it (R246). -/
def State.setAccRow (s : State) (c tile i : Nat) (r : BitVec 3072) : State :=
  s.updCluster c (fun k => { k with
    acc := Tbl.set 0#3072 k.acc (64 * tile + i) r, accPoison := k.accPoison.filter (fun p => !decide (p.1 = 64 * tile + i)) })

/-- Does a row hold a poisoned word? An instruction that reads one stops at the row with cause 51, as at a residue mismatch: R246 names no cause
for accumulator memory (DESIGN CHOICE, log 50). -/
def State.accBad (s : State) (c tile i : Nat) : Bool := (s.clusterAt c).accPoison.any (fun p => decide (p.1 = 64 * tile + i))

/-- Count events in a tile's status word. -/
def State.tileEvents (s : State) (c tile : Nat) (l : List Events) : State :=
  s.updCluster c (fun k => { k with status := k.status.setIfInBounds tile (countStatus (k.status.getD tile 0#64) l) })

/-- A tile's progress word: ROW, and ACT. -/
def State.setProg (s : State) (c tile row : Nat) (act : Bool) : State :=
  s.updCluster c (fun k => { k with prog := k.prog.setIfInBounds tile (BitVec.ofNat 64 (row + if act then 128 else 0)) })

/-- The rows an instruction that names a tile processes: from ROW on when ACT is 1 (R321). -/
def State.rowsLeft (s : State) (c tile : Nat) : List Nat :=
  let p := (s.clusterAt c).prog.getD tile 0#64
  if p.getLsbD 7 then (List.range 64).drop (p.extractLsb' 0 7).toNat else List.range 64

/-- The scale record of a tile. -/
def State.scaleOf (s : State) (c tile : Nat) : Scale := (s.clusterAt c).scale.getD tile ⟨false, 0#512, 0#768⟩

def State.setScale (s : State) (c tile : Nat) (r : Scale) : State :=
  s.updCluster c (fun k => { k with scale := k.scale.setIfInBounds tile r })

/-- Process rows in order: a row whose residue fails, or that reads a poisoned word, stops the instruction there, with ROW and ACT set; the
others are written and their events counted (R315, R323). The error state is the one in which cause 51 is taken. -/
def State.runRows (s : State) (c tile : Nat) (bad : Nat → Bool) (f : Nat → List (Nat × Events)) : List Nat → Except State State
  | [] => .ok s
  | i :: t =>
    if (s.clusterAt c).badRow = some i then
      .error (((s.updCluster c (fun k => { k with badRow := none })).setProg c tile i true).count cRESID 1)
    else if bad i then .error (s.setProg c tile i true)
    else
      let l := f i
      ((s.setAccRow c tile i (rowMake (l.map Prod.fst))).tileEvents c tile (l.map Prod.snd)).runRows c tile bad f t

/-! Issue to the array (R303, R308). -/

/-- The cluster number as a tval. -/
def clusterTval (c : Nat) : Word := BitVec.ofNat 64 c

/-- An instruction that needs the lease: cause 26 without it (R308); the holder's issue restarts the idle count. -/
def withLease (s : State) (f : State → Nat → Nat → Except Stop State) : Host.Outcome State Fault Refusal :=
  runCore s (fun n =>
    let c := clusterOf n
    if s.leaseHeld n then f (s.updCluster c (fun k => { k with lidle := 0 })) n c else trap s 26 (clusterTval c))

/-- A matrix instruction's issue is a release at team scope (R177, R303). -/
def State.arrayIssue (s : State) (n : Nat) : Except Stop State := s.release n scopeTeam

/-! Leases (R306, R307). -/

/-- Write the rank or flag an `mlease` form answers; a grant is an acquire at team scope. -/
def State.leaseDone (s : State) (n : Nat) (rd : BitVec 5) (v : Nat) : State := (s.acquire n scopeTeam).setRd rd (BitVec.ofNat 64 v)

/-- A request enters the list of waiting cores once. -/
def State.requestLease (s : State) (n : Nat) : State :=
  s.updCluster (clusterOf n) (fun k => if k.lwait.contains n then k else { k with lwait := k.lwait ++ [n] })

/-- `mlease` (R306): rd takes the previous holder's rank, or 16, or the own rank when the lease was held already. A request is granted at the
end of a cycle, with those that arrived in the same cycle ordered by rank (log 87). -/
def execMlease (rd : BitVec 5) (s : State) : Host.Outcome State Fault Refusal :=
  runCore s (fun n =>
    if s.leaseHeld n then .ok (s.leaseDone n rd (match (s.coreAt n).contrib with | .granted p => p | _ => n % 16))
    else hold (s.requestLease n) .lease)

/-- Is the lease free for a core that asks at once: none holds it, none waits for it, and its latest release is complete (R307)? -/
def State.leaseFree (s : State) (c : Nat) : Bool := (s.clusterAt c).holder.isNone && (s.clusterAt c).lwait.isEmpty && s.leaseReleased c

/-- `mlease.try` (R307): where it succeeds it is an acquire that pairs with the previous holder's release. -/
def execMleaseTry (rd : BitVec 5) (s : State) : Host.Outcome State Fault Refusal :=
  runCore s (fun n =>
    let c := clusterOf n
    if s.leaseHeld n then .ok (s.leaseDone n rd 1)
    else if s.leaseFree c then
      .ok (((s.updCluster c (fun k => k.leaseTo (s.logicalOf n) (s.leaseClock c))).raise n (s.leaseClock c)).leaseDone n rd 1)
    else .ok (s.setRd rd 0#64))

/-- `mrel` (R307): a release at team scope, then the lease falls free. -/
def execMrel (s : State) : Host.Outcome State Fault Refusal :=
  withLease s (fun s n _ => do
    let s ← s.release n scopeTeam
    pure (s.freeLease n).complete)

/-! Ring entries (R310). -/

/-- The operand format of F. -/
def mmaFmt (f : BitVec 3) : Fmt :=
  match f.toNat with
  | 0 => .bf16 | 1 => .fp16 | 2 => .e4m3 | 3 => .e5m2 | 4 => .int8 | _ => .i4x

/-- Its STORED code (R93). -/
def mmaCode (f : BitVec 3) : Nat :=
  match f.toNat with
  | 0 => 1 | 1 => 2 | 2 => 3 | 3 => 4 | 4 => 5 | _ => 7

/-- Bytes of a line of 32 k-values. -/
def lineBytes (f : Fmt) : Nat := 32 * f.bits / 8

/-- The least ESZ of a ring that serves as ring A, or as ring B. -/
def leastEsz (f : Fmt) (b : Bool) : Nat :=
  match f with
  | .bf16 | .fp16 => if b then 7 else 6
  | .e4m3 | .e5m2 | .int8 => if b then 6 else 5
  | _ => 5

/-- A byte of cluster memory (R91). -/
def State.clByte (s : State) (c o : Nat) : Byte := let p := clusterByte c o; s.mem.byte (kPad p.1 p.2)

/-- `n` bytes of cluster memory as a number. -/
def State.clRead (s : State) (c o n : Nat) : Nat := bytesToNat ((List.range n).map (fun i => s.clByte c (o + i)))

/-- The cluster-memory offset of the entry at index `e` of a ring. -/
def ringAt (q : Word) (e : Nat) : Nat := ringBase q + e % ringDepth q * ringEntry q

/-- A ring descriptor of a core. -/
def Core.ring (c : Core) (r : BitVec 5) : Word := c.q.getD r.toNat 0#64

def Core.setRing (c : Core) (r : BitVec 5) (q : Word) : Core := { c with q := c.q.setIfInBounds r.toNat q }

/-- A pop at retirement: HEAD + 1 modulo depth, CNT − 1 (R73, R181). -/
def ringPop (q : Word) : Word := ringMove q (ringCnt q - 1) ((ringHead q + 1) % ringDepth q)

/-- Pop a ring of core `n`; the slot may be filled again from the next cycle on (R325). -/
def State.popRing (s : State) (n : Nat) (r : BitVec 5) : State :=
  (s.updCore n (fun c => c.setRing r (ringPop (c.ring r)))).note (.pop n r.toNat)

/-! Multiply (R111, R112, R315, R316). -/

/-- The exact sum of a chunk's products, and whether it is invalid: a product 0 × ∞, or infinities of both signs. -/
def chunkSum (l : List (Num × Num)) : Num × Bool :=
  let ps := l.map (fun p => Num.mul p.1 p.2)
  let bad := l.any (fun p => !p.1.isNan && !p.2.isNan && (Num.mul p.1 p.2).isNan)
  let sum := match ps with
    | [] => Num.fin false 0 0
    | p :: t => t.foldl (Num.add false) p
  (sum, bad || (ps.contains (.inf true) && ps.contains (.inf false)))

/-- One FP32 addition of matrix accumulation, with its events but NAN. -/
def accAdd (acc : Nat) (p : Num) : Nat × Events :=
  let a := Fmt.fp32.decode acc
  let inv := !a.isNan && !p.isNan && (Num.add false a p).isNan
  let (r, ev) := Fmt.fp32.encode rneModes (Num.add false a p)
  (r, { ev with inv := inv })

/-- Chunks of 16 products from k = 0 on, each summed exactly, rounded, and added (R111). -/
def accChunks (acc : Nat) (ev : Events) (l : List (Num × Num)) : Nat → Nat × Events
  | 0 => (acc, ev)
  | fuel + 1 =>
    if l.isEmpty then (acc, ev)
    else
      let (s, bad) := chunkSum (l.take 16)
      let (p, e1) := Fmt.fp32.encode rneModes s
      let (a, e2) := accAdd acc (Fmt.fp32.decode p)
      accChunks a ((ev.or e2).or { e1 with inv := bad }) (l.drop 16) fuel

/-- NAN counts when an element becomes NaN. -/
def becomesNan (old new : Nat) : Bool := !(Fmt.fp32.decode old).isNan && (Fmt.fp32.decode new).isNan

/-- One element of a floating multiply. -/
def mmaFloat (acc : Nat) (a b : List Num) : Nat × Events :=
  let (r, ev) := accChunks acc Events.none (a.zip b) 2
  (r, { ev with nan := becomesNan acc r })

/-- A saturating INT32 addition. -/
def satAdd32 (acc : Nat) (i : Int) : Nat × Bool :=
  let (v, sat) := clampInt (signedOf 32 acc + i) (-(2 ^ 31)) (2 ^ 31 - 1)
  (intBits 32 v, sat)

/-- Chunks of 16 integer products, each added with saturation (R112). -/
def intChunks (acc : Nat) (sat : Bool) (l : List (Int × Int)) : Nat → Nat × Bool
  | 0 => (acc, sat)
  | fuel + 1 =>
    if l.isEmpty then (acc, sat)
    else
      let (a, b) := satAdd32 acc (((l.take 16).map (fun p => p.1 * p.2)).sum)
      intChunks a (sat || b) (l.drop 16) fuel

/-- One element of an integer multiply; `inv` says whether R316 counts INV for it. -/
def mmaInt (acc : Nat) (a b : List Int) (inv : Bool) : Nat × Events :=
  let (r, sat) := intChunks acc false (a.zip b) 2
  (r, ⟨false, false, inv, sat⟩)

/-- Codes k = 0 to K − 1 of a line at cluster-memory offset `o`. -/
def State.lineCodes (s : State) (c o : Nat) (f : Fmt) (k : Nat) : List Nat :=
  (List.range k).map (fun i => s.clRead c (o + i * (f.bits / 8)) (f.bits / 8))

/-- The I4X units of a line, and whether a code among them is invalid (R102). -/
def State.lineUnits (s : State) (c o k : Nat) : List Int × Bool :=
  let l := (List.range k).map (fun i => i4xUnits (s.clByte c (o + i / 2)).toNat (decide (i % 2 = 1)))
  (l.map Prod.fst, l.any Prod.snd)

/-- One line of an I4X operand: units (0 throughout for a scale of 0xFF), scale byte, invalid code. -/
structure ILine where
  units : List Int
  scale : Nat
  bad : Bool
  deriving DecidableEq, Repr

/-- Line `i` of an I4X entry of `n` lines at `o`. -/
def State.iLine (s : State) (c o n k i : Nat) : ILine :=
  let (u, bad) := s.lineUnits c (o + 16 * i) k
  let sc := (s.clByte c (o + 16 * n + i)).toNat
  ⟨if sc = 255 then u.map (fun _ => 0) else u, sc, bad⟩

/-- The scale record after an I4X multiply: copied when RV was 0, and 0xFF where a scale byte is (R316). -/
def scaleAfter (r : Scale) (a b : List ILine) : Scale :=
  let put {w : Nat} (d : BitVec w) (l : List ILine) : BitVec w :=
    l.zipIdx.foldl (fun d p => if !r.rv || decide (p.1.scale = 255) then setByte d p.2 (BitVec.ofNat 8 p.1.scale) else d) d
  ⟨true, put r.rsc a, put r.csc b⟩

/-- The rows of a multiply: row `i` of the A entry at `ea` with every column of the B entry at `eb` (R315, R316). -/
def State.mmaRow (s : State) (c tile ea eb : Nat) (f : Fmt) (k : Nat) : Nat → List (Nat × Events) :=
  let old (i j : Nat) : Nat := rowElem (s.accRow c tile i) j
  let lb := lineBytes f
  match f with
  | .i4x =>
    let bs := (List.range 96).map (s.iLine c eb 96 k)
    let r := s.scaleOf c tile
    fun i =>
      let a := s.iLine c ea 64 k i
      let differs (l : ILine) (rec_ : Byte) : Bool := r.rv && !decide (l.scale = rec_.toNat)
      bs.zipIdx.map (fun p =>
        let inv := a.bad || p.1.bad || decide (a.scale = 255) || decide (p.1.scale = 255) ||
          differs a (getByte r.rsc i) || differs p.1 (getByte r.csc p.2)
        mmaInt (old i p.2) a.units p.1.units inv)
  | .int8 =>
    let line (o i : Nat) : List Int := (s.lineCodes c (o + lb * i) f k).map (signedOf 8)
    let bs := (List.range 96).map (line eb)
    fun i => let a := line ea i; bs.zipIdx.map (fun p => mmaInt (old i p.2) a p.1 false)
  | _ =>
    let line (o i : Nat) : List Num := (s.lineCodes c (o + lb * i) f k).map f.decode
    let bs := (List.range 96).map (line eb)
    fun i => let a := line ea i; bs.zipIdx.map (fun p => mmaFloat (old i p.2) a p.1)

/-- The bytes that a multiply reads of an entry of `lines` lines at `e`: the first K of each line, and the scale bytes of I4X (R310). -/
def entryReads (f : Fmt) (e lines k : Nat) : List (Nat × Nat) :=
  (List.range lines).map (fun i => (e + lineBytes f * i, (k * f.bits + 7) / 8)) ++ (if f = .i4x then [(e + 16 * lines, lines)] else [])

/-- The first poisoned byte of some bytes of a cluster memory. -/
def State.clPoisoned (s : State) (c : Nat) (l : List (Nat × Nat)) : Option Nat :=
  if s.home.poison.isEmpty then none
  else (l.flatMap (fun p => (List.range p.2).map (p.1 + ·))).find? (fun o => let p := clusterByte c o; s.poisoned (kPad p.1 p.2))

/-- May a ring serve as operand (R315)? -/
def ringServes (q : Word) (f : BitVec 3) (b : Bool) : Bool :=
  ringV q && decide (ringFmt q = mmaCode f) && decide (leastEsz (mmaFmt f) b ≤ ringEsz q)

/-- `mma` (R315, R316): K is km1 + 1. -/
def execMma (rs1 rs2 : BitVec 5) (ka : BitVec 1) (fmt acc : BitVec 3) (km1 : BitVec 5) (s : State) : Host.Outcome State Fault Refusal :=
  withLease s (fun s n c => do
    let qa := (s.coreAt n).ring rs1
    let qb := (s.coreAt n).ring rs2
    let f := mmaFmt fmt
    if rs1 = rs2 then trap s 25 (rs2.setWidth 64)
    else if !ringServes qa fmt false then trap s 25 (rs1.setWidth 64)
    else if !ringServes qb fmt true then trap s 25 (rs2.setWidth 64)
    else
      let s ← s.arrayIssue n
      if ringCnt qa = 0 ∨ ringCnt qb = 0 then hold s .ring
      else
        let ea := ringAt qa (ringHead qa)
        let eb := ringAt qb (ringHead qb)
        let k := km1.toNat + 1
        -- a poisoned operand word is a core's load of it (R246; log 50)
        match s.clPoisoned c (entryReads f ea 64 k ++ entryReads f eb 96 k) with
        | some o => trapAcc s .load 5 (BitVec.ofNat 64 (0x22000400000 + o))
        | none =>
          let rows := s.mmaRow c acc.toNat ea eb f k
          let scale := if f = .i4x then
              scaleAfter (s.scaleOf c acc.toNat) ((List.range 64).map (s.iLine c ea 64 k)) ((List.range 96).map (s.iLine c eb 96 k))
            else s.scaleOf c acc.toNat
          match s.runRows c acc.toNat (s.accBad c acc.toNat) rows (s.rowsLeft c acc.toNat) with
          | .error s => trap s 51 (clusterTval c)
          | .ok s =>
            -- the scale record follows once every row is written (R64, R315, R316)
            let s := (s.setScale c acc.toNat scale).popRing n rs2
            let s := if ka = 0#1 then s.popRing n rs1 else s
            pure (s.setProg c acc.toNat 0 false).complete)

/-! Clear, load and store (R317 to R319). -/

/-- `macc.clr` (R317): every element 0, RV 0, ROW and ACT 0; the counters stand. -/
def execMaccClr (acc : BitVec 3) (s : State) : Host.Outcome State Fault Refusal :=
  withLease s (fun s n c => do
    let s ← s.arrayIssue n
    let s := s.updCluster c (fun k => { k with
      acc := Tbl.clear k.acc (64 * acc.toNat) (64 * acc.toNat + 64), accPoison := k.accPoison.filter (fun p => !decide (p.1 / 64 = acc.toNat)) })
    let s := s.setScale c acc.toNat { s.scaleOf c acc.toNat with rv := false }
    pure (s.setProg c acc.toNat 0 false).complete)

/-- The checks of a row of 96 elements of `size` bytes at `ra`, element by element; a window gives cause 28 (R318). A row is one access of whole
protected words, so that a store merges nothing (R246, R260); a store to another module meets that module's checks, word by word of 32 bytes. `i`
counts those. -/
def State.rowCheck (s : State) (n : Nat) (ra : Word) (size i : Nat) (k : Access) : List Nat → Except Stop State
  | [] => .ok s
  | j :: t => do
    let a := ra + BitVec.ofNat 64 (size * j)
    let (back, span) := if isWrite k then (size * j % 8, 8) else (0, size)
    let (s, p) ← s.checkIn n a size size back span k
    match p with
    | .window _ _ => trapAcc s k 28 a
    | p => do
      let (s, i) ← (if isWrite k && decide (size * j % 32 = 0) then s.checkAway n p 32 i a else pure (s, i) : Except Stop (State × Nat))
      s.rowCheck n ra size i k t

/-- Load a checked row in pieces of 32 bytes. -/
def State.rowLoad (s : State) (n : Nat) (ra : Word) (i : Nat) : List Nat → Except Stop (State × List Byte)
  | [] => .ok (s, [])
  | j :: t => do
    let a := ra + BitVec.ofNat 64 (32 * j)
    let (s, p) ← s.check n a 4 4 .load
    let (s, b, i) ← s.loadAt n p 32 i a
    let (s, l) ← s.rowLoad n ra i t
    pure (s, b ++ l)

/-- The words of a row's bytes. -/
def rowWords (b : List Byte) : List Nat := (List.range 96).map (fun j => bytesToNat ((b.drop (4 * j)).take 4))

/-- A row that stops leaves ROW and ACT on its tile (R318, R322). -/
def stopAtRow {α : Type} (c tile i : Nat) (r : Except Stop α) : Except Stop α :=
  match r with
  | .ok a => .ok a
  | .error (.trap s cause v k) => .error (.trap (s.setProg c tile i true) cause v k)
  | .error (.hold s w) => .error (.hold (s.setProg c tile i true) w)

/-- The rows of `macc.ld`, in order. -/
def State.ldRows (s : State) (n c tile : Nat) (base stride : Word) : List Nat → Except Stop State
  | [] => .ok s
  | i :: t => do
    let ra := base + BitVec.ofNat 64 i * stride
    let s ← stopAtRow c tile i (s.rowCheck n ra 4 0 .load (List.range 96))
    let (s, b) ← stopAtRow c tile i (s.rowLoad n ra 0 (List.range 12))
    let s := s.updCore n (fun k => { k with reply := .none })
    (s.setAccRow c tile i (rowMake (rowWords b))).ldRows n c tile base stride t

/-- Are base and stride multiples of 32 (R318)? -/
def rowsAligned (base stride : Word) : Bool := decide (base.toNat % 32 = 0) && decide (stride.toNat % 32 = 0)

/-- `macc.ld` (R317, R318). -/
def execMaccLd (rs1 rs2 : BitVec 5) (acc : BitVec 3) (s : State) : Host.Outcome State Fault Refusal :=
  withLease s (fun s n c => do
    let base := s.rx rs1
    let stride := s.rx rs2
    if !rowsAligned base stride then trapAcc s .load 4 base
    else
      let s ← s.arrayIssue n
      let s ← s.ldRows n c acc.toNat base stride (s.rowsLeft c acc.toNat)
      let s := s.setScale c acc.toNat { s.scaleOf c acc.toNat with rv := false }
      pure (s.setProg c acc.toNat 0 false).complete)

/-- An FP32 code read with FTZ on input (R105, R319). -/
def flushInput (m : Modes) (a : Nat) : Nat := if m.ftz && decide (a / 2 ^ 23 % 256 = 0) then a / 2 ^ 31 * 2 ^ 31 else a

/-- Is an FP32 code an infinity? -/
def isInf32 (a : Nat) : Bool := decide (a % 2 ^ 31 = 0x7F800000)

/-- Is an FP32 code a NaN? -/
def isNan32 (a : Nat) : Bool := decide (0x7F800000 < a % 2 ^ 31)

/-- One element converted by `macc.st` (R319); a NaN is stored as the canonical one (R100). -/
def storeElem (int : Bool) (d : Fmt) (m : Modes) (rv : Bool) (sr sc a : Nat) : Nat × Events :=
  if !int then (if d = .fp32 then (if isNan32 a then Fmt.fp32.canonNan else flushInput m a, Events.none) else convert .fp32 d m a)
  else if d = .int32 then (a, Events.none)
  else if d = .int8 then
    let (v, sat) := clampInt (signedOf 32 a) (-128) 127
    (intBits 8 v, ⟨false, false, false, sat⟩)
  else
    let (sr, sc) := if rv then (sr, sc) else (127, 127)
    if sr = 255 ∨ sc = 255 then (d.canonNan, ⟨false, true, false, false⟩)
    else
      let (x, _) := Fmt.fp32.encode m ((Num.ofInt (signedOf 32 a)).scale ((sr : Int) + sc - 254))
      let ev : Events := ⟨isInf32 x, false, false, false⟩
      if d = .fp32 then (x, ev)
      else
        let (y, e) := convert .fp32 d m x
        (y, e.or ev)

/-- Row `i` of a tile as `macc.st` converts it. -/
def State.storeRow (s : State) (n c tile : Nat) (int : Bool) (d : Fmt) (i : Nat) : List (Nat × Events) :=
  let r := s.accRow c tile i
  let k := s.scaleOf c tile
  let m := (s.coreAt n).modes
  (List.range 96).map (fun j => storeElem int d m k.rv (getByte k.rsc i).toNat (getByte k.csc j).toNat (rowElem r j))

/-- The piece `d` bytes on. -/
def Spot.next (p : Spot) (d : Nat) : Spot :=
  match p with
  | .cached k => .cached (k + d)
  | .scratch c o => .scratch c (o + d)
  | .cxl k => .cxl (k + d)
  | .remote ea => .remote (ea + BitVec.ofNat 64 d)
  | .ctrl off => .ctrl (off + d)

/-- A piece joins the one before it where both lie in one line; a register of the control region stands alone. -/
def addPiece (l : List (Spot × Nat)) (p : Spot) (n : Nat) : List (Spot × Nat) :=
  match l.getLast?, p with
  | none, _ | _, .ctrl _ => l ++ [(p, n)]
  | some (q, m), _ => if p = q.next m ∧ lineOf p.key = lineOf q.key then l.dropLast ++ [(q, m + n)] else l ++ [(p, n)]

/-- A piece of a checked place; a window gives none. -/
def Place.spot (p : Place) : Option Spot :=
  match p with
  | .cached k => some (.cached k)
  | .scratch c o => some (.scratch c o)
  | .cxl k => some (.cxl k)
  | .remote ea => some (.remote ea)
  | .ctrl off => some (.ctrl off)
  | .window _ _ | .nibbles _ _ | .words _ _ | .scaled _ _ _ _ | .row _ => none

/-- The pieces of a checked row of elements of `size` bytes. -/
def State.rowPieces (s : State) (n : Nat) (ra : Word) (size : Nat) (l : List (Spot × Nat)) : List Nat → Except Stop (State × List (Spot × Nat))
  | [] => .ok (s, l)
  | j :: t => do
    let (s, p) ← s.checkIn n (ra + BitVec.ofNat 64 (size * j)) size size (size * j % 8) 8 .store
    s.rowPieces n ra size (match p.spot with | some p => addPiece l p size | none => l) t

/-- A checked row enters the store buffer as one store (R318, R259). -/
def State.rowStore (s : State) (n : Nat) (ra : Word) (size : Nat) (b : List Byte) : Except Stop State := do
  let (s, l) ← s.rowPieces n ra size [] (List.range 96)
  s.push n ⟨.row l, b.map some, (s.coreAt n).asid⟩

/-- The rows of `macc.st`, in order; a row's events are counted when it is stored. -/
def State.stRows (s : State) (n c tile : Nat) (int : Bool) (d : Fmt) (base stride : Word) : List Nat → Except Stop State
  | [] => .ok s
  | i :: t => do
    let ra := base + BitVec.ofNat 64 i * stride
    let size := d.bits / 8
    let s ← stopAtRow c tile i (s.rowCheck n ra size 0 .store (List.range 96))
    let s ← stopAtRow c tile i (if s.accBad c tile i then trap s 51 (clusterTval c) else pure s)
    let l := s.storeRow n c tile int d i
    let s ← stopAtRow c tile i (s.rowStore n ra size (l.flatMap (fun e => natToBytes size e.1)))
    let s := s.updCore n (fun k => { k with reply := .none })
    (s.tileEvents c tile (l.map Prod.snd)).stRows n c tile int d base stride t

/-- `macc.st` (R318, R319). -/
def execMaccSt (rs1 rs2 : BitVec 5) (sfmt : BitVec 1) (dfmt acc : BitVec 3) (s : State) : Host.Outcome State Fault Refusal :=
  withLease s (fun s n c => do
    let base := s.rx rs1
    let stride := s.rx rs2
    if !rowsAligned base stride then trapAcc s .store 6 base
    else
      let s ← s.arrayIssue n
      let s ← s.stRows n c acc.toNat (decide (sfmt = 1#1)) ((Fmt.ofCode dfmt.toNat).getD .fp32) base stride (s.rowsLeft c acc.toNat)
      pure (s.setProg c acc.toNat 0 false).complete)

/-! Rings (R312, R313). -/

/-- Does a copy command of the core that names the ring stand in an engine (R312)? -/
def State.ringInUse (s : State) (n : Nat) (q : BitVec 5) : Bool :=
  let names (c : Cmd) : Bool := decide (c.core = some n) && decide (c.op = 2) && decide (c.rq = q.toNat)
  s.clusters.any (fun e => e.2.eng.cmds.any names) || s.engines.any (fun e => e.2.cmds.any names)

/-- Does a configuration break a limit of R312? -/
def ringBad (b c : Word) : Bool :=
  !decide (b.toNat % 128 = 0) || !decide (c.extractLsb' 20 44 = 0#44) || !decide (c.extractLsb' 10 2 = 0#2) ||
    decide (8 ≤ (c.extractLsb' 16 4).toNat) || decide (9 < (c.extractLsb' 12 4).toNat) ||
    decide (0x400000 < b.toNat + ((c.extractLsb' 0 10).toNat + 1) * (64 <<< (c.extractLsb' 12 4).toNat))

/-- `rcfg` (R312). -/
def execRcfg (rd rs1 rs2 : BitVec 5) (s : State) : Host.Outcome State Fault Refusal :=
  runCore s (fun n =>
    let b := s.rx rs1
    let c := s.rx rs2
    if ringBad b c || s.ringInUse n rd then trap s 25 (rd.setWidth 64)
    else
      let q := ringMake true 0 0 (c.extractLsb' 16 4).toNat (c.extractLsb' 12 4).toNat (c.extractLsb' 0 10).toNat (b.toNat % 2 ^ 22)
      .ok (s.updCore n (fun k => k.setRing rd q)).complete)

/-- `rrel` (R312). -/
def execRrel (rd : BitVec 5) (s : State) : Host.Outcome State Fault Refusal :=
  runCore s (fun n =>
    if s.ringInUse n rd then trap s 25 (rd.setWidth 64)
    else .ok (s.updCore n (fun k => k.setRing rd (k.ring rd &&& 0x7FFFFFFFFFFFFFFF#64))).complete)

/-- `rstat` (R312). -/
def execRstat (rd rs1 : BitVec 5) (s : State) : Host.Outcome State Fault Refusal :=
  runCore s (fun n => .ok (s.setRd rd ((s.coreAt n).ring rs1)))

/-- `rpeek` (R313): the address of an entry, once it has been filled. -/
def execRpeek (rd rs1 rs2 : BitVec 5) (s : State) : Host.Outcome State Fault Refusal :=
  runCore s (fun n =>
    let q := (s.coreAt n).ring rs1
    let i := (s.rx rs2).toNat
    if !ringV q ∨ ringDepth q ≤ i then trap s 25 (rs1.setWidth 64)
    else if ringCnt q ≤ i % 1024 then hold s .pop
    else .ok (s.setRd rd (BitVec.ofNat 64 (0x22000400000 + ringAt q (ringHead q + i)))))

/-- `rpop` (R313). -/
def execRpop (rs1 : BitVec 5) (s : State) : Host.Outcome State Fault Refusal :=
  runCore s (fun n =>
    let q := (s.coreAt n).ring rs1
    if !ringV q then trap s 25 (rs1.setWidth 64)
    else if ringCnt q = 0 then hold s .pop
    else .ok (s.popRing n rs1).complete)

/-! Status and progress (R320). -/

/-- `mstat` (R320). -/
def execMstat (rd : BitVec 5) (acc : BitVec 3) (s : State) : Host.Outcome State Fault Refusal :=
  withLease s (fun s n c => do
    let s ← s.arrayIssue n
    pure (s.setRd rd ((s.clusterAt c).status.getD acc.toNat 0#64)))

/-- `mstat.clr` (R320): read, then all four counters 0. -/
def execMstatClr (rd : BitVec 5) (acc : BitVec 3) (s : State) : Host.Outcome State Fault Refusal :=
  withLease s (fun s n c => do
    let s ← s.arrayIssue n
    let w := (s.clusterAt c).status.getD acc.toNat 0#64
    pure ((s.updCluster c (fun k => { k with status := k.status.setIfInBounds acc.toNat 0#64 })).setRd rd w))

/-- `mprog` (R320). -/
def execMprog (rd : BitVec 5) (acc : BitVec 3) (s : State) : Host.Outcome State Fault Refusal :=
  withLease s (fun s n c => do
    let s ← s.arrayIssue n
    pure (s.setRd rd ((s.clusterAt c).prog.getD acc.toNat 0#64)))

/-- `mprog.clr` (R320). -/
def execMprogClr (acc : BitVec 3) (s : State) : Host.Outcome State Fault Refusal :=
  withLease s (fun s n c => do
    let s ← s.arrayIssue n
    pure (s.setProg c acc.toNat 0 false).complete)

/-! Gang reduction (R113, R323). -/

/-- What one core brings to a `gred`: the cores of its group in rank order, `none` where a team's holder has not come. -/
def State.gredGroup (s : State) (f : Field) (team n : Nat) : List (Option Nat) :=
  (List.range n).map (fun r =>
    match f.teams[team / n * n + r]? with
    | none => none
    | some c =>
      (match s.holderCore c with
       | some m => (match (s.coreAt m).contrib with | .gred _ _ _ => some m | _ => none)
       | none => none))

/-- One combining step of an element (R113). -/
def gredStep (float : Bool) (p : Nat × Events) (q : Nat) : Nat × Events :=
  if float then
    let (r, ev) := accAdd p.1 (Fmt.fp32.decode q)
    (r, p.2.or ev)
  else
    let (r, sat) := satAdd32 p.1 (signedOf 32 q)
    (r, p.2.or ⟨false, false, false, sat⟩)

/-- Element values of a row combined over the group, own tile first (R323). -/
def State.gredRow (s : State) (float : Bool) (tile : Nat) (own : Nat) (others : List Nat) (i : Nat) : List (Nat × Events) :=
  (List.range 96).map (fun j =>
    let old := rowElem (s.accRow own tile i) j
    let (r, ev) := others.foldl (fun p c => gredStep float p (rowElem (s.accRow c tile i) j)) (old, Events.none)
    (r, { ev with nan := float && becomesNan old r }))

/-- The rendezvous is complete: rank 0 combines, and all retire; a residue mismatch traps rank 0 alone, which will rejoin. -/
def State.gredRun (s : State) (float : Bool) (tile : Nat) (cores : List Nat) : State :=
  match cores with
  | [] => s
  | lead :: rest =>
    let c := clusterOf lead
    match s.runRows c tile (fun i => cores.any (fun m => s.accBad (clusterOf m) tile i)) (s.gredRow float tile c (rest.map clusterOf)) (s.rowsLeft c tile) with
    | .error s => s.takeTrap lead 51 (clusterTval c)
    | .ok s => cores.foldl (fun s m => s.retireTo m ((s.coreAt m).pc + 4#64)) (s.setProg c tile 0 false)

/-- The shared meaning of `gred.f32` and `gred.i32`. -/
def gred (float : Bool) (rs1 : BitVec 5) (acc : BitVec 3) (s : State) : Host.Outcome State Fault Refusal :=
  runCore s (fun n =>
    let k := (s.rx rs1).toNat
    match (s.coreAt n).task with
    | none => illegal s
    | some t =>
      match s.fieldOf t with
      | none => illegal s
      | some f =>
        if k < 2 ∨ 16 < k ∨ f.teams.length % k ≠ 0 then illegal s
        else if !s.leaseHeld n then trap s 26 (clusterTval (clusterOf n))
        else do
          let s := s.updCluster (clusterOf n) (fun c => { c with lidle := 0 })
          let s ← s.arrayIssue n
          let mine : Contrib := .gred float acc.toNat k
          let s := s.updCore n (fun c => { c with contrib := mine, wait := .gred })
          let group := s.gredGroup f t.team k
          if group.any Option.isNone then hold s .gred
          else
            let cores := group.filterMap id
            if cores.any (fun m => !decide ((s.coreAt m).contrib = mine)) then
              .ok (cores.foldl (fun s m => s.takeTrap m 2 ((s.coreAt m).iw.setWidth 64)) s)
            else .ok (s.gredRun float acc.toNat cores))

/-- `gred.f32` (R323). -/
def execGredF32 (rs1 : BitVec 5) (acc : BitVec 3) (s : State) : Host.Outcome State Fault Refusal := gred true rs1 acc s

/-- `gred.i32` (R323). -/
def execGredI32 (rs1 : BitVec 5) (acc : BitVec 3) (s : State) : Host.Outcome State Fault Refusal := gred false rs1 acc s

end Sys2Proof.Machine
end

