-- ==== Sys2Proof/Machine/Outside.lean ====
section
/-! DEFINITION. What reaches the module from outside: completions of CXL transactions and AtomicOps, AtomicOps of hosts, requests and replies of other modules, dead agents and link errors (R87, R141, R142, R175, R182, R245, R328, R356, R357). -/

namespace Sys2Proof.Machine

/-! CXL completions (R142, R175, R259, R260). -/

/-- More bytes have come back. -/
def Reply.more (r : Reply) (b : List Byte) : Reply :=
  match r with
  | .none => .value b
  | .value v => .value (v ++ b)
  | .error v page => .error v page

/-- An access has come back with an error; `page` when another module's walk faulted. -/
def Reply.fail (r : Reply) (page : Bool) : Reply :=
  match r with
  | .none => .error [] page
  | .value v => .error v page
  | .error v page => .error v page

/-- The bytes that are wanted; the others are 0 and no element of the access takes them (R292). -/
def wanted (want : List Bool) (b : List Byte) : List Byte := want.zipIdx.map (fun p => if p.1 then b.getD p.2 0#8 else 0#8)

/-- The request at the head of a core's list is done. -/
def State.popCxl (s : State) (n : Nat) : State := s.updCore n (fun c => { c with cxl := c.cxl.tail })

/-- `CXL transaction completion`: the oldest transaction of a core to a host-backed or pool page is performed at its target. A read's
bytes come back, or an error (cause 5 at the load); a posted write reports nothing, and one whose completion is an error has written
its bytes or not (log 9). -/
def execCxlTransactionCompletion (core : Nat) (good : Bool) (s : State) : Host.Outcome State Fault Refusal :=
  .next (match (s.coreAt core).cxl with
    | .write key bytes :: _ =>
      let s := s.popCxl core
      if good then s.setMem (s.mem.overlay key bytes)
      else
        let (b, s) := s.freeBit
        if b then s.setMem (s.mem.overlay key bytes) else s
    | .read key n :: _ =>
      let b := s.mem.readBytes key n
      (s.popCxl core).updCore core (fun c =>
        { c with reply := if good then c.reply.more b else c.reply.fail false, wait := .none })
    | .readSome key want :: _ =>
      let b := wanted want (s.mem.readBytes key want.length)
      (s.popCxl core).updCore core (fun c =>
        { c with reply := if good then c.reply.more b else c.reply.fail false, wait := .none })
    | .atomic _ _ _ _ _ :: _ | [] => s)

/-! AtomicOps that the K5 sends (R356, R357). -/

/-- What the host's completer computes: 0 FetchAdd, 1 Swap, 2 CAS. -/
def atomicOpValue (op n : Nat) (value comparand : Word) (old : Nat) : Nat :=
  let v := value.toNat % 2 ^ (8 * n)
  if op = 0 then (old + v) % 2 ^ (8 * n)
  else if op = 1 then v
  else if old = comparand.toNat % 2 ^ (8 * n) then v else old

/-- Is the request an AtomicOp? -/
def CxlReq.isAtomic (r : CxlReq) : Bool :=
  match r with
  | .atomic _ _ _ _ _ => true
  | .write _ _ | .read _ _ | .readSome _ _ => false

/-- Perform an AtomicOp at its target. -/
def State.hostPerform (s : State) (r : CxlReq) : State :=
  match r with
  | .atomic key n op v c => s.setMem (s.mem.write key n (atomicOpValue op n v c (s.mem.read key n)))
  | .write _ _ | .read _ _ | .readSome _ _ => s

/-- The old value that an AtomicOp returns. -/
def State.hostOld (s : State) (r : CxlReq) : List Byte :=
  match r with
  | .atomic key n _ _ _ => s.mem.readBytes key n
  | .write _ _ | .read _ _ | .readSome _ _ => []

/-- The address an atomic of a core names: rs1, or what it has brought to an aggregated add. -/
def Core.atomicEa (c : Core) : Word :=
  match c.contrib with
  | .agg _ _ ea _ => ea
  | _ => c.rx (c.iw.extractLsb' 15 5)

/-- The atomic of a core ends by a trap with stval the address (R357); every rank of an aggregated add takes it (R330). -/
def State.atomicTrap (s : State) (n cause : Nat) : State :=
  let ea := (s.coreAt n).atomicEa
  let s := s.updCore n (fun c => { c with cxl := c.cxl.filter (fun r => !r.isAtomic) })
  if (s.coreAt n).hasAgg then s.trapAll (s.teamCores n) cause (fun _ _ => ea) 3 else s.takeTrapK n cause ea 3

/-- The AtomicOp of a core, once the core's earlier transactions are performed (R142, R172). -/
def Core.atomicHead (c : Core) : Option CxlReq :=
  match c.cxl with
  | r :: _ => if r.isAtomic then some r else none
  | [] => none

/-- `AtomicOp completion` (R357): the old value returns and the atomic retires when its core moves, or the atomic traps. It comes after the
core's earlier transactions have been performed (R172). A completion after the timeout finds no request and is discarded. -/
def execAtomicopCompletion (core : Nat) (status : CplStatus) (s : State) : Host.Outcome State Fault Refusal :=
  .next (match (s.coreAt core).atomicHead with
    | none => s
    | some r =>
      match status with
      | .ok =>
        let b := s.hostOld r
        (s.hostPerform r).updCore core (fun c => { c with cxl := c.cxl.tail, reply := .value b, wait := .none })
      | .unsupported => s.atomicTrap core 27
      | .error => s.atomicTrap core 7)

/-- `AtomicOp timeout` (R357): 900,000 cycles without a completion: cause 7, and host memory changed or unchanged, which the K5 does
not say (log 9). -/
def execAtomicopTimeout (core : Nat) (s : State) : Host.Outcome State Fault Refusal :=
  .next (match (s.coreAt core).wait with
    | .atomicOp t =>
      if t + 900000 ≤ s.time.gtc then
        let (b, s) := s.freeBit
        let s := match (s.coreAt core).atomicHead with
          | some r => if b then s.hostPerform r else s
          | none => s
        s.atomicTrap core 7
      else s
    | _ => s)

/-! AtomicOps that the K5 completes (R141). -/

/-- The numbers of the three AtomicOps. -/
def hostAtomicCode (op : HostAtomic) : Nat :=
  match op with
  | .fetchAdd => 0 | .swap => 1 | .cas => 2

/-- An AtomicOp of a host at its decoded place: on LPDDR or a package scratchpad at its home (R124), or on a register of the control region that a
host driver may read and write; otherwise, or on a poisoned word, completed with an abort (log 37). -/
def State.hostAtomic (s : State) (p : HostPlace) (n : Nat) (op : HostAtomic) (operand comparand : Word) : Except Stop State :=
  match p with
  | .home key =>
    if s.anyPoison key n then .ok (s.sendHost .hostAbort)
    else do
      let (s, old) ← s.homeRead key n
      let (s, _) ← s.homeWrite key ((natToBytes n (atomicOpValue (hostAtomicCode op) n operand comparand old)).map some) 0 4
      pure (s.sendHost (.answer (natToBytes n old) true))
  | .ctrl off =>
    if s.ctrlServer off n false ∧ s.ctrlServer off n true then
      let (s', old) := s.ctrlRead off n
      let bytes := (natToBytes n (atomicOpValue (hostAtomicCode op) n operand comparand old)).map some
      match s.ctrlWaits off bytes with
      | some s => .ok s
      | none => .ok ((s'.ctrlWrite off bytes).sendHost (.answer (natToBytes n old) true))
    else .ok (s.sendHost .hostAbort)
  | .pad _ _ | .outside _ | .away | .abort => .ok (s.sendHost .hostAbort)

/-- `host AtomicOp` of 4 or 8 bytes at an effective address, which R86 decodes (R141); a misaligned one is aborted (log 37). -/
def execHostAtomicop (key : HostAddr) (n : Nat) (op : HostAtomic) (operand comparand : Word) (s : State) : Host.Outcome State Fault Refusal :=
  .next (if !(decide (n = 4) || decide (n = 8)) || decide (key.ea.toNat % n ≠ 0) then s.sendHost .hostAbort
    else absorb (do
      let (s, p) ← s.hostPlace key.ten key.asid key.ea.toNat n .atomic
      s.hostAtomic p n op operand comparand))

/-! Other modules (R87, R175, R328). -/

/-- The access kind of a request. -/
def remoteAccess (k : RemoteKind) : Access :=
  match k with
  | .load => .load
  | .store | .check => .store
  | .atomicSwap | .atomicAdd | .atomicAnd | .atomicOr | .atomicMax | .atomicMaxu | .atomicCas _ => .atomic

/-- The value a request leaves in memory. -/
def remoteValue (k : RemoteKind) (n v old : Nat) : Nat :=
  match k with
  | .load | .check => old
  | .store => v
  | .atomicSwap => AmoOp.swap.value n v 0 old
  | .atomicAdd => AmoOp.add.value n v 0 old
  | .atomicAnd => AmoOp.and.value n v 0 old
  | .atomicOr => AmoOp.or.value n v 0 old
  | .atomicMax => AmoOp.max.value n v 0 old
  | .atomicMaxu => AmoOp.maxu.value n v 0 old
  | .atomicCas c => AmoOp.cas.value n v (amoOperand n c) old

/-- The key that a request of another module reaches: translated under the tenant's tables here, or in its package scratchpad;
`none` when it reaches nothing (R87, R149). -/
def State.remoteKey (s : State) (ten asid : Nat) (ea : Word) (n : Nat) (k : Access) : Except Stop (State × Option Nat) :=
  match localRegion none (ea.extractLsb' 0 42).toNat with
  | .paged va => do
    let (s, e) ← s.walk ten asid va k
    pure (s, e.map (fun e => e.key va))
  | .pkg off => .ok (s, if off + n ≤ s.pkgBytes ten then some (kPkg ten off) else none)
  | .pad _ _ | .window _ _ | .text | .ctrl _ | .remote | .absent | .nowhere => .ok (s, none)

/-- Does a request leave memory as it is? -/
def remoteReads (k : RemoteKind) : Bool := decide (k = .load) || decide (k = .check)

/-- Perform a request of another module at a key: at its home with the timestamps of R124 (log 38), or at host or pool memory. -/
def State.remotePerform (s : State) (key n : Nat) (k : RemoteKind) (v : Nat) : Except Stop State :=
  if s.atHome key n then
    if s.poisonStops key n (remoteAccess k) then .ok (s.sendHost (.answer [] false))
    else do
      let (s, old) ← s.homeRead key n
      let s ← (if remoteReads k then pure s
        else do let (s, _) ← s.homeWrite key ((natToBytes n (remoteValue k n v old)).map some) 0 4; pure s : Except Stop State)
      pure (s.sendHost (.answer (natToBytes n old) true))
  else
    let old := s.mem.read key n
    let s := if remoteReads k then s else s.setMem (s.mem.write key n (remoteValue k n v old))
    .ok (s.sendHost (.answer (natToBytes n old) true))

/-- `remote module request` (R87): performed here as a local address of the tenant's space, or answered with an error. -/
def execRemoteModuleRequest (ten asid : Nat) (ea : Word) (kind : RemoteKind) (n : Nat) (value : Word) (s : State) :
    Host.Outcome State Fault Refusal :=
  .next (if n = 0 ∨ 128 < ea.toNat % 128 + n ∨ (!remoteReads kind ∧ 8 < n) then s.sendHost (.answer [] false)
    else absorb (do
      let (s, k) ← s.remoteKey ten asid ea n (remoteAccess kind)
      match k with
      | none => pure (s.sendHost (.answer [] false))
      | some key => s.remotePerform key n kind (amoOperand n value)))

/-- The link peer of the module that a request goes to (R182). -/
def Out.peer (o : Out) : Nat :=
  match o with
  | .loadAsk _ ea _ | .storeAsk _ ea _ | .checkAsk _ ea _ | .loadSome _ ea _ | .checkSome _ ea _ | .hintAsk _ _ ea | .atomicAsk _ ea _ _ _ _ => 13000 + (ea.extractLsb' 42 12).toNat
  | .answer _ _ | .hostData _ _ _ _ _ _ | .hostAbort => 13000

/-- The bytes that a reply carries, as many as were asked for. -/
def replyBytes (n : Nat) (data : List Byte) : List Byte := natToBytes n (bytesToNat data)

/-- Is the request granted? -/
def remoteGood (k : RemoteStatus) : Bool := decide (k = .ok) || decide (k = .mirror)

/-- What comes back for the access that a core waits for (R87, R175, R260, R328). -/
def State.answerCore (s : State) (core n : Nat) (data : List Byte) (status : RemoteStatus) : State :=
  s.updCore core (fun c =>
    { c with
      reply := if remoteGood status then c.reply.more (replyBytes n data) else c.reply.fail (decide (status = .page))
      remAsked := false, wait := .none })

/-- Another module has answered that a load at a hint's place would fault: the hint counts as dropped, for the task that gave it (R241). -/
def State.hintDenied (s : State) (n : Nat) (t : Option Task) : State :=
  s.updLens n (fun c => if c.task = t then { c with csr := { c.csr with hintdrop := bump32 c.csr.hintdrop } } else c)

/-- The answer to one request: of a core's store its acknowledgement, of an engine's sector the same or a fault, of a host its data. The whole
line that a mirror-hint load asked for becomes a replica where its page allows one (R143, R178, R200). -/
def State.replyTo (s : State) (o : Out) (data : List Byte) (status : RemoteStatus) : State :=
  match o with
  | .storeAsk a ea _ =>
    if a < 10000 then s.updCore a (fun c => { c with remStores := c.remStores.tail })
    else if a < 12000 then (if remoteGood status then s else s.engDenied (a - 10000) ea)
    else s.sendHost (.answer [] (remoteGood status))
  | .loadAsk a ea n =>
    if 10000 ≤ a then s.sendHost (.answer (replyBytes n data) (remoteGood status))
    else
      let s := if status = .mirror ∧ n = 128 ∧ !(s.freeWays a).isEmpty then
          absorb (s.placeReplica a (ea.toNat / 128) (BitVec.ofNat 1024 (bytesToNat data)))
        else s
      s.answerCore a n data status
  | .checkAsk a _ n => s.answerCore a n [] status
  | .loadSome a _ want => s.answerCore a want.length (wanted want data) status
  | .checkSome a _ want => s.answerCore a want.length [] status
  | .hintAsk a t _ => if remoteGood status then s else s.hintDenied a t
  | .atomicAsk a _ n _ _ _ => s.answerCore a n data status
  | .answer _ _ | .hostData _ _ _ _ _ _ | .hostAbort => s

/-- `remote module reply`: the oldest request of an agent is answered (R175, R328); an answer with a stale incarnation number of the link peer
is discarded and journaled (R182). -/
def execRemoteModuleReply (agent : Nat) (data : List Byte) (answer : RemoteAnswer) (s : State) : Host.Outcome State Fault Refusal :=
  .next (match takeFirst (fun o : Out => o.askOf agent) s.net.outs with
    | none => s
    | some (o, rest) =>
      if answer.inc ≠ s.agentInc o.peer then s.stale o.peer answer.inc 0
      else ({ s with net := { s.net with outs := rest } }).replyTo o data answer.status)

/-! Dead agents and links (R182, R245). -/

/-- The home copies of the lines a core owned become authoritative and OV clears (R182). -/
def State.disown (s : State) (n : Nat) : State :=
  let s := { s with home := { s.home with
    llc := s.home.llc.map (fun (l : LlcLine) => if l.ov && decide (l.owner = n) then { l with ov := false } else l)
    recalls := s.home.recalls.filter (fun r => !decide (r.2.1 = n)) } }
  s.updCore n (fun c => { c with l1 := c.l1.filter (fun a => !a.owned), vb := [] })

/-- A host agent's holds and recalls leave the directory. -/
def State.forgetHost (s : State) (h : Nat) : State :=
  let clear (e : DirEntry) : DirEntry := { e with ag := agSet (agSet e.ag h 0 0) h 1 0 }
  { s with home := { s.home with
      dir := (s.home.dir.map clear).filter (fun e => !decide (e.ag = 0#16))
      hostRecalls := s.home.hostRecalls.filter (fun r => !decide (r.agent = h)) } }

/-- Is the number, from 10000 on, one of an agent that the package has: a copy engine, a host agent or a link peer (R1, R86, R136, R182)? -/
def isAgent (a : Nat) : Bool :=
  (decide (10000 ≤ a) && decide (a < 12000) && isCopyEngine (a - 10000)) || (decide (12000 ≤ a) && decide (a < 12004)) ||
    (decide (13000 ≤ a) && decide (a < 13000 + Config.modules))

/-- `agent declared dead`: its incarnation number rises, and what it owned is the home's (R182). Numbers: cores below 10000, engines
from 10000, host agents from 12000, link peers from 13000. -/
def execAgentDeclaredDead (agent : Nat) (s : State) : Host.Outcome State Fault Refusal :=
  .next (if agent < 10000 then
      if isCore agent then (s.disown agent).updCore agent (fun c => { c with inc := c.inc + 1#16 }) else s
    else if !isAgent agent then s
    else
      let s := { s with tabs := { s.tabs with incs := Tbl.set 0#16 s.tabs.incs agent (Tbl.get 0#16 s.tabs.incs agent + 1#16) } }
      if 12000 ≤ agent ∧ agent < 12004 then s.forgetHost (agent - 12000) else s)

/-- `link flit CRC fail`: counted and replayed from the sender; after 16 failed replays of one flit the port is declared down (R245). -/
def execLinkFlitCrcFail (port : Nat) (replay : Bool) (s : State) : Host.Outcome State Fault Refusal :=
  .next (if Config.linkPorts ≤ port ∨ s.tabs.linkDown.contains port then s
    else
      let n := if replay then Tbl.get 0 s.tabs.linkFails port + 1 else 0
      let s := (s.count cLCRC 1)
      let s := { s with tabs := { s.tabs with linkFails := Tbl.set 0 s.tabs.linkFails port n } }
      if 16 ≤ n then ({ s with tabs := { s.tabs with linkDown := port :: s.tabs.linkDown } }).count cLDOWN 1 else s)

end Sys2Proof.Machine
end

