-- ==== Sys2Proof/Machine/Ports.lean ====
section
/-! DEFINITION. Writes and reads of the control region by the server and the host driver, as events of their own: slot table, partitions, pairing, Lens windows and LCTL, fault-queue heads, error counters, engine ports, and every other register (R83, R199, R206, R207, R209, R217, R220, R222, R244, R360, R374). -/

namespace Sys2Proof.Machine

/-- A write that an agent with the server's rights makes to the control region; a write that is not open changes nothing (R206), and one that
waits for the lines of released ways recalls the host holds in its way (R92). -/
def State.serverWrite (s : State) (off : Nat) (bytes : List Byte) : State :=
  if 0 < bytes.length ∧ s.ctrlServer off bytes.length true then
    match s.ctrlWaits off (bytes.map some) with
    | some s => s
    | none => s.ctrlWrite off (bytes.map some)
  else s

/-- A read that changes state, by such an agent. -/
def State.serverRead (s : State) (off n : Nat) : State := if s.ctrlServer off n false then (s.ctrlRead off n).1 else s

/-- The offset of core `n`'s Lens window (R222). -/
def lensOff (n : Nat) : Nat := 0x100000000 + 0x10000 * n

/-- An order of LCTL, by its value (R222). -/
def State.order (s : State) (core v : Nat) : State := if isCore core then s.serverWrite (lensOff core + 0x2040) (natToBytes 8 v) else s

/-- `slot-table shadow write` (R209). -/
def execSlotTableShadowWrite (entry : Nat) (value : BitVec 32) (s : State) : Host.Outcome State Fault Refusal :=
  .next (if entry < 64 then s.serverWrite (0x10000400 + 4 * entry) (natToBytes 4 value.toNat) else s)

/-- `slot control write` (R209). -/
def execSlotControlWrite (value : Word) (s : State) : Host.Outcome State Fault Refusal :=
  .next (s.serverWrite 0x10000200 (natToBytes 8 value.toNat))

/-- `partition write`: `n` bytes at an offset of a tenant's entry (R217). -/
def execPartitionWrite (ten off n : Nat) (value : Word) (s : State) : Host.Outcome State Fault Refusal :=
  .next (if ten < 16 ∧ off + n ≤ 128 ∧ n ≤ 8 then s.serverWrite (0x10010000 + 128 * ten + off) (natToBytes n value.toNat) else s)

/-- `pairing write` (R220). -/
def execPairingWrite (core : Nat) (value : Word) (s : State) : Host.Outcome State Fault Refusal :=
  .next (if isCore core then s.serverWrite (0x10020000 + 8 * core) (natToBytes 8 value.toNat) else s)

/-- LCTL 1: resume at pc (R222, R270). -/
def execLctlResume (core : Nat) (s : State) : Host.Outcome State Fault Refusal := .next (s.order core 1)

/-- LCTL 2: resume by trap entry at stvec (R222, R270). -/
def execLctlTrapResume (core : Nat) (s : State) : Host.Outcome State Fault Refusal := .next (s.order core 2)

/-- LCTL 3: step one instruction, then freeze (R222). -/
def execLctlStep (core : Nat) (s : State) : Host.Outcome State Fault Refusal := .next (s.order core 3)

/-- LCTL 4: end the task as at task exit (R222). -/
def execLctlEndTask (core : Nat) (s : State) : Host.Outcome State Fault Refusal := .next (s.order core 4)

/-- LCTL 5: freeze at the next instruction boundary (R222). -/
def execLctlFreeze (core : Nat) (s : State) : Host.Outcome State Fault Refusal := .next (s.order core 5)

/-- `lens write`: `n` bytes in the Lens window of a frozen core (R83, R222). -/
def execLensWrite (core off n : Nat) (value : Word) (s : State) : Host.Outcome State Fault Refusal :=
  .next (if isCore core ∧ off + n ≤ 0x2000 ∧ n ≤ 8 then s.serverWrite (lensOff core + off) (natToBytes n value.toNat) else s)

/-- `fault-queue head write` (R360). -/
def execFaultQueueHeadWrite (ten : Nat) (value : Word) (s : State) : Host.Outcome State Fault Refusal :=
  .next (if ten < 16 then s.serverWrite (0x100A0000 + 0x100 * ten) (natToBytes 8 value.toNat) else s)

/-- `error-counter clear`: a write of any value (R244). -/
def execErrorCounterClear (index : Nat) (s : State) : Host.Outcome State Fault Refusal :=
  .next (if index < 32 then s.serverWrite (0x100C0000 + 8 * index) (natToBytes 8 0) else s)

/-- The offset of the port of package engine `e` (R206). -/
def portOff (e : Nat) : Nat := 0x100B0000 + 0x100 * e

/-- `port command push` (R199, R374). -/
def execPortCommandPush (engine : Nat) (cmd : BitVec 512) (s : State) : Host.Outcome State Fault Refusal :=
  .next (if engine < 16 then s.serverWrite (portOff engine) (natToBytes 64 cmd.toNat) else s)

/-- `port result pop`: a read of `n` bytes at + 0x40 (R374). -/
def execPortResultPop (engine n : Nat) (s : State) : Host.Outcome State Fault Refusal :=
  .next (if engine < 16 then s.serverRead (portOff engine + 0x40) n else s)

/-- `port result latch read`: a read at + 0x48 (R374). -/
def execPortResultLatchRead (engine : Nat) (s : State) : Host.Outcome State Fault Refusal :=
  .next (if engine < 16 then s.serverRead (portOff engine + 0x48) 8 else s)

/-- `register write`: any other register of the control region (R206, R207). -/
def execRegisterWrite (off n : Nat) (value : Word) (s : State) : Host.Outcome State Fault Refusal :=
  .next (if n ≤ 8 then s.serverWrite off (natToBytes n value.toNat) else s)

end Sys2Proof.Machine
end

