-- ==== Sys2Proof/Machine/Queues.lean ====
section
/-! DEFINITION. Engine queues, result queues, stage queues and sealed buffers as instructions use them (R145, R146, R177, R194 to R201, R341 to R344). -/

namespace Sys2Proof.Machine

/-! Engine queues (R197, R198, R341, R342). -/

/-- The engine an engine-queue field names: the cluster's own, or a package engine of the core's die (R197). -/
def engineOf (n : Nat) (eng : BitVec 5) : Nat :=
  if eng = 0#5 then clusterOf n else 1000 + 4 * dieOf (clusterOf n) + (eng.toNat - 4)

/-- The scope of a push (R177). -/
def engineScope (eng : BitVec 5) : Nat := if eng = 0#5 then scopeTeam else scopePkg

/-- A command as core `n` pushes it. -/
def State.pushedCmd (s : State) (n : Nat) (raw : BitVec 512) : Cmd :=
  let c := s.coreAt n
  ⟨raw, 0, some n, c.ten, c.asid, c.csr.lcore.toNat, c.jseq, cmdField raw 32 4, 0, 0, [], none⟩

/-- A record of 64 bytes in the own scratchpad that may be read (R70, R246), or the cause that reading it raises. -/
def State.ownRecord (s : State) (n : Nat) (a : Word) : Option Nat :=
  match (if a.toNat % 64 = 0 then s.ownPad n a 64 else none) with
  | some off => if s.inWs n off 64 || s.anyPoison (kPad n off) 64 then none else some off
  | none => none

/-- Must an action of number `n` wait for the next cycle, since one of a higher number has been made in this one (R195, R198)? -/
def State.outOfTurn (s : State) (last : Option (Nat × Nat)) (n : Nat) : Bool :=
  match last with
  | some (t, m) => decide (t = s.time.gtc) && decide (n < m)
  | none => false

/-- A core's command with its result element enters an engine (R198, R201). -/
def State.pushCmd (s : State) (n e : Nat) (raw : BitVec 512) : State :=
  let s := if natBit (cmdField raw 1 1) 2 then s.updCore n (fun c => { c with results := c.results ++ [reserve raw s.run.cmds] }) else s
  let s := s.setEng e { s.engAt e with last := some (s.time.gtc, n) }
  s.enterCmd e (s.pushedCmd n raw)

/-- `epush` (R341): a release at the engine's scope; it holds while the queue is full or no result element is free. Pushes of one cycle enter in
ascending core number (R198). A push that reads a buffer that an earlier turn of its cycle unsealed waits for the next cycle, since `unseal` has
observed CNT after that cycle's pushes (R240). -/
def execEpush (rs1 eng : BitVec 5) (s : State) : Host.Outcome State Fault Refusal :=
  runCore s (fun n =>
    let a := s.rx rs1
    match s.ownRecord n a with
    | none => trap s 5 a
    | some off => do
      let s ← s.signal n (engineScope eng)
      let raw := BitVec.ofNat 512 (s.ownBytes n off 64)
      let e := engineOf n eng
      let res := natBit (cmdField raw 1 1) 2
      if (s.engAt e).full || (res && decide (8 ≤ (s.coreAt n).results.length)) || s.outOfTurn (s.engAt e).last n ||
          s.unsealedNow (s.pushedCmd n raw).src (s.pushedCmd n raw).len then hold s .hold
      else pure (s.pushCmd n e raw).complete)

/-- A place of `k` bytes in the own scratchpad, aligned to `k`, that may be stored to. -/
def State.ownStore (s : State) (n : Nat) (a : Word) (k : Nat) : Except Stop Nat :=
  match (if a.toNat % k = 0 then s.ownPad n a k else none) with
  | none => trapAcc s .store 7 a
  | some off => do
    let _ ← s.checkPad n n off k .store a
    pure off

/-- The element whose command ended first (R201). -/
def firstEnded (l : List ResElt) : Option ResElt :=
  (l.filter ResElt.ended).foldl (fun o r =>
    match o with
    | some q => if r.order < q.order then some r else some q
    | none => some r) none

/-- `epop` (R342): the element whose command ended first, its clock mark, and its TAG. -/
def execEpop (rd rs1 : BitVec 5) (s : State) : Host.Outcome State Fault Refusal :=
  runCore s (fun n =>
    if (s.coreAt n).results.isEmpty then .ok (s.setRd rd 0xFFFFFFFFFFFFFFFF#64)
    else
      match firstEnded (s.coreAt n).results with
      | none => hold s .pop
      | some r =>
        if r.status = 1#16 then trap s 50 (r.fidx.setWidth 64)
        else do
          let off ← s.ownStore n (s.rx rs1) 16
          let s ← s.push n ⟨.scratch n off, (natToBytes 16 r.word.toNat).map some, (s.coreAt n).asid⟩
          let s := (s.updCore n (fun c => { c with results := c.results.erase r })).raise n r.mark
          pure ((s.acquire n scopePkg).setRd rd r.tag))

/-! Stage queues (R194, R195, R343). -/

/-- The queue from stage `st` to the next, of the launch of a task. -/
def State.stageQ (s : State) (j st : Nat) : Option StageQ := s.disp.queues.find? (fun q => decide (q.jseq = j) && decide (q.stage = st))

/-- Replace it. -/
def State.setStageQ (s : State) (q : StageQ) : State :=
  { s with disp := { s.disp with queues := s.disp.queues.map (fun p => if p.jseq = q.jseq ∧ p.stage = q.stage then q else p) } }

/-- `spush` (R343, R195): a release at package scope; it holds while the queue is full. -/
def execSpush (rs1 : BitVec 5) (s : State) : Host.Outcome State Fault Refusal :=
  runCore s (fun n =>
    match (s.coreAt n).task with
    | none => illegal s
    | some t =>
      match s.stageQ t.jseq t.stage with
      | none => illegal s
      | some q =>
        match s.ownRecord n (s.rx rs1) with
        | none => trap s 5 (s.rx rs1)
        | some off => do
          let s ← s.signal n scopePkg
          if decide (q.dm1 + 1 ≤ q.recs.length) || s.outOfTurn q.pushed (s.coreAt n).csr.lcore.toNat then hold s .hold
          else
            let r := BitVec.ofNat 512 (s.ownBytes n off 64)
            pure (s.setStageQ { q with
              recs := q.recs ++ [r], tail := (q.tail + 1) % (q.dm1 + 1), pushed := some (s.time.gtc, (s.coreAt n).csr.lcore.toNat) }).complete)

/-- `spop` (R343, R195): a record into the own scratchpad and rd 0; rd 1 at a closed queue; it holds at an empty one. -/
def execSpop (rd rs1 : BitVec 5) (s : State) : Host.Outcome State Fault Refusal :=
  runCore s (fun n =>
    match (s.coreAt n).task with
    | none => illegal s
    | some t =>
      match (if t.stage = 0 then none else s.stageQ t.jseq (t.stage - 1)) with
      | none => illegal s
      | some q => do
        let off ← s.ownStore n (s.rx rs1) 64
        match q.recs with
        | [] => if q.cl then pure (s.setRd rd 1#64) else hold s .hold
        | r :: rest =>
          if s.outOfTurn q.popped (s.coreAt n).csr.lcore.toNat then hold s .hold
          else
            let s ← s.push n ⟨.scratch n off, (natToBytes 64 r.toNat).map some, (s.coreAt n).asid⟩
            let s := s.setStageQ { q with
              recs := rest, head := (q.head + 1) % (q.dm1 + 1), popped := some (s.time.gtc, (s.coreAt n).csr.lcore.toNat) }
            pure ((s.acquire n scopePkg).setRd rd 0#64))

/-! Sealed buffers (R145, R146, R344). -/

/-- The cluster-memory offset of a buffer in the own cluster memory, when address and length keep R344's limits. -/
def State.sealRange (s : State) (n : Nat) (ea len : Word) : Option Nat :=
  let a := (ea.extractLsb' 0 42).toNat
  let base := 0x21100000000 + clusterOf n * 0x400000
  let off : Option Nat :=
    if 0x22000400000 ≤ a ∧ a < 0x22000800000 then some (a - 0x22000400000)
    else if base ≤ a ∧ a < base + 0x400000 then some (a - base)
    else none
  match s.region (some n) ea, off with
  | .pad _ _, some o =>
    if o % 128 = 0 ∧ len.toNat % 128 = 0 ∧ 128 ≤ len.toNat ∧ o + len.toNat ≤ 0x400000 then some o else none
  | _, _ => none

/-- Does a waiting store touch a buffer of a cluster? -/
def Store.inBuffer (st : Store) (cluster o len : Nat) : Bool :=
  let meets (core off n : Nat) : Bool :=
    let p := padToCluster core off
    decide (clusterOf core = cluster) && decide (o < p + n) && decide (p < o + len)
  match st.place with
  | .scratch core off => meets core off st.bytes.length
  | .nibbles core off => meets core off ((st.bytes.length + 1) / 2)
  | .words core offs => offs.any (fun off => meets core off 4)
  | .scaled core _ _ l => l.any (fun e => meets core e.1.byteoff e.1.count)
  | .row l => l.any (fun q => match q.1 with | .scratch core off => meets core off q.2 | _ => false)
  | .cached _ | .cxl _ | .remote _ | .ctrl _ | .window _ _ => false

/-- Perform the stores of every core that holds one to the buffer (R344). -/
def State.settleBuffer (s : State) (cluster o len : Nat) : List Nat → Except Stop State
  | [] => .ok s
  | m :: rest => do
    let s ← (if (s.coreAt m).sb.any (·.inBuffer cluster o len) then s.drain m else pure s : Except Stop State)
    s.settleBuffer cluster o len rest

/-- A seal entry of a cluster. -/
def State.sealEntry (s : State) (c i : Nat) : Seal := (s.clusterAt c).seals.getD i ⟨false, 0, 0, 0⟩

/-- Its 64 bits (R145). -/
def Seal.word (e : Seal) : Word := BitVec.ofBool e.s ++ BitVec.ofNat 16 e.cnt ++ BitVec.ofNat 15 e.lm1 ++ 0#17 ++ BitVec.ofNat 15 e.base

/-- `seal` (R344). -/
def execSeal (rd rs1 rs2 : BitVec 5) (s : State) : Host.Outcome State Fault Refusal :=
  runCore s (fun n =>
    let a := s.rx rs1
    let len := (s.rx rs2).toNat
    let c := clusterOf n
    match s.sealRange n a (s.rx rs2) with
    | none => trapAcc s .store 7 a
    | some o =>
      match (List.range 32).find? (fun i => !(s.sealEntry c i).s) with
      | none => trapAcc s .store 31 a
      | some e =>
        if !(s.sealsAt c o len).isEmpty then trapAcc s .store 31 a
        else do
          let s ← s.signal n scopeTeam
          let s ← s.settleBuffer c o len s.listed
          let s := s.updCluster c (fun k => { k with seals := k.seals.setIfInBounds e ⟨true, 0, len / 128 - 1, o / 128⟩ })
          pure (s.setRd rd (BitVec.ofNat 64 e)))

/-- `unseal` (R344, R146): it waits until CNT is 0, then clears S. No L1 holds lines of cluster memory in this model. -/
def execUnseal (rs1 : BitVec 5) (s : State) : Host.Outcome State Fault Refusal :=
  runCore s (fun n =>
    let v := s.rx rs1
    let c := clusterOf n
    let i := (v.extractLsb' 0 5).toNat
    let e := s.sealEntry c i
    if v.extractLsb' 5 59 ≠ 0#59 ∨ !e.s then illegal s
    else if e.cnt ≠ 0 then hold s .unseal
    else .ok ((s.note (.unseal c e)).updCluster c (fun k => { k with seals := k.seals.setIfInBounds i { e with s := false } })).complete)

/-- `sealrd` (R344). -/
def execSealrd (rd rs1 : BitVec 5) (s : State) : Host.Outcome State Fault Refusal :=
  runCore s (fun n => .ok (s.setRd rd (s.sealEntry (clusterOf n) ((s.rx rs1).extractLsb' 0 5).toNat).word))

end Sys2Proof.Machine
end

