-- ==== Sys2Proof/Machine/Sweep.lean ====
section
/-! DEFINITION. Sweeps: the instruction that starts a pass, wakes, and the operations of a sweep body (R154 to R169, R345, R346, R364). -/

namespace Sys2Proof.Machine

/-! The descriptor (R157). -/

/-- The place of a descriptor: 64 bytes, aligned, in the own scratchpad or own cluster memory, outside the active workspace. -/
def State.descPlace (s : State) (n : Nat) (ea : Word) : Option (Nat × Nat) :=
  let a := (ea.extractLsb' 0 42).toNat
  let cl := 0x21100000000 + clusterOf n * 0x400000
  let inCl := (decide (0x22000400000 ≤ a) && decide (a < 0x22000800000)) || (decide (cl ≤ a) && decide (a < cl + 0x400000))
  match s.region (some n) ea with
  | .pad core off =>
    if ea.toNat % 64 = 0 ∧ (inCl ∨ (s.ownPad n ea 64).isSome) ∧ !s.inWs core off 64 then some (core, off) else none
  | _ => none

/-- The capsule a core's task runs. -/
def State.capOf (s : State) (n : Nat) : Option (Nat × Caps) :=
  match (s.coreAt n).task with
  | some t => some (t.caps, s.cap t.caps)
  | none => none

/-- The pass that a good descriptor gives (R157, R158); `none` when a check of R157 fails. -/
def State.passOf (s : State) (n : Nat) (rd : BitVec 5) (ea : Word) : Option Pass := do
  let (core, off) ← s.descPlace n ea
  let f (i k : Nat) : Nat := s.mem.read (kPad core (off + i)) k
  let (capn, cap) ← s.capOf n
  let tensor ← cap.tensors[f 24 1]?
  let body ← cap.bodies[f 25 1]?
  let ten := (s.coreAt n).ten
  let cur := f 28 4
  let p : Pass := {
    core := n, pc := (s.coreAt n).pc, rd := rd.toNat, desc := ea.toNat, dbase := f 0 8, ebase := f 8 8, ecap := f 16 4, fmt := tensor.fmt, width := tensor.width
    count := tensor.count, ctxoff := tensor.ctx, body := body.1, words := body.2, caps := capn, ten := ten, dsel := (s.coreAt n).csr.dsel
    cur := if natBit cur 31 then cur % 2 ^ 25 else 0, waitn := if natBit cur 31 then f 32 4 else 0, ecnt := f 20 4, started := false, loaded := false
    lanes := [], snap := [], wakes := [], bodyWakes := [], arrived := s.time.gtc, stop := false, recordWaits := none }
  let reserved := f 26 2 ≠ 0 ∨ natBits cur 30 25 ≠ 0 ∨ f 48 16 ≠ 0
  let noEmit := p.ebase = 0 ∧ p.ecap = 0
  if reserved ∨ tensor.ctx = 0 ∨ p.dbase % 16 ≠ 0 ∨ p.ebase % 4 ≠ 0 ∨ 2 ^ 24 < cur % 2 ^ 25 ∨ (p.ebase = 0 ∧ p.ecap ≠ 0) ∨
      !s.planeOpen n ten p.dbase (p.count * p.elemBytes) ∨ !s.planeOpen n ten (p.dbase + p.ctxoff) (16 * p.count) ∨
      !s.planeOpen n ten (p.dbase + p.ctxoff + 16 * p.count) ((p.count + 63) / 64 * 8) ∨ (¬ noEmit ∧ !s.planeOpen n ten p.ebase (4 * p.ecap)) then none
  else some p

/-- The address of a descriptor, at a place that R157 allows, that holds a poisoned word. -/
def State.descPoisoned (s : State) (n : Nat) (ea : Word) : Option Nat :=
  match s.descPlace n ea with
  | some (core, off) => if s.anyPoison (kPad core off) 64 then some ea.toNat else none
  | none => none

/-- The engine that reads a poisoned descriptor ends its command, the `sweep`, with cause 50 and a fault record; with the fault queue full it
waits (R246, R205; log 75). -/
def State.descFault (s : State) (n addr : Nat) : Except Stop State :=
  let k := s.coreAt n
  let q := s.fq k.ten
  if q.next - q.head < 1024 then
    let (s, i) := s.faultRecord k.ten
      ⟨50, s.openField 7, clusterOf n, addr, kaccKind .load, s.openField 0, s.openField 1, k.jseq, k.csr.lcore.toNat⟩ s.openCopy
    trap s 50 (BitVec.ofNat 64 (i.getD 0xFFFF))
  else hold (if k.wait = .sweep then s else s.count cFQOVF 1) .sweep

/-- A pass takes its place among those that wait: after every earlier arrival, and among the arrivals of one cycle in ascending physical
core number (R364). -/
def queuePass (p : Pass) (l : List Pass) : List Pass :=
  let before (q : Pass) : Bool := decide (q.arrived < p.arrived) || decide (q.core < p.core)
  l.takeWhile before ++ p :: l.dropWhile before

/-- `sweep` (R158, R345): the checks, a release at team scope, and the pass waits for the engine in the order of arrival (R364). A fault
of its earlier execution that found the core frozen is raised first (R167). A pass that still waits for the engine, of a `sweep` the core
has left since (R166), gives way to the new one. -/
def execSweep (rd rs1 : BitVec 5) (s : State) : Host.Outcome State Fault Refusal :=
  runCore s (fun n => do
    let mine (p : Pass) : Bool := decide (p.core = n)
    let s := if (s.coreAt n).wait = .sweep then s
      else s.updCluster (clusterOf n) (fun k => { k with passes := k.passes.filter (fun p => !mine p) })
    let k := s.clusterAt (clusterOf n)
    let late : Option (Nat × Word) := match (s.coreAt n).sweepTrap with
      | some (pc, cause, tval) => if pc = (s.coreAt n).pc then some (cause, tval) else none
      | none => none
    if k.passes.any mine || k.pass.any mine then hold s .sweep
    else if let some (cause, tval) := late then trap (s.updCore n (fun c => { c with sweepTrap := none })) cause tval
    else
      let s ← s.drain n
      if let some a := s.descPoisoned n (s.rx rs1) then s.descFault n a
      else match s.passOf n rd (s.rx rs1) with
      | none => trap s 29 0xFFFFFFFFFFFFFFFF#64
      | some p => do
        let s ← s.signal n scopeTeam
        hold (s.updCluster (clusterOf n) (fun k => { k with passes := queuePass p k.passes })) .sweep)

/-- The head of the waiting passes that may start; those whose core has left its `sweep` or must stop drop out (R158, R166). -/
def State.readyPasses (s : State) (l : List Pass) : List Pass :=
  l.dropWhile (fun p => s.stopPending p || !decide ((s.coreAt p.core).wait = .sweep))

/-- A waiting pass reaches the engine, which is free: the first group loads, or the pass stops or ends (R158, R345). It starts after the
cycle of its arrival, when every `sweep` of that cycle has taken its place (R364). -/
def execSweepPassStart (cluster : Nat) (s : State) : Host.Outcome State Fault Refusal :=
  .next (
    if (s.clusterAt cluster).pass.isSome then s
    else
      match s.readyPasses (s.clusterAt cluster).passes with
      | [] => s.updCluster cluster (fun k => { k with passes := [] })
      | p :: rest =>
        if s.time.gtc ≤ p.arrived then s
        else
        let p := { p with started := true }
        let s := s.updCluster cluster (fun k => { k with pass := some p, passes := rest })
        absorb (s.goOn cluster))

/-- The group has come to rest: it commits, and the pass goes on (R163 to R166). A pass between groups goes on too. -/
def execGroupCommit (cluster : Nat) (s : State) : Host.Outcome State Fault Refusal :=
  .next (
    match s.passAt cluster with
    | none => s
    | some p =>
      if !p.loaded then absorb (s.goOn cluster)
      else if p.quiet then absorb (s.commitGroup cluster p)
      else s)

/-! Wakes (R161, R164, R345). -/

/-- One number for a byte of cluster memory or of a tenant's package scratchpad, consecutive within each. -/
def State.planeKey (s : State) (n : Nat) (ea : Word) : Option Nat :=
  match s.region (some n) ea with
  | .pad core off => some (space 302 + clusterOf core * 0x400000 + padToCluster core off)
  | .pkg off => some (kPkg (s.coreAt n).ten off)
  | _ => none

/-- The element of a pass whose context lies at an address (R164). -/
def State.elementOf (s : State) (n : Nat) (ea : Word) (p : Pass) : Option Nat :=
  match s.planeKey n ea, s.planeKey p.core (BitVec.ofNat 64 (p.ctxAddr 0)) with
  | some a, some b => if b ≤ a ∧ a < b + 16 * p.count then some ((a - b) / 16) else none
  | _, _ => none

/-- The cluster whose engine sweeps the tensor, and the element, whose context lies at an address (R164). -/
def State.sweptElement (s : State) (n : Nat) (ea : Word) : Option (Nat × Pass × Nat) :=
  s.clusters.findSome? (fun k =>
    match k.2.pass with
    | some p => (s.elementOf n ea p).map (fun e => (k.1, p, e))
    | none => none)

/-- Does a place hold a poisoned word among `k` bytes (R246)? -/
def State.placePoisoned (s : State) (p : Place) (k : Nat) : Bool :=
  match p with
  | .cached key => s.anyPoison key k
  | .scratch c o => s.anyPoison (kPad c o) k
  | _ => false

/-- A core's wake acts on the 16 bytes of a context alone. -/
def State.wakeContext (s : State) (n : Nat) (p : Place) (key : Nat) (ea : Word) : Except Stop State := do
  let (s, old) ← (match p with
    | .cached k => s.homeRead k 16
    | .scratch c o => pure (s, s.mem.read (kPad c o) 16)
    | p =>
      -- the access is one that R345 checks as a store
      match s.loadAt n p 16 0 ea with
      | .ok (s, b, _) => .ok (s, bytesToNat b)
      | .error (.trap s cause _ _) => trapAcc s .store (awayCause .store (decide (cause = 13))) ea
      | .error e => .error e : Except Stop (State × Nat))
  match ctxWake (BitVec.ofNat 128 old) key with
  | none => pure s
  | some (c, _) => s.perform n ⟨p, (natToBytes 16 c.toNat).map some, (s.coreAt n).asid⟩

/-- `swake` outside a body (R345): in order with the core's stores, also those that left the package (R173); held while the engine runs a group of
that tensor, else applied at once (R164, R165). A wake updates the context as an atomic does: a poisoned word is cause 7 (R246). -/
def coreWake (s : State) (n : Nat) (ea : Word) (key : BitVec 32) : Except Stop State := do
  if ea.toNat % 16 ≠ 0 then trapAcc s .store 6 ea
  else
    let (s, p) ← s.check n ea 16 16 .store
    match p with
    | .window _ _ => trapAcc s .store 28 ea
    | p => do
      let s ← s.drain n
      if s.placePoisoned p 16 then trapAcc s .store 7 ea
      else
      match s.sweptElement n ea with
      | some (c, q, e) =>
        if (s.coreAt n).away then hold s .fence
        else
          let s := s.updPass c (fun q => { q with wakes := q.wakes ++ [(e, key)] })
          let s := if q.loaded then s else match s.applyWakes c (q.wakes.length + 1) with | .ok (s, _) => s | .error (.hold s _) => s | .error _ => s
          pure s.complete
      | none => do
        let s ← s.wakeContext n p key.toNat ea
        pure s.complete

/-- A wake of an element of the running group: a lane whose sleep it ends resumes in this group (R164). On an element that counts down
(CW = 1) it only latches WKP, and the lane does not resume in this group: the spec's row names a lane that is idle or ended at `swait.key`
and does not say whether a count wait is such a lane (DESIGN CHOICE, log 77). So it does on an idle lane whose skip bit alone is 1 (SLP = 0): the row names idle lanes, and R162 starts no segment of a skipped element (DESIGN CHOICE, log 77). -/
def State.wakeLane (s : State) (p : Pass) (l : Lane) (key : Nat) : Lane :=
  match ctxWake l.ctx key with
  | none => l
  | some (c, woke) =>
    let l := { l with ctx := c }
    if woke then s.startSegment p l else l

/-- `swake` inside a body (R161, R164, R165). -/
def bodyWake (s : State) (c j : Nat) (p : Pass) (e : Word) (key : BitVec 32) : State :=
  match s.laneAt c j with
  | none => s
  | some l =>
    if p.count ≤ e.toNat then s.laneFault c j 0x103 0
    else
      let s := if p.lanes.any (fun l => decide (l.elem = e.toNat)) then
          s.updPass c (fun p => { p with lanes := p.lanes.map (fun l => if l.elem = e.toNat then s.wakeLane p l key.toNat else l) })
        else s.updPass c (fun p => { p with bodyWakes := p.bodyWakes ++ [(e.toNat, key)] })
      s.laneRetire c j (l.idx + 1)

/-- `swake` (R345). -/
def execSwake (rs1 rs2 : BitVec 5) (s : State) : Host.Outcome State Fault Refusal :=
  let key := (s.rx rs2).extractLsb' 0 32
  match s.run.cur with
  | .core n => finish n (coreWake s n (s.rx rs1) key)
  | .lane c j =>
    match s.passAt c with
    | some p => .next (bodyWake s c j p (s.rx rs1) key)
    | none => .next s

/-! Body operations (R161, R162, R346). -/

/-- A data element as a body reads it: integers sign-extended, floating codes zero-extended. -/
def Pass.dataWord (p : Pass) (d : List Byte) : Word :=
  if p.intData then BitVec.ofInt 64 (signedOf (8 * p.elemBytes) (bytesToNat d)) else BitVec.ofNat 64 (bytesToNat d)

/-- A field of a context with its data: data, loc0, loc1, wkey, step, idx. -/
def fieldWord (p : Pass) (elem : Nat) (ctx : BitVec 128) (d : List Byte) (f : Nat) : Word :=
  match f with
  | 0 => p.dataWord d
  | 1 => BitVec.ofNat 64 (ctxLoc0 ctx)
  | 2 => BitVec.ofNat 64 (ctxLoc1 ctx)
  | 3 => BitVec.ofNat 64 (ctxWkey ctx)
  | 4 => BitVec.ofNat 64 (ctxStep ctx)
  | _ => BitVec.ofNat 64 elem

/-- `cld` (R161). -/
def execCld (rd fld : BitVec 5) (s : State) : Host.Outcome State Fault Refusal :=
  runLane s (fun _ _ p l => .ok (s.setRd rd (fieldWord p l.elem l.ctx l.data fld.toNat)))

/-- Context and data of element i − 1 as `nld` sees them (R163). -/
def neighbour (p : Pass) (j : Nat) (l : Lane) : Option (BitVec 128 × List Byte) :=
  if l.elem = 0 then none
  else
    match l.near, j with
    | true, j' + 1 => (p.lanes[j']?).map (fun k => (k.leftCtx, k.leftData))
    | _, _ => (p.snap.find? (fun q => decide (q.1 = l.elem - 1))).map Prod.snd

/-- `nld` (R161): 0 at element 0. -/
def execNld (rd fld : BitVec 5) (s : State) : Host.Outcome State Fault Refusal :=
  runLane s (fun _ j p l =>
    .ok (s.setRd rd (match neighbour p j l with
      | some (c, d) => fieldWord p (l.elem - 1) c d fld.toNat
      | none => 0#64)))

/-- `cst` (R161). -/
def execCst (rs1 fld : BitVec 5) (s : State) : Host.Outcome State Fault Refusal :=
  runLane s (fun c j p _ =>
    let v := s.rx rs1
    .ok (s.updLane c j (fun l =>
      match fld.toNat with
      | 0 => { l with data := natToBytes p.elemBytes v.toNat }
      | 1 => { l with ctx := putBits l.ctx 64 32 v.toNat }
      | _ => { l with ctx := putBits l.ctx 96 32 v.toNat })).complete)

/-- `semit` (R161, R163): a full emit area is a body fault. The emits counted against the capacity are those that all lanes of the group
have made so far; when lanes together emit past ECAP the spec does not say which element faults (DESIGN CHOICE, log 78). -/
def execSemit (rs1 : BitVec 5) (s : State) : Host.Outcome State Fault Refusal :=
  runLane s (fun c j p _ =>
    let n := p.ecnt + (p.lanes.map (fun l => l.emits.length)).sum
    if p.ecap ≤ n then .ok (s.laneFault c j 0x102 (p.ebase + 4 * p.ecap))
    else .ok (s.updLane c j (fun l => { l with emits := l.emits ++ [(s.rx rs1).extractLsb' 0 32] })).complete)

/-- `swait.step` (R161). -/
def execSwaitStep (s : State) : Host.Outcome State Fault Refusal := runLane s (fun c j _ l => .ok (s.laneEnd c j l.ctx false))

/-- `swait.nb` (R161, R163): the lane stalls until its neighbour has ended or idled. -/
def execSwaitNb (s : State) : Host.Outcome State Fault Refusal :=
  runLane s (fun c j p _ =>
    if nearDone p.lanes j then .ok (s.updLane c j (fun l => { l with near := true })).complete
    else .ok (s.updLane c j (fun l => { l with st := .neighbour })))

/-- `swait.cnt` (R161). -/
def execSwaitCnt (rs1 : BitVec 5) (s : State) : Host.Outcome State Fault Refusal :=
  runLane s (fun c j _ l =>
    let v := ((s.rx rs1).extractLsb' 0 32).toNat
    if v = 0 then .ok s.complete
    else .ok (s.laneEnd c j (ctxFlag (putBits l.ctx 32 32 (v - 1)) 20 (decide (1 < v))) false))

/-- `swait.key` (R161): a latched wake is consumed, else the element sleeps. -/
def execSwaitKey (rs1 : BitVec 5) (s : State) : Host.Outcome State Fault Refusal :=
  runLane s (fun c j _ l =>
    if ctxWkp l.ctx then .ok (s.updLane c j (fun l => { l with ctx := ctxFlag l.ctx 17 false })).complete
    else .ok (s.laneEnd c j (ctxFlag (putBits l.ctx 32 32 ((s.rx rs1).extractLsb' 0 32).toNat) 16 true) true))

/-- `sdone` (R161). -/
def execSdone (s : State) : Host.Outcome State Fault Refusal := runLane s (fun c j _ l => .ok (s.laneEnd c j (ctxFlag l.ctx 18 true) false))

end Sys2Proof.Machine
end

