-- ==== Sys2Proof/Machine/VecMem.lean ====
section
/-! DEFINITION. Custom-1: contiguous vector loads and stores, gathers and scatters, lane slices, mirror loads, hints, moves between vector and scalar registers, and window entries (R98, R143, R241, R291 to R301). -/

namespace Sys2Proof.Machine

/-! Shared operations. -/

/-- A custom-1 instruction waits for the custom-0 writes of the registers it reads or writes (R47, R291); masks are 32 to 39. -/
def Core.awaitFor (c : Core) (l : List Nat) : Core :=
  { c with vnext := (c.vpend.filter (fun p => l.contains p.reg)).foldl (fun t p => max t p.fin) c.vnext }

/-- The mask register that vmsel selects, as a number from 32 on. -/
def Core.maskReg (c : Core) : Nat := 32 + (c.csr.vmsel.extractLsb' 0 3).toNat

/-- Wait for some registers and the selected mask. -/
def State.awaitMasked (s : State) (n : Nat) (l : List Nat) : State := s.updCore n (fun c => c.awaitFor (c.maskReg :: l))

/-- The active elements among the first `k`, lowest first (R273). -/
def Core.actives (c : Core) (k : Nat) : List Nat := (List.range k).filter c.active

/-- The place `d` bytes below a place. -/
def Place.back (p : Place) (d : Nat) : Place :=
  match p with
  | .cached k => .cached (k - d)
  | .scratch c o => .scratch c (o - d)
  | .cxl k => .cxl (k - d)
  | .remote ea => .remote (ea - BitVec.ofNat 64 d)
  | .ctrl off => .ctrl (off - d)
  | .window w off => .window w (off - d)
  | .nibbles c o => .nibbles c (o - d)
  | .words c l => .words c l
  | .scaled c w m l => .scaled c w m l
  | .row l => .row l

/-- Put elements of `w` bits, given with their numbers, over a v register. -/
def putElems (d : BitVec 512) (w : Nat) : List (Nat × Nat) → BitVec 512
  | [] => d
  | (e, v) :: t => putElems (putBits d (w * e) w v) w t

/-- Write loaded elements into vd. -/
def State.putVector (s : State) (n : Nat) (rd : BitVec 5) (w : Nat) (l : List (Nat × Nat)) : State :=
  s.updCore n (fun c => c.wv rd (putElems (c.rv rd) w l))

/-! Contiguous accesses (R292 to R295). -/

/-- The bytes that condition 8 of a contiguous store tests for element `e` (R260, R246): a store that covers its protected word whole merges
nothing, so the word's other element counts with it when it is stored too. The answer is how far before the element they begin, and how many
they are. -/
def wordSpan (k : Access) (all : List Nat) (e : Nat) : Nat × Nat :=
  if isWrite k && all.contains (e / 2 * 2) && all.contains (e / 2 * 2 + 1) then (4 * (e % 2), 8) else (0, 4)

/-- The checks of R293 outside windows, element by element; the place of the 64 bytes. `all` are the active elements. -/
def State.contigCheck (s : State) (n : Nat) (ea : Word) (k : Access) (all : List Nat) : List Nat → Place → Except Stop (State × Place)
  | [], p => .ok (s, p)
  | e :: t, _ => do
    let a := ea + BitVec.ofNat 64 (4 * e)
    if s.region (some n) a = .nowhere then trapAcc s k (accCause k) a
    else if ea.toNat % 64 ≠ 0 then trapAcc s k (alignCause k) ea
    else
      let (back, span) := wordSpan k all e
      let (s, p) ← s.checkIn n a 4 4 back span k
      s.contigCheck n ea k all t (p.back (4 * e))

/-- The window checks of R293 and R295 for elements of window `w` from offset `a` on, of an access that covers `cov`. -/
def State.windowCheck (s : State) (n w a d : Nat) (ea : Word) (k : Access) (cov : Nat → Bool) : List Nat → Except Stop (List (Nat × WinPlace))
  | [] => .ok []
  | e :: t => do
    let q ← s.winCheckIn n w (a + d * e) d cov k (ea + BitVec.ofNat 64 (d * e))
    let l ← s.windowCheck n w a d ea k cov t
    pure ((e, q) :: l)

/-- The offsets that the elements of a contiguous window access cover together (R246, R292). -/
def Core.windowCover (c : Core) (w a d : Nat) (es : List Nat) (o : Nat) : Bool :=
  es.any (fun e => match c.winPlace w (a + d * e) d with | some p => p.covers o | none => false)

/-- Load checked window elements in order. -/
def State.windowLoads (s : State) (n w : Nat) : List (Nat × WinPlace) → State × List (Nat × Nat)
  | [] => (s, [])
  | (e, q) :: t =>
    let (s, b) := s.winLoad n w q
    let (s, l) := s.windowLoads n w t
    (s, (e, bytesToNat b) :: l)

/-- Bytes of a decode target (D). -/
def Core.winD (c : Core) (w : Nat) : Nat := (winTarget (c.win.getD w 0#64)).bits / 8

/-- Element `e` of 4 bytes in 64 loaded bytes. -/
def elem4 (b : List Byte) (e : Nat) : Nat := bytesToNat ((b.drop (4 * e)).take 4)

/-- The bytes of a 64-byte access that its active elements `es` cover. -/
def byteMask (es : List Nat) : List Bool := (List.range 64).map (fun i => es.contains (i / 4))

/-- The address of the first active element. -/
def firstEa (ea : Word) (es : List Nat) : Word := ea + BitVec.ofNat 64 (4 * es.headD 0)

/-- The 64 bytes of a contiguous load at a checked place, of which the elements `es` are active: outside the package one request for the bytes of
those alone, whose error is a trap of the first of them (R142, R292, R293). -/
def State.loadVec (s : State) (n : Nat) (p : Place) (es : List Nat) (ea : Word) : Except Stop (State × List Byte × Nat) :=
  match p with
  | .cxl key => do
    match (s.coreAt n).reply.at 0 64 with
    | some (.ok v) => pure (s, v, 1)
    | some (.error _) => trapAcc s .load 5 (firstEa ea es)
    | none =>
      let s ← s.drain n
      askCxl s n (if es.length = 16 then .read key 64 else .readSome key (byteMask es))
  | .remote a => do
    match (s.coreAt n).reply.at 0 64 with
    | some (.ok v) => pure (s, v, 1)
    | some (.error page) => trapAcc s .load (awayCause .load page) (firstEa ea es)
    | none =>
      let s ← s.drain n
      askRemote s n (if es.length = 16 then .loadAsk n a 64 else .loadSome n a (byteMask es))
  | p => s.loadAt n p 64 0 ea

/-- The checks that another module makes of the bytes of a contiguous store's active elements (R260, R292). -/
def State.checkAwayVec (s : State) (n : Nat) (p : Place) (es : List Nat) (ea : Word) : Except Stop State :=
  match p with
  | .remote a =>
    match (s.coreAt n).reply.at 0 64 with
    | some (.ok _) => .ok s
    | some (.error page) => trapAcc s .store (awayCause .store page) (firstEa ea es)
    | none => askRemote s n (if es.length = 16 then .checkAsk n a 64 else .checkSome n a (byteMask es))
  | _ => .ok s

/-- `vld` at an effective address, with the way a checked place is loaded for some active elements, and whether lclk stays (R298). -/
def vectorLoad (s : State) (n : Nat) (rd : BitVec 5) (ea : Word) (quiet : Bool)
    (load : State → Place → List Nat → Except Stop (State × List Byte × Nat)) : Except Stop State := do
  let s := s.awaitMasked n [rd.toNat]
  match s.region (some n) ea with
  | .window w a =>
    let d := (s.coreAt n).winD w
    let l ← s.windowCheck n w a d ea .load (fun _ => false) ((s.coreAt n).actives (64 / d))
    let clk := (s.coreAt n).csr.lclk
    let (s, r) := s.windowLoads n w l
    let s := if quiet then s.updCore n (fun c => { c with csr := { c.csr with lclk := clk } }) else s
    pure (s.putVector n rd (8 * d) r).complete
  | _ =>
    match (s.coreAt n).actives 16 with
    | [] => pure s.complete
    | es =>
      let (s, p) ← s.contigCheck n ea .load es es (.scratch 0 0)
      let (s, b, _) ← load s p es
      pure (s.putVector n rd 32 (es.map (fun e => (e, elem4 b e)))).complete

/-- `vld` (R294): 64 bytes, active elements only. -/
def execVld (rd rs1 : BitVec 5) (imm : BitVec 8) (s : State) : Host.Outcome State Fault Refusal :=
  let ea := s.rx rs1 + immV imm 64
  runCore s (fun n => vectorLoad s n rd ea false (fun s p es => s.loadVec n p es ea))

/-- `vld.bc` (R294): one word to every active lane. -/
def execVldBc (rd rs1 : BitVec 5) (imm : BitVec 8) (s : State) : Host.Outcome State Fault Refusal :=
  runCore s (fun n => do
    let s := s.awaitMasked n [rd.toNat]
    match (s.coreAt n).actives 16 with
    | [] => pure s.complete
    | es =>
      let (s, b, _) ← s.loadBytes n (s.rx rs1 + immV imm 4) 4 4 0
      pure (s.putVector n rd 32 (es.map (fun e => (e, bytesToNat b)))).complete)

/-- The bytes a masked store writes: element `e` of vs where it is active. -/
def maskedBytes (v : BitVec 512) (es : List Nat) : List (Option Byte) :=
  (List.range 64).map (fun i => if es.contains (i / 4) then some (getByte v i) else none)

/-- `vst` (R294): the active elements of vs, in one access. A 64-byte write of a control register that takes one is open as such. -/
def execVst (rd rs1 : BitVec 5) (imm : BitVec 8) (s : State) : Host.Outcome State Fault Refusal :=
  runCore s (fun n => do
    let ea := s.rx rs1 + immV imm 64
    let s := s.awaitMasked n [rd.toNat]
    let v := (s.coreAt n).rv rd
    match s.region (some n) ea with
    | .window w a =>
      let d := (s.coreAt n).winD w
      let es := (s.coreAt n).actives (64 / d)
      let l ← s.windowCheck n w a d ea .store ((s.coreAt n).windowCover w a d es) es
      let s ← s.winStores n w (l.map (fun p => (p.2, velem v (8 * d) p.1)))
      pure s.complete
    | r =>
      let es := (s.coreAt n).actives 16
      let whole := maskedBytes v es
      let wide : Option Nat :=
        match r with
        | .ctrl off => if decide (off % 64 = 0) && decide (es.length = 16) && s.ctrlOpen (s.coreAt n) off 64 true then some off else none
        | _ => none
      match wide, es with
      | some off, _ => do let s ← s.push n ⟨.ctrl off, whole, (s.coreAt n).asid⟩; pure s.complete
      | none, [] => pure s.complete
      | none, es => do
        let (s, p) ← s.contigCheck n ea .store es es (.scratch 0 0)
        let s ← s.checkAwayVec n p es ea
        let s ← s.push n ⟨p, whole, (s.coreAt n).asid⟩
        pure s.complete)

/-! Gather and scatter (R296). -/

/-- The address of lane `j`. -/
def laneAddr (base : Word) (offs : BitVec 512) (aux : BitVec 2) (j : Nat) : Word :=
  base + (vlane offs j).signExtend 64 * (1#64 <<< aux.toNat)

/-- A lane whose checks are made: its number, its place, its window place, and what a gather's lane has read outside the package. -/
structure LaneAt where
  lane : Nat
  place : Place
  win : Option WinPlace
  away : List Byte
  deriving DecidableEq, Repr

/-- The checks of one lane of a gather or scatter (R293); a lane outside the package meets its last condition as well: a gather's lane by its
load, a store to another module by that module's checks (R260). `i` counts the lanes before that left the package. -/
def State.laneCheck (s : State) (n : Nat) (ea : Word) (k : Access) (j i : Nat) : Except Stop (State × LaneAt × Nat) := do
  let (s, p) ← s.check n ea 4 4 k
  match p, k with
  | .window w a, _ => do
    let q ← s.winCheck n w a 4 k ea
    pure (s, ⟨j, p, some q, []⟩, i)
  | .cxl _, .load | .remote _, .load => do
    let (s, b, i) ← s.loadAt n p 4 i ea
    pure (s, ⟨j, p, none, b⟩, i)
  | _, _ => do
    let (s, i) ← (if k = .store then s.checkAway n p 4 i ea else pure (s, i) : Except Stop (State × Nat))
    pure (s, ⟨j, p, none, []⟩, i)

/-- The checks of every active lane, in lane order. -/
def State.lanesCheck (s : State) (n : Nat) (addr : Nat → Word) (k : Access) (i : Nat) : List Nat → Except Stop (State × List LaneAt)
  | [] => .ok (s, [])
  | j :: t => do
    let (s, a, i) ← s.laneCheck n (addr j) k j i
    let (s, l) ← s.lanesCheck n addr k i t
    pure (s, a :: l)

/-- Load the lanes of a gather whose checks are made, in order. -/
def State.gatherLanes (s : State) (n : Nat) (addr : Nat → Word) : List LaneAt → Except Stop (State × List (Nat × Nat))
  | [] => .ok (s, [])
  | a :: t => do
    let (s, b) ← (match a.place, a.win with
      | .window w _, some q => .ok (s.winLoad n w q)
      | .cxl _, _ | .remote _, _ => .ok (s, a.away)
      | p, _ => (s.loadAt n p 4 0 (addr a.lane)).map (fun r => (r.1, r.2.1)) : Except Stop (State × List Byte))
    let (s, l) ← s.gatherLanes n addr t
    pure (s, (a.lane, bytesToNat b) :: l)

/-- The lanes of a gather are relaxed among themselves (R292): those that may have to wait come first, those of a control register next, and those
of a window, whose events count once, last. -/
def gatherOrder (l : List LaneAt) : List LaneAt :=
  let ctrl (a : LaneAt) : Bool := match a.place with | .ctrl _ => true | _ => false
  l.filter (fun a => a.win.isNone && !ctrl a) ++ l.filter (fun a => a.win.isNone && ctrl a) ++ l.filter (fun a => a.win.isSome)

/-- `vgather` (R296): one load per active lane, after every lane's checks. -/
def execVgather (rd rs1 rs2 : BitVec 5) (aux : BitVec 2) (s : State) : Host.Outcome State Fault Refusal :=
  runCore s (fun n => do
    let s := s.awaitMasked n [rd.toNat, rs2.toNat]
    let addr := laneAddr (s.rx rs1) ((s.coreAt n).rv rs2) aux
    let (s, l) ← s.lanesCheck n addr .load 0 ((s.coreAt n).actives 16)
    let (s, r) ← s.gatherLanes n addr (gatherOrder l)
    pure (s.putVector n rd 32 r).complete)

/-- The stores of a scatter enter the store buffer in lane order (R259, R292). -/
def State.scatterLanes (s : State) (n : Nat) (v : BitVec 512) : List LaneAt → Except Stop State
  | [] => .ok s
  | a :: t => do
    let s ← (match a.place, a.win with
      | .window w _, some q => s.winStores n w [(q, velem v 32 a.lane)]
      | p, _ => s.push n ⟨p, (natToBytes 4 (velem v 32 a.lane)).map some, (s.coreAt n).asid⟩ : Except Stop State)
    s.scatterLanes n v t

/-- `vscatter` (R296): one store per active lane, in lane order, after every lane's checks. It first makes room in the store buffer for all
of them, so that it retires whole. -/
def execVscatter (rd rs1 rs2 : BitVec 5) (aux : BitVec 2) (s : State) : Host.Outcome State Fault Refusal :=
  runCore s (fun n => do
    let s := s.awaitMasked n [rd.toNat, rs2.toNat]
    let (s, l) ← s.lanesCheck n (laneAddr (s.rx rs1) ((s.coreAt n).rv rs2) aux) .store 0 ((s.coreAt n).actives 16)
    let s ← s.drainN n ((s.coreAt n).sb.length + l.length - 32)
    let s ← s.scatterLanes n ((s.coreAt n).rv rd) l
    pure s.complete)

/-! Lane slices (R297). -/

/-- The scratchpad address that lane `j` reaches at slice offset `o`. -/
def sliceAddr (j : Nat) (o : Word) : Word := 0x22000020000#64 + BitVec.ofNat 64 (j * 0x1000) + o

/-- Its scratchpad offset. -/
def sliceOff (j : Nat) (o : Word) : Nat := 0x20000 + j * 0x1000 + o.toNat

/-- The checks of the lane-slice forms, lane by lane (R297, R300). -/
def State.sliceCheck (s : State) (n : Nat) (o : Nat → Word) (k : Access) : List Nat → Except Stop Unit
  | [] => .ok ()
  | j :: t => do
    if (o j).toNat % 4 ≠ 0 then trapAcc s k (alignCause k) (sliceAddr j (o j))
    else if 4096 ≤ (o j).toNat then trapAcc s k (accCause k) (sliceAddr j (o j))
    else
      let _ ← s.checkPad n n (sliceOff j (o j)) 4 k (sliceAddr j (o j))
      s.sliceCheck n o k t

/-- A load from the slices: one access to the own scratchpad. -/
def sliceLoad (s : State) (n : Nat) (rd : BitVec 5) (o : Nat → Word) : Except Stop State := do
  let es := (s.coreAt n).actives 16
  s.sliceCheck n o .load es
  match es with
  | [] => pure s.complete
  | es =>
    let s := s.raise n (s.coreAt n).scm
    pure (s.putVector n rd 32 (es.map (fun j => (j, s.ownBytes n (sliceOff j (o j)) 4)))).complete

/-- A store to the slices: one access, which enters the store buffer (R259, R297). -/
def sliceStore (s : State) (n : Nat) (rd : BitVec 5) (o : Nat → Word) : Except Stop State := do
  let es := (s.coreAt n).actives 16
  s.sliceCheck n o .store es
  match es with
  | [] => pure s.complete
  | es =>
    let v := (s.coreAt n).rv rd
    let s ← s.push n ⟨.words n (es.map (fun j => sliceOff j (o j))), es.flatMap (fun j => (natToBytes 4 (velem v 32 j)).map some), (s.coreAt n).asid⟩
    pure s.complete

/-- `vlsl` (R297). -/
def execVlsl (rd rs1 : BitVec 5) (imm : BitVec 8) (s : State) : Host.Outcome State Fault Refusal :=
  runCore s (fun n => sliceLoad (s.awaitMasked n [rd.toNat]) n rd (fun _ => s.rx rs1 + immV imm 4))

/-- `vsls` (R297). -/
def execVsls (rd rs1 : BitVec 5) (imm : BitVec 8) (s : State) : Host.Outcome State Fault Refusal :=
  runCore s (fun n => sliceStore (s.awaitMasked n [rd.toNat]) n rd (fun _ => s.rx rs1 + immV imm 4))

/-- The slice offset of lane `j` in the indexed forms: unsigned. -/
def sliceIndexed (s : State) (n : Nat) (rs1 rs2 : BitVec 5) (j : Nat) : Word :=
  s.rx rs1 + (vlane ((s.coreAt n).rv rs2) j).setWidth 64

/-- `vlslx` (R297). -/
def execVlslx (rd rs1 rs2 : BitVec 5) (s : State) : Host.Outcome State Fault Refusal :=
  runCore s (fun n => sliceLoad (s.awaitMasked n [rd.toNat, rs2.toNat]) n rd (sliceIndexed s n rs1 rs2))

/-- `vslsx` (R297). -/
def execVslsx (rd rs1 rs2 : BitVec 5) (s : State) : Host.Outcome State Fault Refusal :=
  runCore s (fun n => sliceStore (s.awaitMasked n [rd.toNat, rs2.toNat]) n rd (sliceIndexed s n rs1 rs2))

/-! Mirror loads (R143, R144, R298). -/

/-- Does R143 allow a replica of a line whose page this entry maps? -/
def State.mirrors (s : State) (n : Nat) (e : TlbEntry) : Bool := e.mro && !e.w && decide (e.bk = 0) && !(s.freeWays n).isEmpty

/-- The data of a replica the core may read; otherwise a new one is placed from the home (R143, R175). -/
def State.mirrorLine (s : State) (n line : Nat) : Except Stop (State × BitVec 1024) := do
  match s.findReplica n line with
  | some r => pure (s.llcTouch (replicaLine r.slice line), r.data)
  | none =>
    let (s, _) ← s.homeRead (line * 128) 128
    let d := s.memLine line
    let s ← s.placeReplica n line d
    pure (s, d)

/-- 64 bytes of a cached place that fill no L1 and change no clock (R143, R298): the core's own L1 copy when it may be read, else the home. -/
def State.loadQuiet (s : State) (n key : Nat) : Except Stop (State × List Byte × Nat) := do
  let c := s.coreAt n
  let (s, b) ← (match l1Find c.l1 (lineOf key) with
    | some a =>
      if a.owned ∨ c.csr.lclk ≤ a.fin then .ok (s, (List.range 64).map (fun i => getByte a.data (key % 128 + i)))
      else (s.homeRead key 64).map (fun r => (r.1, r.1.mem.readBytes key 64))
    | none => (s.homeRead key 64).map (fun r => (r.1, r.1.mem.readBytes key 64)) : Except Stop (State × List Byte))
  pure (s, (s.coreAt n).forwarded s.mem key b, 0)

/-- A mirror-hint load of another module's memory: from a replica on this module, or from the home module. A whole load asks for the line, and the
answer may place a replica (R143); a masked one asks for the bytes of its active elements alone (R292). -/
def State.mirrorAway (s : State) (n : Nat) (a : Word) (es : List Nat) (ea : Word) : Except Stop (State × List Byte × Nat) := do
  let off := a.toNat % 128
  match s.findReplica n (a.toNat / 128), (s.coreAt n).reply with
  | some r, .none =>
    if (s.coreAt n).remAsked then hold s .remote
    else pure (s.llcTouch (replicaLine r.slice r.line), (List.range 64).map (fun i => getByte r.data (off + i)), 0)
  | _, reply =>
    if es.length ≠ 16 then s.loadVec n (.remote a) es ea
    else
      match reply.at 0 128 with
      | some (.ok v) => pure (s, (v.drop off).take 64, 0)
      | some (.error page) => trapAcc s .load (awayCause .load page) (firstEa ea es)
      | none =>
        let s ← s.drain n
        askRemote s n (.loadAsk n (a - BitVec.ofNat 64 off) 128)

/-- How `vld.mh` loads a checked place: from a replica where R143 allows one; otherwise as a plain load that fills no L1 and changes no lclk
(R298), a scratchpad's mark being no exception (DESIGN CHOICE, log 81). -/
def State.mirrorLoad (s : State) (n : Nat) (ea : Word) (p : Place) (es : List Nat) : Except Stop (State × List Byte × Nat) := do
  match s.region (some n) ea, p with
  | .paged va, .cached key =>
    let (s, t) ← s.translate n va .load
    (match t with
     | some e =>
       if s.mirrors n e then do
         let (s, d) ← s.mirrorLine n (lineOf key)
         pure (s, (s.coreAt n).forwarded s.mem key ((List.range 64).map (fun i => getByte d (key % 128 + i))), 0)
       else s.loadQuiet n key
     | none => s.loadQuiet n key)
  | _, .cached key => s.loadQuiet n key
  | _, .scratch core off => .ok (s, (s.coreAt n).forwarded s.mem (kPad core off) (s.mem.readBytes (kPad core off) 64), 0)
  | _, .remote a => s.mirrorAway n a es ea
  | _, p => s.loadVec n p es ea

/-- `vld.mh` (R298): `vld` with a mirror hint. -/
def execVldMh (rd rs1 : BitVec 5) (imm : BitVec 8) (s : State) : Host.Outcome State Fault Refusal :=
  let ea := s.rx rs1 + immV imm 64
  runCore s (fun n => vectorLoad s n rd ea true (fun s p es => s.mirrorLoad n ea p es))

/-! Hints (R241, R298). -/

/-- A dropped hint counts in hintdrop, saturating (R241). -/
def State.dropHint (s : State) (n : Nat) : State :=
  s.updCore n (fun c => { c with csr := { c.csr with hintdrop := bump32 c.csr.hintdrop } })

/-- A hint: dropped and counted when a 1-byte load at ea would trap, done for a line of LPDDR or package scratchpad, else nothing. Of a place of
another module that module is asked, and the hint is counted when the answer has come (R87, R241). A walk that waits at a home holds the hint. -/
def hint (s : State) (n : Nat) (ea : Word) (act : State → Nat → State) : Except Stop State :=
  match s.check n ea 1 1 .load with
  | .error (.trap s _ _ _) => .ok (s.dropHint n).complete
  | .error (.hold s w) => hold s w
  | .ok (s, .cached key) => .ok (act s (lineOf key)).complete
  | .ok (s, .window w a) =>
    (match s.winCheck n w a 1 .load ea with
     | .error _ => .ok (s.dropHint n).complete
     | .ok _ => .ok s.complete)
  | .ok (s, .remote a) => .ok ({ s with net := { s.net with outs := s.net.outs ++ [Out.hintAsk n (s.coreAt n).task a] } }).complete
  | .ok (s, _) => .ok s.complete

/-- `pref.l1`: a fill into L1 that leaves lclk (R298). -/
def State.prefetchL1 (s : State) (n line : Nat) : State :=
  let c := s.coreAt n
  let hit := match l1Find c.l1 line with | some a => a.owned || decide (c.csr.lclk ≤ a.fin) | none => false
  if hit then s
  else (absorb (s.homeRequest n line)).updCore n (fun k => { k with csr := { k.csr with lclk := c.csr.lclk } })

/-- `pref.llc`: a fill into the home slice (R298). -/
def State.prefetchLlc (s : State) (line : Nat) : State := absorb ((s.resident line).map Prod.fst)

/-- `rsd.keep`: the home line becomes the most recently used (R298). -/
def State.keepLine (s : State) (line : Nat) : State := s.llcTouch line

/-- `rsd.drop`: the core's L1 copy leaves, written back when dirty, an owned clean one clearing OV (R133), and the home line becomes the least recently used (R298). -/
def State.dropLine (s : State) (n line : Nat) : State :=
  let c := s.coreAt n
  let s := match l1Find c.l1 line with
    | some a => (if !a.owned then s else if a.hdirty = 0#2 then s.clearOv line else s.homeTake a).updCore n (fun c => { c with l1 := l1Drop c.l1 line })
    | none => s
  match s.llcFind line with
  | some l => let s := s.llcDrop line; { s with home := { s.home with llc := s.home.llc ++ [l] } }
  | none => s

/-- `pref.l1` (R298). -/
def execPrefL1 (rs1 : BitVec 5) (imm : BitVec 8) (s : State) : Host.Outcome State Fault Refusal :=
  runCore s (fun n => hint s n (s.rx rs1 + immV imm 128) (fun s l => s.prefetchL1 n l))

/-- `pref.llc` (R298). -/
def execPrefLlc (rs1 : BitVec 5) (imm : BitVec 8) (s : State) : Host.Outcome State Fault Refusal :=
  runCore s (fun n => hint s n (s.rx rs1 + immV imm 128) (fun s l => s.prefetchLlc l))

/-- `rsd.keep` (R298). -/
def execRsdKeep (rs1 : BitVec 5) (imm : BitVec 8) (s : State) : Host.Outcome State Fault Refusal :=
  runCore s (fun n => hint s n (s.rx rs1 + immV imm 128) (fun s l => s.keepLine l))

/-- `rsd.drop` (R298). -/
def execRsdDrop (rs1 : BitVec 5) (imm : BitVec 8) (s : State) : Host.Outcome State Fault Refusal :=
  runCore s (fun n => hint s n (s.rx rs1 + immV imm 128) (fun s l => s.dropLine n l))

/-! Moves (R299). -/

/-- `vext` (R299): a lane, sign-extended. -/
def execVext (rd rs1 lane : BitVec 5) (s : State) : Host.Outcome State Fault Refusal :=
  runCore s (fun n =>
    let s := s.updCore n (fun c => c.awaitFor [rs1.toNat])
    .ok (s.setRd rd ((vlane ((s.coreAt n).rv rs1) lane.toNat).signExtend 64)))

/-- `vins` (R299): one lane, whatever vmsel selects. -/
def execVins (rd rs1 lane : BitVec 5) (s : State) : Host.Outcome State Fault Refusal :=
  runCore s (fun n =>
    let s := s.updCore n (fun c => c.awaitFor [rd.toNat])
    .ok (s.putVector n rd 32 [(lane.toNat, (s.rx rs1).toNat)]).complete)

/-- `vsplat` (R299): every active lane. -/
def execVsplat (rd rs1 : BitVec 5) (s : State) : Host.Outcome State Fault Refusal :=
  runCore s (fun n =>
    let s := s.awaitMasked n [rd.toNat]
    .ok (s.putVector n rd 32 (((s.coreAt n).actives 16).map (fun e => (e, (s.rx rs1).toNat)))).complete)

/-- `mtox` (R299). -/
def execMtox (rd rs1 : BitVec 5) (s : State) : Host.Outcome State Fault Refusal :=
  runCore s (fun n =>
    let s := s.updCore n (fun c => c.awaitFor [32 + rs1.toNat])
    .ok (s.setRd rd ((s.coreAt n).rm rs1.toNat)))

/-- `xtom` (R299): all 64 bits. -/
def execXtom (rd rs1 : BitVec 5) (s : State) : Host.Outcome State Fault Refusal :=
  runCore s (fun n =>
    let s := s.updCore n (fun c => c.awaitFor [32 + rd.toNat])
    .ok (s.updCore n (fun c => c.wm rd.toNat (s.rx rs1))).complete)

/-- The number of 1 bits of a word. -/
def ones (w : Word) : Nat := ((List.range 64).filter (fun i => w.getLsbD i)).length

/-- `mpopc` (R299). -/
def execMpopc (rd rs1 : BitVec 5) (s : State) : Host.Outcome State Fault Refusal :=
  runCore s (fun n =>
    let s := s.updCore n (fun c => c.awaitFor [32 + rs1.toNat])
    .ok (s.setRd rd (BitVec.ofNat 64 (ones ((s.coreAt n).rm rs1.toNat)))))

/-! Window entries (R98). -/

/-- `wcfg` (R98): reserved bits and an inconsistent valid entry raise cause 28. Earlier window stores are performed first. -/
def execWcfg (rs1 win : BitVec 5) (s : State) : Host.Outcome State Fault Refusal :=
  runCore s (fun n =>
    let e := s.rx rs1
    if e.extractLsb' 60 3 ≠ 0#3 ∨ e.extractLsb' 50 3 ≠ 0#3 ∨ (winV e ∧ !winConsistent e) then
      trap s 28 (0x22010000000#64 + BitVec.ofNat 64 (win.toNat * 0x1000000))
    else do
      let s ← s.drain n
      pure (s.updCore n (fun c => { c with win := c.win.setIfInBounds win.toNat e })).complete)

/-- `wrd` (R98), after earlier window stores are performed. -/
def execWrd (rd win : BitVec 5) (s : State) : Host.Outcome State Fault Refusal :=
  runCore s (fun n => do
    let s ← s.drain n
    pure (s.setRd rd ((s.coreAt n).win.getD win.toNat 0#64)))

end Sys2Proof.Machine
end

