-- ==== Sys2Proof/Machine/Dispatch.lean ====
section
/-! DEFINITION. Which meaning each constructor of Instr has: one arm each, and nothing else. -/

namespace Sys2Proof.Machine

/-- The meaning of an instruction or event. -/
def exec (i : Instr) (s : State) : Host.Outcome State Fault Refusal :=
  match i with
  | .lui rd imm => Sys2Proof.Machine.execLui rd imm s
  | .auipc rd imm => Sys2Proof.Machine.execAuipc rd imm s
  | .jal rd imm => Sys2Proof.Machine.execJal rd imm s
  | .jalr rd rs1 imm => Sys2Proof.Machine.execJalr rd rs1 imm s
  | .beq rs1 rs2 immHi immLo => Sys2Proof.Machine.execBeq rs1 rs2 immHi immLo s
  | .bne rs1 rs2 immHi immLo => Sys2Proof.Machine.execBne rs1 rs2 immHi immLo s
  | .blt rs1 rs2 immHi immLo => Sys2Proof.Machine.execBlt rs1 rs2 immHi immLo s
  | .bge rs1 rs2 immHi immLo => Sys2Proof.Machine.execBge rs1 rs2 immHi immLo s
  | .bltu rs1 rs2 immHi immLo => Sys2Proof.Machine.execBltu rs1 rs2 immHi immLo s
  | .bgeu rs1 rs2 immHi immLo => Sys2Proof.Machine.execBgeu rs1 rs2 immHi immLo s
  | .lb rd rs1 imm => Sys2Proof.Machine.execLb rd rs1 imm s
  | .lh rd rs1 imm => Sys2Proof.Machine.execLh rd rs1 imm s
  | .lw rd rs1 imm => Sys2Proof.Machine.execLw rd rs1 imm s
  | .ld rd rs1 imm => Sys2Proof.Machine.execLd rd rs1 imm s
  | .lbu rd rs1 imm => Sys2Proof.Machine.execLbu rd rs1 imm s
  | .lhu rd rs1 imm => Sys2Proof.Machine.execLhu rd rs1 imm s
  | .lwu rd rs1 imm => Sys2Proof.Machine.execLwu rd rs1 imm s
  | .sb rs1 rs2 immHi immLo => Sys2Proof.Machine.execSb rs1 rs2 immHi immLo s
  | .sh rs1 rs2 immHi immLo => Sys2Proof.Machine.execSh rs1 rs2 immHi immLo s
  | .sw rs1 rs2 immHi immLo => Sys2Proof.Machine.execSw rs1 rs2 immHi immLo s
  | .sd rs1 rs2 immHi immLo => Sys2Proof.Machine.execSd rs1 rs2 immHi immLo s
  | .addi rd rs1 imm => Sys2Proof.Machine.execAddi rd rs1 imm s
  | .slti rd rs1 imm => Sys2Proof.Machine.execSlti rd rs1 imm s
  | .sltiu rd rs1 imm => Sys2Proof.Machine.execSltiu rd rs1 imm s
  | .xori rd rs1 imm => Sys2Proof.Machine.execXori rd rs1 imm s
  | .ori rd rs1 imm => Sys2Proof.Machine.execOri rd rs1 imm s
  | .andi rd rs1 imm => Sys2Proof.Machine.execAndi rd rs1 imm s
  | .slli rd rs1 sh => Sys2Proof.Machine.execSlli rd rs1 sh s
  | .srli rd rs1 sh => Sys2Proof.Machine.execSrli rd rs1 sh s
  | .srai rd rs1 sh => Sys2Proof.Machine.execSrai rd rs1 sh s
  | .add rd rs1 rs2 => Sys2Proof.Machine.execAdd rd rs1 rs2 s
  | .sub rd rs1 rs2 => Sys2Proof.Machine.execSub rd rs1 rs2 s
  | .sll rd rs1 rs2 => Sys2Proof.Machine.execSll rd rs1 rs2 s
  | .slt rd rs1 rs2 => Sys2Proof.Machine.execSlt rd rs1 rs2 s
  | .sltu rd rs1 rs2 => Sys2Proof.Machine.execSltu rd rs1 rs2 s
  | .xor rd rs1 rs2 => Sys2Proof.Machine.execXor rd rs1 rs2 s
  | .srl rd rs1 rs2 => Sys2Proof.Machine.execSrl rd rs1 rs2 s
  | .sra rd rs1 rs2 => Sys2Proof.Machine.execSra rd rs1 rs2 s
  | .or rd rs1 rs2 => Sys2Proof.Machine.execOr rd rs1 rs2 s
  | .and rd rs1 rs2 => Sys2Proof.Machine.execAnd rd rs1 rs2 s
  | .addiw rd rs1 imm => Sys2Proof.Machine.execAddiw rd rs1 imm s
  | .slliw rd rs1 sh => Sys2Proof.Machine.execSlliw rd rs1 sh s
  | .srliw rd rs1 sh => Sys2Proof.Machine.execSrliw rd rs1 sh s
  | .sraiw rd rs1 sh => Sys2Proof.Machine.execSraiw rd rs1 sh s
  | .addw rd rs1 rs2 => Sys2Proof.Machine.execAddw rd rs1 rs2 s
  | .subw rd rs1 rs2 => Sys2Proof.Machine.execSubw rd rs1 rs2 s
  | .sllw rd rs1 rs2 => Sys2Proof.Machine.execSllw rd rs1 rs2 s
  | .srlw rd rs1 rs2 => Sys2Proof.Machine.execSrlw rd rs1 rs2 s
  | .sraw rd rs1 rs2 => Sys2Proof.Machine.execSraw rd rs1 rs2 s
  | .mul rd rs1 rs2 => Sys2Proof.Machine.execMul rd rs1 rs2 s
  | .mulh rd rs1 rs2 => Sys2Proof.Machine.execMulh rd rs1 rs2 s
  | .mulhsu rd rs1 rs2 => Sys2Proof.Machine.execMulhsu rd rs1 rs2 s
  | .mulhu rd rs1 rs2 => Sys2Proof.Machine.execMulhu rd rs1 rs2 s
  | .div rd rs1 rs2 => Sys2Proof.Machine.execDiv rd rs1 rs2 s
  | .divu rd rs1 rs2 => Sys2Proof.Machine.execDivu rd rs1 rs2 s
  | .rem rd rs1 rs2 => Sys2Proof.Machine.execRem rd rs1 rs2 s
  | .remu rd rs1 rs2 => Sys2Proof.Machine.execRemu rd rs1 rs2 s
  | .mulw rd rs1 rs2 => Sys2Proof.Machine.execMulw rd rs1 rs2 s
  | .divw rd rs1 rs2 => Sys2Proof.Machine.execDivw rd rs1 rs2 s
  | .divuw rd rs1 rs2 => Sys2Proof.Machine.execDivuw rd rs1 rs2 s
  | .remw rd rs1 rs2 => Sys2Proof.Machine.execRemw rd rs1 rs2 s
  | .remuw rd rs1 rs2 => Sys2Proof.Machine.execRemuw rd rs1 rs2 s
  | .fence rd rs1 fm pred succ => Sys2Proof.Machine.execFence rd rs1 fm pred succ s
  | .csrrw rd rs1 csr => Sys2Proof.Machine.execCsrrw rd rs1 csr s
  | .csrrs rd rs1 csr => Sys2Proof.Machine.execCsrrs rd rs1 csr s
  | .csrrc rd rs1 csr => Sys2Proof.Machine.execCsrrc rd rs1 csr s
  | .csrrwi rd csr uimm => Sys2Proof.Machine.execCsrrwi rd csr uimm s
  | .csrrsi rd csr uimm => Sys2Proof.Machine.execCsrrsi rd csr uimm s
  | .csrrci rd csr uimm => Sys2Proof.Machine.execCsrrci rd csr uimm s
  | .ecall => Sys2Proof.Machine.execEcall s
  | .ebreak => Sys2Proof.Machine.execEbreak s
  | .sret => Sys2Proof.Machine.execSret s
  | .wfi => Sys2Proof.Machine.execWfi s
  | .vaddI32 rd rs1 rs2 stall => Sys2Proof.Machine.execVaddI32 rd rs1 rs2 stall s
  | .vsubI32 rd rs1 rs2 stall => Sys2Proof.Machine.execVsubI32 rd rs1 rs2 stall s
  | .vmulI32 rd rs1 rs2 stall => Sys2Proof.Machine.execVmulI32 rd rs1 rs2 stall s
  | .vmulhI32 rd rs1 rs2 stall => Sys2Proof.Machine.execVmulhI32 rd rs1 rs2 stall s
  | .vminI32 rd rs1 rs2 stall => Sys2Proof.Machine.execVminI32 rd rs1 rs2 stall s
  | .vmaxI32 rd rs1 rs2 stall => Sys2Proof.Machine.execVmaxI32 rd rs1 rs2 stall s
  | .vminuI32 rd rs1 rs2 stall => Sys2Proof.Machine.execVminuI32 rd rs1 rs2 stall s
  | .vmaxuI32 rd rs1 rs2 stall => Sys2Proof.Machine.execVmaxuI32 rd rs1 rs2 stall s
  | .vand rd rs1 rs2 stall => Sys2Proof.Machine.execVand rd rs1 rs2 stall s
  | .vor rd rs1 rs2 stall => Sys2Proof.Machine.execVor rd rs1 rs2 stall s
  | .vxor rd rs1 rs2 stall => Sys2Proof.Machine.execVxor rd rs1 rs2 stall s
  | .vsllI32 rd rs1 rs2 stall => Sys2Proof.Machine.execVsllI32 rd rs1 rs2 stall s
  | .vsrlI32 rd rs1 rs2 stall => Sys2Proof.Machine.execVsrlI32 rd rs1 rs2 stall s
  | .vsraI32 rd rs1 rs2 stall => Sys2Proof.Machine.execVsraI32 rd rs1 rs2 stall s
  | .vaddsI32 rd rs1 rs2 stall => Sys2Proof.Machine.execVaddsI32 rd rs1 rs2 stall s
  | .vmacI32 rd rs1 rs2 stall => Sys2Proof.Machine.execVmacI32 rd rs1 rs2 stall s
  | .vaddI16 rd rs1 rs2 stall => Sys2Proof.Machine.execVaddI16 rd rs1 rs2 stall s
  | .vsubI16 rd rs1 rs2 stall => Sys2Proof.Machine.execVsubI16 rd rs1 rs2 stall s
  | .vaddsI16 rd rs1 rs2 stall => Sys2Proof.Machine.execVaddsI16 rd rs1 rs2 stall s
  | .vsubsI16 rd rs1 rs2 stall => Sys2Proof.Machine.execVsubsI16 rd rs1 rs2 stall s
  | .vaddusI16 rd rs1 rs2 stall => Sys2Proof.Machine.execVaddusI16 rd rs1 rs2 stall s
  | .vminI16 rd rs1 rs2 stall => Sys2Proof.Machine.execVminI16 rd rs1 rs2 stall s
  | .vmaxI16 rd rs1 rs2 stall => Sys2Proof.Machine.execVmaxI16 rd rs1 rs2 stall s
  | .vmulI16 rd rs1 rs2 stall => Sys2Proof.Machine.execVmulI16 rd rs1 rs2 stall s
  | .vaddI8 rd rs1 rs2 stall => Sys2Proof.Machine.execVaddI8 rd rs1 rs2 stall s
  | .vsubI8 rd rs1 rs2 stall => Sys2Proof.Machine.execVsubI8 rd rs1 rs2 stall s
  | .vaddsI8 rd rs1 rs2 stall => Sys2Proof.Machine.execVaddsI8 rd rs1 rs2 stall s
  | .vsubsI8 rd rs1 rs2 stall => Sys2Proof.Machine.execVsubsI8 rd rs1 rs2 stall s
  | .vaddusI8 rd rs1 rs2 stall => Sys2Proof.Machine.execVaddusI8 rd rs1 rs2 stall s
  | .vminI8 rd rs1 rs2 stall => Sys2Proof.Machine.execVminI8 rd rs1 rs2 stall s
  | .vmaxI8 rd rs1 rs2 stall => Sys2Proof.Machine.execVmaxI8 rd rs1 rs2 stall s
  | .vmulI8 rd rs1 rs2 stall => Sys2Proof.Machine.execVmulI8 rd rs1 rs2 stall s
  | .vfaddF32 rd rs1 rs2 stall => Sys2Proof.Machine.execVfaddF32 rd rs1 rs2 stall s
  | .vfsubF32 rd rs1 rs2 stall => Sys2Proof.Machine.execVfsubF32 rd rs1 rs2 stall s
  | .vfmulF32 rd rs1 rs2 stall => Sys2Proof.Machine.execVfmulF32 rd rs1 rs2 stall s
  | .vfminF32 rd rs1 rs2 stall => Sys2Proof.Machine.execVfminF32 rd rs1 rs2 stall s
  | .vfmaxF32 rd rs1 rs2 stall => Sys2Proof.Machine.execVfmaxF32 rd rs1 rs2 stall s
  | .vfmaF32 rd rs1 rs2 stall => Sys2Proof.Machine.execVfmaF32 rd rs1 rs2 stall s
  | .vfmsF32 rd rs1 rs2 stall => Sys2Proof.Machine.execVfmsF32 rd rs1 rs2 stall s
  | .vfabsF32 rd rs1 stall => Sys2Proof.Machine.execVfabsF32 rd rs1 stall s
  | .vfnegF32 rd rs1 stall => Sys2Proof.Machine.execVfnegF32 rd rs1 stall s
  | .vfaddBf16 rd rs1 rs2 stall => Sys2Proof.Machine.execVfaddBf16 rd rs1 rs2 stall s
  | .vfsubBf16 rd rs1 rs2 stall => Sys2Proof.Machine.execVfsubBf16 rd rs1 rs2 stall s
  | .vfmulBf16 rd rs1 rs2 stall => Sys2Proof.Machine.execVfmulBf16 rd rs1 rs2 stall s
  | .vfminBf16 rd rs1 rs2 stall => Sys2Proof.Machine.execVfminBf16 rd rs1 rs2 stall s
  | .vfmaxBf16 rd rs1 rs2 stall => Sys2Proof.Machine.execVfmaxBf16 rd rs1 rs2 stall s
  | .vfmaBf16 rd rs1 rs2 stall => Sys2Proof.Machine.execVfmaBf16 rd rs1 rs2 stall s
  | .vdotBf16 rd rs1 rs2 stall => Sys2Proof.Machine.execVdotBf16 rd rs1 rs2 stall s
  | .vfaddF16 rd rs1 rs2 stall => Sys2Proof.Machine.execVfaddF16 rd rs1 rs2 stall s
  | .vfsubF16 rd rs1 rs2 stall => Sys2Proof.Machine.execVfsubF16 rd rs1 rs2 stall s
  | .vfmulF16 rd rs1 rs2 stall => Sys2Proof.Machine.execVfmulF16 rd rs1 rs2 stall s
  | .vfminF16 rd rs1 rs2 stall => Sys2Proof.Machine.execVfminF16 rd rs1 rs2 stall s
  | .vfmaxF16 rd rs1 rs2 stall => Sys2Proof.Machine.execVfmaxF16 rd rs1 rs2 stall s
  | .vfmaF16 rd rs1 rs2 stall => Sys2Proof.Machine.execVfmaF16 rd rs1 rs2 stall s
  | .vdotF16 rd rs1 rs2 stall => Sys2Proof.Machine.execVdotF16 rd rs1 rs2 stall s
  | .vcmpeqI32 rd rs1 rs2 stall => Sys2Proof.Machine.execVcmpeqI32 rd rs1 rs2 stall s
  | .vcmpltI32 rd rs1 rs2 stall => Sys2Proof.Machine.execVcmpltI32 rd rs1 rs2 stall s
  | .vcmpltuI32 rd rs1 rs2 stall => Sys2Proof.Machine.execVcmpltuI32 rd rs1 rs2 stall s
  | .vfcmpeqF32 rd rs1 rs2 stall => Sys2Proof.Machine.execVfcmpeqF32 rd rs1 rs2 stall s
  | .vfcmpltF32 rd rs1 rs2 stall => Sys2Proof.Machine.execVfcmpltF32 rd rs1 rs2 stall s
  | .vfcmpleF32 rd rs1 rs2 stall => Sys2Proof.Machine.execVfcmpleF32 rd rs1 rs2 stall s
  | .vfclassF32 rd rs1 set stall => Sys2Proof.Machine.execVfclassF32 rd rs1 set stall s
  | .mand rd rs1 rs2 stall => Sys2Proof.Machine.execMand rd rs1 rs2 stall s
  | .mor rd rs1 rs2 stall => Sys2Proof.Machine.execMor rd rs1 rs2 stall s
  | .mxor rd rs1 rs2 stall => Sys2Proof.Machine.execMxor rd rs1 rs2 stall s
  | .mandn rd rs1 rs2 stall => Sys2Proof.Machine.execMandn rd rs1 rs2 stall s
  | .vperm rd rs1 rs2 stall => Sys2Proof.Machine.execVperm rd rs1 rs2 stall s
  | .vrot rd rs1 n stall => Sys2Proof.Machine.execVrot rd rs1 n stall s
  | .vmerge rd rs1 rs2 stall => Sys2Proof.Machine.execVmerge rd rs1 rs2 stall s
  | .vbcast rd rs1 n stall => Sys2Proof.Machine.execVbcast rd rs1 n stall s
  | .vredsumI32 rd rs1 stall => Sys2Proof.Machine.execVredsumI32 rd rs1 stall s
  | .vredmaxI32 rd rs1 stall => Sys2Proof.Machine.execVredmaxI32 rd rs1 stall s
  | .vredminI32 rd rs1 stall => Sys2Proof.Machine.execVredminI32 rd rs1 stall s
  | .vredsumF32 rd rs1 stall => Sys2Proof.Machine.execVredsumF32 rd rs1 stall s
  | .vredmaxF32 rd rs1 stall => Sys2Proof.Machine.execVredmaxF32 rd rs1 stall s
  | .vredminF32 rd rs1 stall => Sys2Proof.Machine.execVredminF32 rd rs1 stall s
  | .vscanI32 rd rs1 stall => Sys2Proof.Machine.execVscanI32 rd rs1 stall s
  | .vscanF32 rd rs1 stall => Sys2Proof.Machine.execVscanF32 rd rs1 stall s
  | .vcvtBf16F32 rd rs1 part em stall => Sys2Proof.Machine.execVcvtBf16F32 rd rs1 part em stall s
  | .vcvtF16F32 rd rs1 part em stall => Sys2Proof.Machine.execVcvtF16F32 rd rs1 part em stall s
  | .vcvtE4m3F32 rd rs1 part em stall => Sys2Proof.Machine.execVcvtE4m3F32 rd rs1 part em stall s
  | .vcvtE5m2F32 rd rs1 part em stall => Sys2Proof.Machine.execVcvtE5m2F32 rd rs1 part em stall s
  | .vcvtI8F32 rd rs1 part em stall => Sys2Proof.Machine.execVcvtI8F32 rd rs1 part em stall s
  | .vcvtI32F32 rd rs1 part em stall => Sys2Proof.Machine.execVcvtI32F32 rd rs1 part em stall s
  | .vcvtI8I32 rd rs1 part em stall => Sys2Proof.Machine.execVcvtI8I32 rd rs1 part em stall s
  | .vcvtF32I32 rd rs1 part em stall => Sys2Proof.Machine.execVcvtF32I32 rd rs1 part em stall s
  | .vcvtF32Bf16 rd rs1 part em stall => Sys2Proof.Machine.execVcvtF32Bf16 rd rs1 part em stall s
  | .vcvtF32F16 rd rs1 part em stall => Sys2Proof.Machine.execVcvtF32F16 rd rs1 part em stall s
  | .vcvtF32E4m3 rd rs1 part em stall => Sys2Proof.Machine.execVcvtF32E4m3 rd rs1 part em stall s
  | .vcvtF32E5m2 rd rs1 part em stall => Sys2Proof.Machine.execVcvtF32E5m2 rd rs1 part em stall s
  | .vcvtI32I8 rd rs1 part em stall => Sys2Proof.Machine.execVcvtI32I8 rd rs1 part em stall s
  | .vrep rs1 len stp smask stall => Sys2Proof.Machine.execVrep rs1 len stp smask stall s
  | .vzero rd stall => Sys2Proof.Machine.execVzero rd stall s
  | .vid rd stall => Sys2Proof.Machine.execVid rd stall s
  | .vld rd rs1 imm => Sys2Proof.Machine.execVld rd rs1 imm s
  | .vldBc rd rs1 imm => Sys2Proof.Machine.execVldBc rd rs1 imm s
  | .vst rd rs1 imm => Sys2Proof.Machine.execVst rd rs1 imm s
  | .vgather rd rs1 rs2 aux => Sys2Proof.Machine.execVgather rd rs1 rs2 aux s
  | .vscatter rd rs1 rs2 aux => Sys2Proof.Machine.execVscatter rd rs1 rs2 aux s
  | .vlsl rd rs1 imm => Sys2Proof.Machine.execVlsl rd rs1 imm s
  | .vsls rd rs1 imm => Sys2Proof.Machine.execVsls rd rs1 imm s
  | .vlslx rd rs1 rs2 => Sys2Proof.Machine.execVlslx rd rs1 rs2 s
  | .vslsx rd rs1 rs2 => Sys2Proof.Machine.execVslsx rd rs1 rs2 s
  | .vldMh rd rs1 imm => Sys2Proof.Machine.execVldMh rd rs1 imm s
  | .prefL1 rs1 imm => Sys2Proof.Machine.execPrefL1 rs1 imm s
  | .prefLlc rs1 imm => Sys2Proof.Machine.execPrefLlc rs1 imm s
  | .rsdKeep rs1 imm => Sys2Proof.Machine.execRsdKeep rs1 imm s
  | .rsdDrop rs1 imm => Sys2Proof.Machine.execRsdDrop rs1 imm s
  | .vext rd rs1 lane => Sys2Proof.Machine.execVext rd rs1 lane s
  | .vins rd rs1 lane => Sys2Proof.Machine.execVins rd rs1 lane s
  | .vsplat rd rs1 => Sys2Proof.Machine.execVsplat rd rs1 s
  | .mtox rd rs1 => Sys2Proof.Machine.execMtox rd rs1 s
  | .xtom rd rs1 => Sys2Proof.Machine.execXtom rd rs1 s
  | .mpopc rd rs1 => Sys2Proof.Machine.execMpopc rd rs1 s
  | .wcfg rs1 win => Sys2Proof.Machine.execWcfg rs1 win s
  | .wrd rd win => Sys2Proof.Machine.execWrd rd win s
  | .mlease rd => Sys2Proof.Machine.execMlease rd s
  | .mleaseTry rd => Sys2Proof.Machine.execMleaseTry rd s
  | .mrel => Sys2Proof.Machine.execMrel s
  | .mma rs1 rs2 ka fmt acc km1 => Sys2Proof.Machine.execMma rs1 rs2 ka fmt acc km1 s
  | .maccSt rs1 rs2 sfmt dfmt acc => Sys2Proof.Machine.execMaccSt rs1 rs2 sfmt dfmt acc s
  | .maccClr acc => Sys2Proof.Machine.execMaccClr acc s
  | .maccLd rs1 rs2 acc => Sys2Proof.Machine.execMaccLd rs1 rs2 acc s
  | .rcfg rd rs1 rs2 => Sys2Proof.Machine.execRcfg rd rs1 rs2 s
  | .rrel rd => Sys2Proof.Machine.execRrel rd s
  | .rstat rd rs1 => Sys2Proof.Machine.execRstat rd rs1 s
  | .rpeek rd rs1 rs2 => Sys2Proof.Machine.execRpeek rd rs1 rs2 s
  | .rpop rs1 => Sys2Proof.Machine.execRpop rs1 s
  | .mstat rd acc => Sys2Proof.Machine.execMstat rd acc s
  | .mstatClr rd acc => Sys2Proof.Machine.execMstatClr rd acc s
  | .mprog rd acc => Sys2Proof.Machine.execMprog rd acc s
  | .mprogClr acc => Sys2Proof.Machine.execMprogClr acc s
  | .gredF32 rs1 acc => Sys2Proof.Machine.execGredF32 rs1 acc s
  | .gredI32 rs1 acc => Sys2Proof.Machine.execGredI32 rs1 acc s
  | .amoSwapD rd rs1 rs2 so => Sys2Proof.Machine.execAmoSwapD rd rs1 rs2 so s
  | .amoAddD rd rs1 rs2 so => Sys2Proof.Machine.execAmoAddD rd rs1 rs2 so s
  | .amoAndD rd rs1 rs2 so => Sys2Proof.Machine.execAmoAndD rd rs1 rs2 so s
  | .amoOrD rd rs1 rs2 so => Sys2Proof.Machine.execAmoOrD rd rs1 rs2 so s
  | .amoMaxD rd rs1 rs2 so => Sys2Proof.Machine.execAmoMaxD rd rs1 rs2 so s
  | .amoMaxuD rd rs1 rs2 so => Sys2Proof.Machine.execAmoMaxuD rd rs1 rs2 so s
  | .amoCasD rd rs1 rs2 so => Sys2Proof.Machine.execAmoCasD rd rs1 rs2 so s
  | .amoAggaddD rd rs1 rs2 so => Sys2Proof.Machine.execAmoAggaddD rd rs1 rs2 so s
  | .amoSwapW rd rs1 rs2 so => Sys2Proof.Machine.execAmoSwapW rd rs1 rs2 so s
  | .amoAddW rd rs1 rs2 so => Sys2Proof.Machine.execAmoAddW rd rs1 rs2 so s
  | .amoAndW rd rs1 rs2 so => Sys2Proof.Machine.execAmoAndW rd rs1 rs2 so s
  | .amoOrW rd rs1 rs2 so => Sys2Proof.Machine.execAmoOrW rd rs1 rs2 so s
  | .amoMaxW rd rs1 rs2 so => Sys2Proof.Machine.execAmoMaxW rd rs1 rs2 so s
  | .amoMaxuW rd rs1 rs2 so => Sys2Proof.Machine.execAmoMaxuW rd rs1 rs2 so s
  | .amoCasW rd rs1 rs2 so => Sys2Proof.Machine.execAmoCasW rd rs1 rs2 so s
  | .amoAggaddW rd rs1 rs2 so => Sys2Proof.Machine.execAmoAggaddW rd rs1 rs2 so s
  | .fenceR scope => Sys2Proof.Machine.execFenceR scope s
  | .fenceA scope => Sys2Proof.Machine.execFenceA scope s
  | .fenceS scope => Sys2Proof.Machine.execFenceS scope s
  | .fenceOwn => Sys2Proof.Machine.execFenceOwn s
  | .fenceFar rs1 rs2 => Sys2Proof.Machine.execFenceFar rs1 rs2 s
  | .waitaEqW rd rs1 rs2 => Sys2Proof.Machine.execWaitaEqW rd rs1 rs2 s
  | .waitaNeW rd rs1 rs2 => Sys2Proof.Machine.execWaitaNeW rd rs1 rs2 s
  | .waitaEqD rd rs1 rs2 => Sys2Proof.Machine.execWaitaEqD rd rs1 rs2 s
  | .waitaNeD rd rs1 rs2 => Sys2Proof.Machine.execWaitaNeD rd rs1 rs2 s
  | .wfe => Sys2Proof.Machine.execWfe s
  | .sev rs1 => Sys2Proof.Machine.execSev rs1 s
  | .rbcfg rs1 num => Sys2Proof.Machine.execRbcfg rs1 num s
  | .msgSend rs1 rs2 => Sys2Proof.Machine.execMsgSend rs1 rs2 s
  | .msgWait rd rs1 num => Sys2Proof.Machine.execMsgWait rd rs1 num s
  | .bcfg rs1 bar => Sys2Proof.Machine.execBcfg rs1 bar s
  | .barrTeam rd bar => Sys2Proof.Machine.execBarrTeam rd bar s
  | .barrField rd bar => Sys2Proof.Machine.execBarrField rd bar s
  | .bwait rs1 bar => Sys2Proof.Machine.execBwait rs1 bar s
  | .bstat rd bar => Sys2Proof.Machine.execBstat rd bar s
  | .epush rs1 eng => Sys2Proof.Machine.execEpush rs1 eng s
  | .epop rd rs1 => Sys2Proof.Machine.execEpop rd rs1 s
  | .spush rs1 => Sys2Proof.Machine.execSpush rs1 s
  | .spop rd rs1 => Sys2Proof.Machine.execSpop rd rs1 s
  | .seal rd rs1 rs2 => Sys2Proof.Machine.execSeal rd rs1 rs2 s
  | .unseal rs1 => Sys2Proof.Machine.execUnseal rs1 s
  | .sealrd rd rs1 => Sys2Proof.Machine.execSealrd rd rs1 s
  | .sweep rd rs1 => Sys2Proof.Machine.execSweep rd rs1 s
  | .swake rs1 rs2 => Sys2Proof.Machine.execSwake rs1 rs2 s
  | .cld rd fld => Sys2Proof.Machine.execCld rd fld s
  | .nld rd fld => Sys2Proof.Machine.execNld rd fld s
  | .cst rs1 fld => Sys2Proof.Machine.execCst rs1 fld s
  | .semit rs1 => Sys2Proof.Machine.execSemit rs1 s
  | .swaitStep => Sys2Proof.Machine.execSwaitStep s
  | .swaitNb => Sys2Proof.Machine.execSwaitNb s
  | .swaitCnt rs1 => Sys2Proof.Machine.execSwaitCnt rs1 s
  | .swaitKey rs1 => Sys2Proof.Machine.execSwaitKey rs1 s
  | .sdone => Sys2Proof.Machine.execSdone s
  | .ckptStep => Sys2Proof.Machine.execCkptStep s
  | .yieldSlot rs1 => Sys2Proof.Machine.execYieldSlot rs1 s
  | .rebuild rd rs1 => Sys2Proof.Machine.execRebuild rd rs1 s
  | .wsw rs1 => Sys2Proof.Machine.execWsw rs1 s
  | .dsw rs1 => Sys2Proof.Machine.execDsw rs1 s
  | .follow rs1 rs2 => Sys2Proof.Machine.execFollow rs1 rs2 s
  | .dbgStepdrain rs1 rs2 => Sys2Proof.Machine.execDbgStepdrain rs1 rs2 s
  | .voteAnd rd rs1 => Sys2Proof.Machine.execVoteAnd rd rs1 s
  | .voteOr rd rs1 => Sys2Proof.Machine.execVoteOr rd rs1 s
  | .voteMax rd rs1 => Sys2Proof.Machine.execVoteMax rd rs1 s
  | .voteSum rd rs1 => Sys2Proof.Machine.execVoteSum rd rs1 s
  | .voteAndP rd rs1 => Sys2Proof.Machine.execVoteAndP rd rs1 s
  | .voteOrP rd rs1 => Sys2Proof.Machine.execVoteOrP rd rs1 s
  | .voteMaxP rd rs1 => Sys2Proof.Machine.execVoteMaxP rd rs1 s
  | .voteSumP rd rs1 => Sys2Proof.Machine.execVoteSumP rd rs1 s
  | .launchLanding slot seq => Sys2Proof.Machine.execLaunchLanding slot seq s
  | .launchParse => Sys2Proof.Machine.execLaunchParse s
  | .launchCompletion jseq => Sys2Proof.Machine.execLaunchCompletion jseq s
  | .fieldPlacement jseq stage => Sys2Proof.Machine.execFieldPlacement jseq stage s
  | .taskLoad core => Sys2Proof.Machine.execTaskLoad core s
  | .powerGate cluster => Sys2Proof.Machine.execPowerGate cluster s
  | .clusterWake cluster => Sys2Proof.Machine.execClusterWake cluster s
  | .selfTick => Sys2Proof.Machine.execSelfTick s
  | .rebase => Sys2Proof.Machine.execRebase s
  | .slotEdge => Sys2Proof.Machine.execSlotEdge s
  | .drainEnd => Sys2Proof.Machine.execDrainEnd s
  | .slotOverrun => Sys2Proof.Machine.execSlotOverrun s
  | .checkpointEnd ten good => Sys2Proof.Machine.execCheckpointEnd ten good s
  | .quiescence ten => Sys2Proof.Machine.execQuiescence ten s
  | .leaseRevocation cluster => Sys2Proof.Machine.execLeaseRevocation cluster s
  | .watchdogFreeze core => Sys2Proof.Machine.execWatchdogFreeze core s
  | .directoryMerge base sz => Sys2Proof.Machine.execDirectoryMerge base sz s
  | .atomicopCompletion core status => Sys2Proof.Machine.execAtomicopCompletion core status s
  | .atomicopTimeout core => Sys2Proof.Machine.execAtomicopTimeout core s
  | .patrolPass llc => Sys2Proof.Machine.execPatrolPass llc s
  | .throttle cycles => Sys2Proof.Machine.execThrottle cycles s
  | .moduleReset => Sys2Proof.Machine.execModuleReset s
  | .homeRequest core line => Sys2Proof.Machine.execHomeRequest core line s
  | .ownershipRequest core line => Sys2Proof.Machine.execOwnershipRequest core line s
  | .ownerRecall line => Sys2Proof.Machine.execOwnerRecall line s
  | .ownerRecallAnswer line core inc => Sys2Proof.Machine.execOwnerRecallAnswer line core inc s
  | .storePerform core => Sys2Proof.Machine.execStorePerform core s
  | .evictionWriteBackRequest core line => Sys2Proof.Machine.execEvictionWriteBackRequest core line s
  | .writeBackGrant core line => Sys2Proof.Machine.execWriteBackGrant core line s
  | .writeBackData core line inc => Sys2Proof.Machine.execWriteBackData core line inc s
  | .cleanOwnedNotice core line => Sys2Proof.Machine.execCleanOwnedNotice core line s
  | .homeWrite agent key data => Sys2Proof.Machine.execHomeWrite agent key data s
  | .engineHomeRead agent key n => Sys2Proof.Machine.execEngineHomeRead agent key n s
  | .waiterWake line => Sys2Proof.Machine.execWaiterWake line s
  | .hostRequest agent line half want => Sys2Proof.Machine.execHostRequest agent line half want s
  | .hostAtomicop key n op operand comparand => Sys2Proof.Machine.execHostAtomicop key n op operand comparand s
  | .pageWalk core va kind => Sys2Proof.Machine.execPageWalk core va kind s
  | .translationInvalidateRange => Sys2Proof.Machine.execTranslationInvalidateRange s
  | .translationInvalidateTenant => Sys2Proof.Machine.execTranslationInvalidateTenant s
  | .setGranuleOwner => Sys2Proof.Machine.execSetGranuleOwner s
  | .checkpointRestore => Sys2Proof.Machine.execCheckpointRestore s
  | .checkpointTake => Sys2Proof.Machine.execCheckpointTake s
  | .firmwareUpdate => Sys2Proof.Machine.execFirmwareUpdate s
  | .decodeTableInstall => Sys2Proof.Machine.execDecodeTableInstall s
  | .decodeTableRemove => Sys2Proof.Machine.execDecodeTableRemove s
  | .capsuleInstall => Sys2Proof.Machine.execCapsuleInstall s
  | .capsuleDelete => Sys2Proof.Machine.execCapsuleDelete s
  | .capsuleRebuild => Sys2Proof.Machine.execCapsuleRebuild s
  | .firstUseRebuild core => Sys2Proof.Machine.execFirstUseRebuild core s
  | .rebuildEnd caps => Sys2Proof.Machine.execRebuildEnd caps s
  | .slotTableShadowWrite entry value => Sys2Proof.Machine.execSlotTableShadowWrite entry value s
  | .slotControlWrite value => Sys2Proof.Machine.execSlotControlWrite value s
  | .partitionWrite ten off n value => Sys2Proof.Machine.execPartitionWrite ten off n value s
  | .pairingWrite core value => Sys2Proof.Machine.execPairingWrite core value s
  | .lctlResume core => Sys2Proof.Machine.execLctlResume core s
  | .lctlTrapResume core => Sys2Proof.Machine.execLctlTrapResume core s
  | .lctlStep core => Sys2Proof.Machine.execLctlStep core s
  | .lctlEndTask core => Sys2Proof.Machine.execLctlEndTask core s
  | .lctlFreeze core => Sys2Proof.Machine.execLctlFreeze core s
  | .lensWrite core off n value => Sys2Proof.Machine.execLensWrite core off n value s
  | .faultQueueHeadWrite ten value => Sys2Proof.Machine.execFaultQueueHeadWrite ten value s
  | .errorCounterClear index => Sys2Proof.Machine.execErrorCounterClear index s
  | .portCommandPush engine cmd => Sys2Proof.Machine.execPortCommandPush engine cmd s
  | .portResultPop engine n => Sys2Proof.Machine.execPortResultPop engine n s
  | .portResultLatchRead engine => Sys2Proof.Machine.execPortResultLatchRead engine s
  | .registerWrite off n value => Sys2Proof.Machine.execRegisterWrite off n value s
  | .sectorComplete engine => Sys2Proof.Machine.execSectorComplete engine s
  | .sectorFault engine => Sys2Proof.Machine.execSectorFault engine s
  | .engineByteReport core => Sys2Proof.Machine.execEngineByteReport core s
  | .barrierArrival core => Sys2Proof.Machine.execBarrierArrival core s
  | .messageLanding src dst => Sys2Proof.Machine.execMessageLanding src dst s
  | .sweepPassStart cluster => Sys2Proof.Machine.execSweepPassStart cluster s
  | .groupCommit cluster => Sys2Proof.Machine.execGroupCommit cluster s
  | .interrupt core => Sys2Proof.Machine.execInterrupt core s
  | .agentDeclaredDead agent => Sys2Proof.Machine.execAgentDeclaredDead agent s
  | .linkFlitCrcFail port replay => Sys2Proof.Machine.execLinkFlitCrcFail port replay s
  | .illegalInstruction word => Sys2Proof.Machine.execIllegalInstruction word s
  | .singleFault what => Sys2Proof.Machine.execSingleFault what s
  | .patrolScrubRead what => Sys2Proof.Machine.execPatrolScrubRead what s
  | .waitaReread core => Sys2Proof.Machine.execWaitaReread core s
  | .hostRecallAnswer agent line half answer => Sys2Proof.Machine.execHostRecallAnswer agent line half answer s
  | .cxlTransactionCompletion core good => Sys2Proof.Machine.execCxlTransactionCompletion core good s
  | .remoteModuleRequest ten asid ea kind n value => Sys2Proof.Machine.execRemoteModuleRequest ten asid ea kind n value s
  | .remoteModuleReply agent data answer => Sys2Proof.Machine.execRemoteModuleReply agent data answer s

end Sys2Proof.Machine
end

