-- ==== Sys2Proof/Machine/Step.lean ====
section
/-! DEFINITION. One step: the event that is due, or the next turn of the schedule: a core or a lane fetches, decodes and executes, or an event happens. -/

namespace Sys2Proof.Machine

/-- Decode a word under a table and execute it; a word that is no instruction raises cause 2 (R40, R51). -/
noncomputable def runWord (table : Option (List (BitVec 16))) (w : IWord) (s : State) : Host.Outcome State Fault Refusal :=
  match decodeUnder table w with
  | .ok i => exec i s
  | .error _ => exec (.illegalInstruction w) s

/-- The turn of the acting agent. -/
noncomputable def turn (s : State) : Host.Outcome State Fault Refusal :=
  match s.run.cur with
  | .core n =>
    (match s.coreTurn n with
     | .idle => .next s
     | .check => .next (s.takeCheck n)
     | .freeze => .next (s.boundary n)
     | .interrupt => exec (.interrupt n) s
     | .word w s' => runWord (s.coreTable n) w s'
     | .fault => .next (s.takeTrap n 1 (s.coreAt n).pc)
     | .void => exec (.firstUseRebuild n) s
     | .detach => .next (s.detach n))
  | .lane c j =>
    (match s.laneTurn c j with
     | .idle => .next s
     | .word w => runWord (s.laneTable c) w s
     | .illegal w => exec (.illegalInstruction w) s
     | .operand => .next (s.laneFault c j 0x103 0)
     | .past => .next (s.laneFault c j 0x105 0))

/-- Act on a turn of the schedule. -/
noncomputable def act (a : Act) (s : State) : Host.Outcome State Fault Refusal :=
  match a with
  | .run b => turn { s with run := { s.run with cur := b } }
  | .event i => if schedulable i then exec i s else .next s
  | .abort j => .next (s.serverAbort j)

/-- One step of the module. -/
noncomputable def step (s : State) : Host.Outcome State Fault Refusal :=
  match s.due with
  | some t => exec t.instr s
  | none =>
    match s.run.sched with
    | [] => turn (s.pass 1)
    | t :: rest =>
      let k := s.gapLimit t.gap
      if k < t.gap then .next (({ s with run := { s.run with sched := ⟨t.gap - k, t.act⟩ :: rest } }).pass k)
      else act t.act (({ s with run := { s.run with sched := rest } }).pass t.gap)

/-- The instruction word placed where the acting agent fetches next, and a schedule in which that agent moves next. -/
def State.withFetchWord (s : State) (nbits w : Nat) : State :=
  match s.fetchKey with
  | some k => { s with mem := s.mem.write k 4 (w % 2 ^ nbits), run := { s.run with sched := [] } }
  | none => s

end Sys2Proof.Machine
end

