-- ==== Sys2Proof/Safety.lean ====
section
/-! DEFINITION. What counts as a safe run, and the terms in which statements say what an instruction does and what it leaves alone. -/

namespace Sys2Proof

/-- The module goes on from this state. -/
def GoesOn (s : Machine.State) : Prop := ∃ t, Machine.step s = .next t

/-- `n` steps from a state all go on. -/
def SafeFor : Nat → Machine.State → Prop
  | 0, _ => True
  | n + 1, s => ∃ t, Machine.step s = .next t ∧ SafeFor n t

namespace Machine

/-- A core less what every retirement sets: the pc, the time of the retirement, waits and their notes, and what following and a
freeze ordered for this boundary may change (R81, R24, R222). Every register, CSR, queue and cache of the core stays in it. -/
def Core.plain (c : Core) : Core :=
  { c with
    pc := 0#64, iw := 0#32, lastRet := 0, wait := .none, contrib := .none, reply := .none, remAsked := false, frzReq := false
    stepping := false, frz := none, vpend := [], lead := none, fwd := [] }

/-- A core less what it is told of the instructions of a leader (R24, R351). -/
def Core.unfed (c : Core) : Core := { c with fwd := [], contrib := .none }

/-- Every byte of memory reads as before. -/
def SameMem (s t : State) : Prop := ∀ a, t.mem.byte a = s.mem.byte a

/-- Every core but `n` stands as before, but for what it is told of a leader's instructions. -/
def OthersKept (n : Nat) (s t : State) : Prop := ∀ k, k ≠ n → (t.coreAt k).unfed = (s.coreAt k).unfed

/-- Nothing outside the cores has changed: time, clusters, memory, homes, tables, the dispatcher, messages and package engines. -/
def OutsideKept (s t : State) : Prop :=
  t.time = s.time ∧ t.clusters = s.clusters ∧ SameMem s t ∧ t.home = s.home ∧ t.tabs = s.tabs ∧ t.disp = s.disp ∧ t.net = s.net ∧
    t.engines = s.engines

/-- What lies outside cores and memory stands as before. -/
def BesidesMemory (s t : State) : Prop :=
  t.time = s.time ∧ t.clusters = s.clusters ∧ t.home = s.home ∧ t.tabs = s.tabs ∧ t.disp = s.disp ∧ t.net = s.net ∧ t.engines = s.engines

/-- Core `n` stands as `c` after a retirement to `pc`: every register, CSR and queue as in `c`, the pc there, no wait, and no freeze
but one that was ordered before. -/
def CoreBecomes (n : Nat) (s t : State) (c : Core) (pc : Word) : Prop :=
  (t.coreAt n).plain = c.plain ∧ (t.coreAt n).pc = pc ∧ (t.coreAt n).wait = .none ∧
    ((s.coreAt n).frzReq = false → (s.coreAt n).stepping = false → (t.coreAt n).vpend = c.vpend ∧ (t.coreAt n).frz = c.frz)

/-- The instruction of core `n` retires to `pc` and the core stands as `c`; nothing else changes. -/
def Retires (n : Nat) (s t : State) (c : Core) (pc : Word) : Prop := CoreBecomes n s t c pc ∧ OthersKept n s t ∧ OutsideKept s t

/-- A core with its logical clock raised to at least `t`. -/
def Core.clocked (c : Core) (t : Nat) : Core := { c with csr := { c.csr with lclk := max c.csr.lclk t } }

/-- The core after the release at team scope that every matrix instruction's issue is, when its store buffer is empty (R177, R303). -/
def Core.issued (c : Core) : Core := c.clocked c.swm

/-- The address of the next instruction. -/
def Core.next (c : Core) : Word := c.pc + 4#64

/-- Lane `j` of cluster `c` stands as `l` after its instruction, and nothing else has changed: no other lane, no other part of the
cluster or of its pass, no core, no memory (R160). -/
def LaneRetires (c j : Nat) (s t : State) (l : Lane) : Prop :=
  t.laneAt c j = some l ∧ (∀ i, i ≠ j → t.laneAt c i = s.laneAt c i) ∧ (∀ k, k ≠ c → t.clusterAt k = s.clusterAt k) ∧
    (t.passAt c).map (fun p => { p with lanes := [] }) = (s.passAt c).map (fun p => { p with lanes := [] }) ∧
    { t.clusterAt c with pass := none } = { s.clusterAt c with pass := none } ∧ t.cores = s.cores ∧ t.time = s.time ∧
    SameMem s t ∧ t.home = s.home ∧ t.tabs = s.tabs ∧ t.disp = s.disp ∧ t.net = s.net ∧ t.engines = s.engines

/-- Core `n` takes a trap on itself (R269): sepc, scause, stval, sstatus, mode and pc change as R269 says, every general register and
every other CSR stays, and nothing else changes. -/
def TrapsSelf (n : Nat) (s t : State) (cause : Nat) (tval : Word) : Prop :=
  (t.coreAt n).pc = (s.coreAt n).sup.stvec ∧ (t.coreAt n).mode = .s ∧
    (t.coreAt n).sup = { (s.coreAt n).sup with
      sepc := (s.coreAt n).pc &&& 0xFFFFFFFFFFFFFFFC#64, scause := BitVec.ofNat 63 cause |>.setWidth 64, stval := tval
      spp := decide ((s.coreAt n).mode = .s), spie := (s.coreAt n).sup.sie, sie := false } ∧
    { (t.coreAt n).plain with mode := .u, sup := Sup.reset } = { (s.coreAt n).plain with mode := .u, sup := Sup.reset } ∧
    (∀ k, k ≠ n → t.coreAt k = s.coreAt k) ∧ OutsideKept s t

end Machine

end Sys2Proof
end

