-- ==== Sys2Proof/Certificates/Slice0/Obligations.lean ====
section
/-! DEFINITION. The statements for the provers, and the tables of instructions and of the results that the rules give them. -/

namespace Sys2Proof

open Machine

/-! Tables: which instruction, and the word it writes as a function of its operands, in integers. -/

/-- Bits 31:0 of an integer, sign-extended (R255). -/
def low32 (i : Int) : Word := (BitVec.ofInt 32 i).signExtend 64

/-- The signed quotient and remainder of R256, division by 0 and the overflow case among them. -/
def quotS (n : Nat) (a b : Int) : Int := if b = 0 then -1 else if a = -(2 : Int) ^ (n - 1) ∧ b = -1 then -(2 : Int) ^ (n - 1) else a.tdiv b

def restS (n : Nat) (a b : Int) : Int := if b = 0 then a else if a = -(2 : Int) ^ (n - 1) ∧ b = -1 then 0 else a.tmod b

/-- The low 32 bits of a word, signed and unsigned. -/
def sLow (a : Word) : Int := (a.setWidth 32).toInt
def uLow (a : Word) : Nat := a.toNat % 2 ^ 32

/-- The OP and OP-32 operations of R254 and R255. -/
noncomputable def plainOps : List ((BitVec 5 → BitVec 5 → BitVec 5 → Instr) × (Word → Word → Word)) :=
  [(.add, fun a b => BitVec.ofNat 64 (a.toNat + b.toNat)),
   (.sub, fun a b => BitVec.ofInt 64 ((a.toNat : Int) - b.toNat)),
   (.sll, fun a b => BitVec.ofNat 64 (a.toNat * 2 ^ (b.toNat % 64))),
   (.slt, fun a b => if a.toInt < b.toInt then 1#64 else 0#64),
   (.sltu, fun a b => if a.toNat < b.toNat then 1#64 else 0#64),
   (.xor, fun a b => BitVec.ofNat 64 (a.toNat ^^^ b.toNat)),
   (.srl, fun a b => BitVec.ofNat 64 (a.toNat / 2 ^ (b.toNat % 64))),
   (.sra, fun a b => BitVec.ofInt 64 (a.toInt / 2 ^ (b.toNat % 64))),
   (.or, fun a b => BitVec.ofNat 64 (a.toNat ||| b.toNat)),
   (.and, fun a b => BitVec.ofNat 64 (a.toNat &&& b.toNat)),
   (.addw, fun a b => low32 (a.toNat + b.toNat)),
   (.subw, fun a b => low32 ((a.toNat : Int) - b.toNat)),
   (.sllw, fun a b => low32 (uLow a * 2 ^ (b.toNat % 32) : Nat)),
   (.srlw, fun a b => low32 (uLow a / 2 ^ (b.toNat % 32) : Nat)),
   (.sraw, fun a b => low32 (sLow a / 2 ^ (b.toNat % 32)))]

/-- The multiply and divide operations of R256. -/
noncomputable def mulDivOps : List ((BitVec 5 → BitVec 5 → BitVec 5 → Instr) × (Word → Word → Word)) :=
  [(.mul, fun a b => BitVec.ofNat 64 (a.toNat * b.toNat)),
   (.mulh, fun a b => BitVec.ofInt 64 (a.toInt * b.toInt / 2 ^ 64)),
   (.mulhsu, fun a b => BitVec.ofInt 64 (a.toInt * b.toNat / 2 ^ 64)),
   (.mulhu, fun a b => BitVec.ofNat 64 (a.toNat * b.toNat / 2 ^ 64)),
   (.div, fun a b => BitVec.ofInt 64 (quotS 64 a.toInt b.toInt)),
   (.divu, fun a b => BitVec.ofNat 64 (if b.toNat = 0 then 2 ^ 64 - 1 else a.toNat / b.toNat)),
   (.rem, fun a b => BitVec.ofInt 64 (restS 64 a.toInt b.toInt)),
   (.remu, fun a b => BitVec.ofNat 64 (if b.toNat = 0 then a.toNat else a.toNat % b.toNat)),
   (.mulw, fun a b => low32 (uLow a * uLow b : Nat)),
   (.divw, fun a b => low32 (quotS 32 (sLow a) (sLow b))),
   (.divuw, fun a b => low32 (if uLow b = 0 then 2 ^ 32 - 1 else uLow a / uLow b : Nat)),
   (.remw, fun a b => low32 (restS 32 (sLow a) (sLow b))),
   (.remuw, fun a b => low32 (if uLow b = 0 then uLow a else uLow a % uLow b : Nat))]

/-- Register–register operations. -/
noncomputable def registerOps : List ((BitVec 5 → BitVec 5 → BitVec 5 → Instr) × (Word → Word → Word)) := plainOps ++ mulDivOps

/-- Register–immediate operations: the instruction for a 12-bit immediate, and its result; shifts take their amount from its low bits. -/
noncomputable def immediateOps : List ((BitVec 5 → BitVec 5 → BitVec 12 → Instr) × (Word → BitVec 12 → Word)) :=
  [(.addi, fun a i => BitVec.ofInt 64 (a.toInt + i.toInt)),
   (.slti, fun a i => if a.toInt < i.toInt then 1#64 else 0#64),
   (.sltiu, fun a i => if a.toNat < (BitVec.ofInt 64 i.toInt).toNat then 1#64 else 0#64),
   (.xori, fun a i => a ^^^ BitVec.ofInt 64 i.toInt),
   (.ori, fun a i => a ||| BitVec.ofInt 64 i.toInt),
   (.andi, fun a i => a &&& BitVec.ofInt 64 i.toInt),
   (.addiw, fun a i => low32 (a.toInt + i.toInt)),
   (fun rd rs1 i => .slli rd rs1 (i.setWidth 6), fun a i => BitVec.ofNat 64 (a.toNat * 2 ^ (i.toNat % 64))),
   (fun rd rs1 i => .srli rd rs1 (i.setWidth 6), fun a i => BitVec.ofNat 64 (a.toNat / 2 ^ (i.toNat % 64))),
   (fun rd rs1 i => .srai rd rs1 (i.setWidth 6), fun a i => BitVec.ofInt 64 (a.toInt / 2 ^ (i.toNat % 64))),
   (fun rd rs1 i => .slliw rd rs1 (i.setWidth 5), fun a i => low32 (uLow a * 2 ^ (i.toNat % 32) : Nat)),
   (fun rd rs1 i => .srliw rd rs1 (i.setWidth 5), fun a i => low32 (uLow a / 2 ^ (i.toNat % 32) : Nat)),
   (fun rd rs1 i => .sraiw rd rs1 (i.setWidth 5), fun a i => low32 (sLow a / 2 ^ (i.toNat % 32)))]

/-- Branches and the conditions under which they are taken (R253). -/
noncomputable def branchOps : List ((BitVec 5 → BitVec 5 → BitVec 7 → BitVec 5 → Instr) × (Word → Word → Prop)) :=
  [(.beq, fun a b => a = b), (.bne, fun a b => a ≠ b), (.blt, fun a b => a.toInt < b.toInt), (.bge, fun a b => b.toInt ≤ a.toInt),
   (.bltu, fun a b => a.toNat < b.toNat), (.bgeu, fun a b => b.toNat ≤ a.toNat)]

/-- Loads: the instruction, the bytes it reads, and the register value for the number they hold (R257). -/
noncomputable def loadOps : List ((BitVec 5 → BitVec 5 → BitVec 12 → Instr) × Nat × (Nat → Word)) :=
  [(.lb, 1, fun v => (BitVec.ofNat 8 v).signExtend 64), (.lh, 2, fun v => (BitVec.ofNat 16 v).signExtend 64),
   (.lw, 4, fun v => (BitVec.ofNat 32 v).signExtend 64), (.ld, 8, BitVec.ofNat 64), (.lbu, 1, BitVec.ofNat 64), (.lhu, 2, BitVec.ofNat 64),
   (.lwu, 4, BitVec.ofNat 64)]

/-- Stores and their sizes (R257). -/
noncomputable def storeOps : List ((BitVec 5 → BitVec 5 → BitVec 7 → BitVec 5 → Instr) × Nat) := [(.sb, 1), (.sh, 2), (.sw, 4), (.sd, 8)]

/-! Decoding and steps. -/

/-- A step in which nothing is due and the schedule is empty runs the instruction that the word at the pc decodes to, on a server core
in supervisor mode that stands between instructions with no check failed: exec of it, in the state one cycle later with the word noted. That an empty
schedule lets the acting agent run, and that one cycle passes, are the model's choices (logs 5 and 6). -/
def StepRunsTheDecodedServerInstruction : Prop :=
  ∀ (s : State) (n : Nat) (i : Instr), s.due = none → s.run.sched = [] → s.run.cur = .core n →
    (let u := s.pass 1
     let c := u.coreAt n
     u.runs n = true → c.check = false → c.frzReq = false → u.interruptNow n = false → c.lead = none → c.mode = .s → c.csr.dsel = 0#4 →
     c.pc.toNat % 4 = 0 → Config.serverEntry ≤ c.pc.toNat → c.pc.toNat + 4 ≤ Config.serverEntry + Config.serverTextSize →
     u.poisoned (kText c.pc.toNat) = false → decode (BitVec.ofNat 32 (u.mem.read (kText c.pc.toNat) 4)) = .ok i →
     step s = exec i (u.setIw n (BitVec.ofNat 32 (u.mem.read (kText c.pc.toNat) 4))))

/-- The same for a core that runs a task in user mode: the word lies in its capsule's text and is read under the core's decode table. -/
def StepRunsTheDecodedTaskInstruction : Prop :=
  ∀ (s : State) (n : Nat) (k : Task) (i : Instr), s.due = none → s.run.sched = [] → s.run.cur = .core n →
    (let u := s.pass 1
     let c := u.coreAt n
     u.runs n = true → c.check = false → c.frzReq = false → u.interruptNow n = false → c.lead = none → c.mode = .u → c.task = some k →
     (u.cap k.caps).st = .sealed → c.pc.toNat % 4 = 0 → textBase k.caps ≤ c.pc.toNat →
     c.pc.toNat < textBase k.caps + 4 * (u.cap k.caps).nins → u.poisoned (kText c.pc.toNat) = false →
     decodeUnder (u.coreTable n) (BitVec.ofNat 32 (u.mem.read (kText c.pc.toNat) 4)) = .ok i →
     step s = exec i (u.setIw n (BitVec.ofNat 32 (u.mem.read (kText c.pc.toNat) 4))))

/-- A follower runs the oldest instruction its leader has forwarded, at the leader's address (R24). -/
def StepRunsTheForwardedInstruction : Prop :=
  ∀ (s : State) (n l : Nat) (f : Fwd) (rest : List Fwd) (i : Instr), s.due = none → s.run.sched = [] → s.run.cur = .core n →
    (let u := s.pass 1
     let c := u.coreAt n
     u.runs n = true → c.check = false → c.frzReq = false → u.interruptNow n = false → c.lead = some l → c.fwd = f :: rest →
     decodeUnder (u.coreTable n) f.word = .ok i → step s = exec i (u.setFwd n f))

/-- The canonical form of memory and of the tables of cores and clusters: keys rising, nothing listed that an unlisted key reads as. -/
def Canonical (s : State) : Prop := Memory.wf s.mem = true ∧ Tbl.wf Core.reset s.cores = true ∧ Tbl.wf Cluster.gated s.clusters = true

/-! The integer base. -/

/-- x0 reads as 0 and discards writes; a write of any other x register is what that register reads as, and no other changes (R66). -/
def XRegistersReadWhatWasWritten : Prop :=
  ∀ (c : Core) (r q : BitVec 5) (w : Word), c.rx 0#5 = 0#64 ∧ (c.wx r w).rx q = (if q = r ∧ r ≠ 0#5 then w else c.rx q)

/-- Every OP and OP-32 instruction, multiply and divide among them, retires on a core and writes rd with the result of the rules, for
all operands; nothing else changes (R254, R255, R256). -/
def RegisterOperationsWriteTheirResult : Prop :=
  ∀ p ∈ registerOps, ∀ (rd rs1 rs2 : BitVec 5) (n : Nat) (s : State), s.run.cur = .core n →
    ∃ t, exec (p.1 rd rs1 rs2) s = .next t ∧
      Retires n s t ((s.coreAt n).wx rd (p.2 ((s.coreAt n).rx rs1) ((s.coreAt n).rx rs2))) (s.coreAt n).next

/-- Every OP-IMM and OP-IMM-32 instruction, `lui` and `auipc` retire on a core and write rd with the result of the rules, for all
operands; nothing else changes (R251, R254, R255). -/
def ImmediateOperationsWriteTheirResult : Prop :=
  (∀ p ∈ immediateOps, ∀ (rd rs1 : BitVec 5) (i : BitVec 12) (n : Nat) (s : State), s.run.cur = .core n →
    ∃ t, exec (p.1 rd rs1 i) s = .next t ∧ Retires n s t ((s.coreAt n).wx rd (p.2 ((s.coreAt n).rx rs1) i)) (s.coreAt n).next) ∧
  ∀ (rd : BitVec 5) (u : BitVec 20) (n : Nat) (s : State), s.run.cur = .core n →
    (∃ t, exec (.lui rd u) s = .next t ∧
      Retires n s t ((s.coreAt n).wx rd (BitVec.ofInt 64 (u.toInt * 2 ^ 12))) (s.coreAt n).next) ∧
    ∃ t, exec (.auipc rd u) s = .next t ∧
      Retires n s t ((s.coreAt n).wx rd (BitVec.ofInt 64 ((s.coreAt n).pc.toInt + u.toInt * 2 ^ 12))) (s.coreAt n).next

/-- A branch of a core retires to pc + offset when its condition holds and the target is aligned, to pc + 4 when it does not hold;
it writes no register. A taken branch to a target that is no multiple of 4 retires nothing and traps with cause 0 and stval the target
(R37, R253). -/
def BranchesGoWhereTheirConditionSays : Prop :=
  ∀ p ∈ branchOps, ∀ (rs1 rs2 : BitVec 5) (hi : BitVec 7) (lo : BitVec 5) (n : Nat) (s : State), s.run.cur = .core n →
    (let c := s.coreAt n
     let dst := c.pc + immB hi lo
     (¬ p.2 (c.rx rs1) (c.rx rs2) → ∃ t, exec (p.1 rs1 rs2 hi lo) s = .next t ∧ Retires n s t c c.next) ∧
     (p.2 (c.rx rs1) (c.rx rs2) → dst.toNat % 4 = 0 → (c.mode = .u → dst ≠ taskExit) → ∃ t, exec (p.1 rs1 rs2 hi lo) s = .next t ∧ Retires n s t c dst) ∧
     (p.2 (c.rx rs1) (c.rx rs2) → dst.toNat % 4 ≠ 0 → exec (p.1 rs1 rs2 hi lo) s = .next (s.takeTrap n 0 dst)))

/-- `jal` and `jalr` write the address of the next instruction to rd and retire to an aligned target; `jalr` clears bit 0 of its target
and reads rs1 before rd is written. A misaligned target traps with cause 0 and writes nothing (R37, R252).
After a `jalr` the vector unit issues nothing before every earlier custom-0 result is written (R47). -/
def JumpsLinkAndGo : Prop :=
  ∀ (rd rs1 : BitVec 5) (j : BitVec 20) (i : BitVec 12) (n : Nat) (s : State), s.run.cur = .core n →
    (let c := s.coreAt n
     let dst := c.pc + immJ j
     let via := (c.rx rs1 + BitVec.ofInt 64 i.toInt) &&& ~~~1#64
     (dst.toNat % 4 = 0 → (c.mode = .u → dst ≠ taskExit) → ∃ t, exec (.jal rd j) s = .next t ∧ Retires n s t (c.wx rd c.next) dst) ∧
     (dst.toNat % 4 ≠ 0 → exec (.jal rd j) s = .next (s.takeTrap n 0 dst)) ∧
     (via.toNat % 4 = 0 → (c.mode = .u → via ≠ taskExit) → ∃ t, exec (.jalr rd rs1 i) s = .next t ∧
       Retires n s t { c.wx rd c.next with vnext := (t.coreAt n).vnext } via ∧ c.vnext ≤ (t.coreAt n).vnext ∧
       (c.frzReq = false → c.stepping = false → ∀ p ∈ c.vpend, p.fin ≤ (t.coreAt n).vnext)) ∧
     (via.toNat % 4 ≠ 0 → exec (.jalr rd rs1 i) s = .next (s.takeTrap n 0 via)))

/-! Loads and stores. -/

/-- The address of a byte of the own scratchpad (R88). -/
def ownPad (off : Nat) : Word := BitVec.ofNat 64 (0x22000000000 + off)

/-- `size` bytes at an offset of the own scratchpad of core `n` that a load may read: aligned, no byte of an active workspace, no
poisoned word (R260). -/
def PadReadable (n : Nat) (s : State) (off size : Nat) : Prop :=
  off + size ≤ 0x40000 ∧ off % size = 0 ∧ s.inWs n off size = false ∧ s.anyPoison (kPad n off) size = false

/-- The same bytes may be stored to: no byte of the argument block or of a sealed buffer besides (R260). -/
def PadWritable (n : Nat) (s : State) (off size : Nat) : Prop :=
  PadReadable n s off size ∧ s.inArgs n off size = false ∧ s.inSeal n off size = false

/-- A load of readable bytes of the own scratchpad retires: rd takes the bytes, the core's own waiting stores over them, extended as
R257 gives; the clock takes the scratchpad's SCM; nothing else changes (R172, R257, R258). -/
def LoadsReadTheOwnScratchpad : Prop :=
  ∀ p ∈ loadOps, ∀ (rd rs1 : BitVec 5) (i : BitVec 12) (off n : Nat) (s : State), s.run.cur = .core n →
    (s.coreAt n).rx rs1 + BitVec.ofInt 64 i.toInt = ownPad off → PadReadable n s off p.2.1 →
    ∃ t, exec (p.1 rd rs1 i) s = .next t ∧
      Retires n s t (((s.coreAt n).clocked (s.coreAt n).scm).wx rd
        (p.2.2 (bytesToNat ((s.coreAt n).forwarded s.mem (kPad n off) (s.mem.readBytes (kPad n off) p.2.1))))) (s.coreAt n).next

/-- A store to writable bytes of the own scratchpad retires into a store buffer that has room: its bytes are the last of the buffer, no
byte of memory changes yet, and nothing else does (R125, R257, R259). -/
def StoresEnterTheStoreBuffer : Prop :=
  ∀ p ∈ storeOps, ∀ (rs1 rs2 : BitVec 5) (hi : BitVec 7) (lo : BitVec 5) (off n : Nat) (s : State), s.run.cur = .core n →
    (s.coreAt n).rx rs1 + BitVec.ofInt 64 (hi ++ lo).toInt = ownPad off → PadWritable n s off p.2 → (s.coreAt n).sb.length < 32 →
    ∃ t, exec (p.1 rs1 rs2 hi lo) s = .next t ∧
      Retires n s t { s.coreAt n with
        sb := (s.coreAt n).sb ++ [⟨.scratch n off, (natToBytes p.2 ((s.coreAt n).rx rs2).toNat).map some, (s.coreAt n).asid⟩] }
        (s.coreAt n).next

/-- A load or store whose address is no multiple of its size traps with cause 4 or 6 and stval the address, where the region is no prism
window and the address decodes; nothing is read or stored before the trap (R260). -/
def MisalignedAccessesTrap : Prop :=
  ∀ (n : Nat) (s : State), s.run.cur = .core n →
    (∀ p ∈ loadOps, ∀ (rd rs1 : BitVec 5) (i : BitVec 12),
      (let ea := (s.coreAt n).rx rs1 + BitVec.ofInt 64 i.toInt
       ea.toNat < 2 ^ 42 → ea.toNat % p.2.1 ≠ 0 → (∀ w o, localRegion (some n) ea.toNat ≠ .window w o) →
       exec (p.1 rd rs1 i) s = .next (s.takeTrapK n 4 ea 1))) ∧
    ∀ p ∈ storeOps, ∀ (rs1 rs2 : BitVec 5) (hi : BitVec 7) (lo : BitVec 5),
      (let ea := (s.coreAt n).rx rs1 + BitVec.ofInt 64 (hi ++ lo).toInt
       ea.toNat < 2 ^ 42 → ea.toNat % p.2 ≠ 0 → (∀ w o, localRegion (some n) ea.toNat ≠ .window w o) →
       exec (p.1 rs1 rs2 hi lo) s = .next (s.takeTrapK n 6 ea 2))

/-- An access to an address that does not decode takes the access fault of its kind, before any test of alignment (R86, R260). -/
def UndecodableAddressesFault : Prop :=
  ∀ (n : Nat) (s : State), s.run.cur = .core n →
    (∀ p ∈ loadOps, ∀ (rd rs1 : BitVec 5) (i : BitVec 12),
      (let ea := (s.coreAt n).rx rs1 + BitVec.ofInt 64 i.toInt
       2 ^ 55 ≤ ea.toNat → exec (p.1 rd rs1 i) s = .next (s.takeTrapK n 5 ea 1))) ∧
    ∀ p ∈ storeOps, ∀ (rs1 rs2 : BitVec 5) (hi : BitVec 7) (lo : BitVec 5),
      (let ea := (s.coreAt n).rx rs1 + BitVec.ofInt 64 (hi ++ lo).toInt
       2 ^ 55 ≤ ea.toNat → exec (p.1 rs1 rs2 hi lo) s = .next (s.takeTrapK n 7 ea 2))

/-! Traps, returns and CSRs. -/

/-- Core `n` stands frozen with a cause, its instruction's address and its stval: its mode, CSRs and registers are as before (R270). -/
def FrozenWith (n : Nat) (s t : State) (cause : Nat) (tval : Word) (buddy : Bool) : Prop :=
  (t.coreAt n).plain = (s.coreAt n).plain ∧ (t.coreAt n).pc = (s.coreAt n).pc ∧
    (t.coreAt n).frz = some ⟨cause, (s.coreAt n).pc, tval, buddy, s.time.gtc⟩ ∧ ∀ k, k ≠ n → t.coreAt k = s.coreAt k

/-- What taking a trap does, wherever its route leads: entry into S at stvec on the core itself; a core frozen for its buddy; a core
frozen for the server, and one more fault record for its tenant while the queue has room (R205, R220, R269, R270). -/
def TrapTaken (n : Nat) (s t : State) (cause : Nat) (tval : Word) : Prop :=
  if s.trapsSelf n cause = true then TrapsSelf n s t cause tval
  else if routeOf (s.pair n) cause = 1 then FrozenWith n s t cause tval true ∧ OutsideKept s t
  else FrozenWith n s t cause tval false ∧
    ((s.fq (s.coreAt n).ten).next - (s.fq (s.coreAt n).ten).head < 1024 →
      (t.fq (s.coreAt n).ten).next = (s.fq (s.coreAt n).ten).next + 1)

/-- `sret` in supervisor mode returns to sepc in the mode of SPP; SIE takes SPIE, SPIE becomes 1 and SPP 0. In user mode it raises
cause 2 with the word (R266). -/
def SretReturnsToTheSavedModeAndAddress : Prop :=
  ∀ (s : State) (n : Nat), s.run.cur = .core n →
    ((s.coreAt n).mode = .s → ∃ t, exec .sret s = .next t ∧ (t.coreAt n).pc = (s.coreAt n).sup.sepc ∧
      (t.coreAt n).mode = (if (s.coreAt n).sup.spp then .s else .u) ∧
      (t.coreAt n).sup = { (s.coreAt n).sup with sie := (s.coreAt n).sup.spie, spie := true, spp := false } ∧
      { (t.coreAt n).plain with mode := .u, sup := Sup.reset } = { (s.coreAt n).plain with mode := .u, sup := Sup.reset } ∧
      (∀ k, k ≠ n → t.coreAt k = s.coreAt k) ∧ OutsideKept s t) ∧
    ((s.coreAt n).mode = .u → exec .sret s = .next (s.takeTrapK n 2 ((s.coreAt n).iw.setWidth 64) 0xFF))

/-- `wfi` retires when an enabled interrupt is pending; otherwise the core waits at it and nothing else changes. In user mode it raises
cause 2 (R267). -/
def WfiRetiresOnAPendingInterrupt : Prop :=
  ∀ (s : State) (n : Nat), s.run.cur = .core n →
    ((s.coreAt n).mode = .s → (s.csrRead n .sip &&& s.csrRead n .sie) ≠ 0#64 →
      ∃ t, exec .wfi s = .next t ∧ Retires n s t (s.coreAt n) (s.coreAt n).next) ∧
    ((s.coreAt n).mode = .s → (s.csrRead n .sip &&& s.csrRead n .sie) = 0#64 →
      ∃ t, exec .wfi s = .next t ∧ t.coreAt n = { s.coreAt n with wait := .interrupt } ∧ (∀ k, k ≠ n → t.coreAt k = s.coreAt k) ∧
        OutsideKept s t) ∧
    ((s.coreAt n).mode = .u → exec .wfi s = .next (s.takeTrapK n 2 ((s.coreAt n).iw.setWidth 64) 0xFF))

/-- The CSR instructions: the new value from the old and the source, and whether a write is attempted (R263). -/
noncomputable def csrOps : List ((BitVec 5 → BitVec 5 → BitVec 12 → Instr) × Bool × (Word → Word → Word)) :=
  [(.csrrw, false, fun _ src => src), (.csrrs, false, fun old src => old ||| src), (.csrrc, false, fun old src => old &&& ~~~src),
   (fun rd u c => .csrrwi rd c u, true, fun _ src => src), (fun rd u c => .csrrsi rd c u, true, fun old src => old ||| src),
   (fun rd u c => .csrrci rd c u, true, fun old src => old &&& ~~~src)]

/-- Does a CSR instruction attempt a write: `csrrw` and `csrrwi` always, the others when the field is not 0 (R263)? -/
def csrWrites (f : Word → Word → Word) (field : BitVec 5) : Bool := decide (field ≠ 0#5) || decide (f 1#64 0#64 = 0#64)

/-- A CSR instruction on a listed CSR that the mode may access, with no attempt to write a read-only CSR or an absent decode table,
writes rd with the old value and the CSR with the new one, and retires (R263, R264). -/
def CsrInstructionsReadAndWrite : Prop :=
  ∀ p ∈ csrOps, ∀ (rd f : BitVec 5) (k : BitVec 12) (c : CsrName) (n : Nat) (s : State), s.run.cur = .core n →
    CsrName.ofNumber k = some c → ((s.coreAt n).mode = .s ∨ c.supervisor = false) →
    (let old := s.csrRead n c
     let src := if p.2.1 then f.setWidth 64 else (s.coreAt n).rx f
     let new := p.2.2 old src
     (csrWrites p.2.2 f = true → c.readOnly = false ∧ (c = .dsel → s.tableIn (s.coreAt n).ten (new.setWidth 4) = true)) →
     ∃ t, exec (p.1 rd f k) s = .next t ∧
       Retires n s t ((if csrWrites p.2.2 f then (s.coreAt n).csrWrite c new else s.coreAt n).wx rd old) (s.coreAt n).next)

/-- A CSR number that is not listed, a supervisor CSR in user mode, and a write attempt on a read-only CSR each raise cause 2 with the
word, and write nothing (R78, R263). -/
def ForbiddenCsrAccessesAreIllegal : Prop :=
  ∀ p ∈ csrOps, ∀ (rd f : BitVec 5) (k : BitVec 12) (n : Nat) (s : State), s.run.cur = .core n →
    (CsrName.ofNumber k = none ∨
      (∃ c, CsrName.ofNumber k = some c ∧ ((c.supervisor = true ∧ (s.coreAt n).mode = .u) ∨ (c.readOnly = true ∧ csrWrites p.2.2 f = true)))) →
    exec (p.1 rd f k) s = .next (s.takeTrapK n 2 ((s.coreAt n).iw.setWidth 64) 0xFF)

/-- What each writable CSR reads as after a write: lease clamped to 8 to 1,024, srstate never 0, reserved bits as zeros (R78, R79). -/
def csrAfter (c : CsrName) (w : Word) : Word :=
  match c with
  | .lease => BitVec.ofNat 64 (if w.toNat < 8 then 8 else if 1024 < w.toNat then 1024 else w.toNat)
  | .acfg => BitVec.ofNat 64 (w.toNat % 32)
  | .srstate => if w = 0#64 then 1#64 else w
  | .vmsel | .dsel => BitVec.ofNat 64 (w.toNat % 16)
  | .scbchk => BitVec.ofNat 64 (w.toNat % 2)
  | .sstatus => w &&& 0x122#64
  | .sie => w &&& 0x202#64
  | .stvec | .sepc => w - BitVec.ofNat 64 (w.toNat % 4)
  | _ => w

/-- A written CSR reads as the rules say, and no other CSR of the core reads differently; sip, which shows the frozen
cores, is left out. -/
def CsrReadsGiveWhatWritesLeave : Prop :=
  ∀ (s : State) (n : Nat) (c : CsrName) (w : Word), c.readOnly = false →
    (s.updCore n (fun k => k.csrWrite c w)).csrRead n c = csrAfter c w ∧
    ∀ d, d ≠ c → d ≠ .sip → (s.updCore n (fun k => k.csrWrite c w)).csrRead n d = s.csrRead n d

/-! Custom-0. -/

/-- The cycle in which the acting core's next custom-0 instruction issues (R46). -/
def issueCycle (n : Nat) (s : State) : Nat := max s.time.gtc (s.coreAt n).vnext

/-- Every earlier custom-0 result is written by the cycle in which the next one issues, so that it does not underrun (R48). -/
def VectorReady (n : Nat) (s : State) : Prop := ∀ p ∈ (s.coreAt n).vpend, p.fin ≤ issueCycle n s

/-- A custom-0 instruction of latency `lat` and stall count `stall` has retired: register `g` (32 + i for mask i) holds `w`, due `lat`
cycles after the issue, the next custom-0 instruction issues 1 + `stall` cycles later at the earliest, and nothing else changes (R46). -/
def VectorRetires (n : Nat) (s t : State) (lat : Nat) (stall : BitVec 3) (g : Nat) (w : BitVec 512) : Prop :=
  Retires n s t { (s.coreAt n).setVreg g w with
    vnext := issueCycle n s + 1 + stall.toNat, vpend := [⟨g, issueCycle n s + lat, (s.coreAt n).vreg g, w, false⟩] } (s.coreAt n).next

/-- Shape of a three-register custom-0 constructor. -/
abbrev Vec3 := BitVec 5 → BitVec 5 → BitVec 5 → BitVec 3 → Instr

/-- A signed integer clamped to `w` bits. -/
def satS (w : Nat) (i : Int) : Int := max (-(2 : Int) ^ (w - 1)) (min ((2 : Int) ^ (w - 1) - 1) i)

/-- Integer operations on 32-bit lanes: constructor, latency, and the lane's result from the lanes of vs1, vs2 and vd (R278). -/
noncomputable def laneOps : List (Vec3 × Nat × (BitVec 32 → BitVec 32 → BitVec 32 → BitVec 32)) :=
  [(.vaddI32, 1, fun a b _ => BitVec.ofNat 32 (a.toNat + b.toNat)), (.vsubI32, 1, fun a b _ => BitVec.ofInt 32 ((a.toNat : Int) - b.toNat)),
   (.vmulI32, 3, fun a b _ => BitVec.ofNat 32 (a.toNat * b.toNat)), (.vmulhI32, 3, fun a b _ => BitVec.ofInt 32 (a.toInt * b.toInt / 2 ^ 32)),
   (.vminI32, 1, fun a b _ => BitVec.ofInt 32 (min a.toInt b.toInt)), (.vmaxI32, 1, fun a b _ => BitVec.ofInt 32 (max a.toInt b.toInt)),
   (.vminuI32, 1, fun a b _ => BitVec.ofNat 32 (min a.toNat b.toNat)), (.vmaxuI32, 1, fun a b _ => BitVec.ofNat 32 (max a.toNat b.toNat)),
   (.vand, 1, fun a b _ => BitVec.ofNat 32 (a.toNat &&& b.toNat)), (.vor, 1, fun a b _ => BitVec.ofNat 32 (a.toNat ||| b.toNat)),
   (.vxor, 1, fun a b _ => BitVec.ofNat 32 (a.toNat ^^^ b.toNat)), (.vsllI32, 1, fun a b _ => BitVec.ofNat 32 (a.toNat * 2 ^ (b.toNat % 32))),
   (.vsrlI32, 1, fun a b _ => BitVec.ofNat 32 (a.toNat / 2 ^ (b.toNat % 32))),
   (.vsraI32, 1, fun a b _ => BitVec.ofInt 32 (a.toInt / 2 ^ (b.toNat % 32))),
   (.vaddsI32, 1, fun a b _ => BitVec.ofInt 32 (satS 32 (a.toInt + b.toInt))),
   (.vmacI32, 3, fun a b d => BitVec.ofNat 32 (d.toNat + a.toNat * b.toNat))]

/-- Integer operations on packed elements of `w` bits: constructor, width, latency, and the element's result, of which the low `w` bits
are kept (R279). -/
noncomputable def packedOps : List (Vec3 × Nat × Nat × (Int → Int → Int)) :=
  [(.vaddI16, 16, 1, fun a b => a + b), (.vsubI16, 16, 1, fun a b => a - b), (.vaddsI16, 16, 1, fun a b => satS 16 (a + b)),
   (.vsubsI16, 16, 1, fun a b => satS 16 (a - b)), (.vminI16, 16, 1, fun a b => min a b), (.vmaxI16, 16, 1, fun a b => max a b),
   (.vmulI16, 16, 3, fun a b => a * b), (.vaddI8, 8, 1, fun a b => a + b), (.vsubI8, 8, 1, fun a b => a - b),
   (.vaddsI8, 8, 1, fun a b => satS 8 (a + b)), (.vsubsI8, 8, 1, fun a b => satS 8 (a - b)), (.vminI8, 8, 1, fun a b => min a b),
   (.vmaxI8, 8, 1, fun a b => max a b), (.vmulI8, 8, 3, fun a b => a * b)]

/-- Unsigned saturating adds (R279). -/
noncomputable def unsignedOps : List (Vec3 × Nat) := [(.vaddusI16, 16), (.vaddusI8, 8)]

/-- FP32 operations on lanes: constructor, latency, and the lane's result under the modes of acfg (R277, R280, R281). -/
noncomputable def floatOps : List (Vec3 × Nat × (Core → BitVec 32 → BitVec 32 → BitVec 32 → BitVec 32)) :=
  [(.vfaddF32, 3, fun c a b _ => BitVec.ofNat 32 (fadd c .fp32 a.toNat b.toNat)), (.vfsubF32, 3, fun c a b _ => BitVec.ofNat 32 (fsub c .fp32 a.toNat b.toNat)),
   (.vfmulF32, 4, fun c a b _ => BitVec.ofNat 32 (fmul c .fp32 a.toNat b.toNat)),
   (.vfminF32, 3, fun c a b _ => BitVec.ofNat 32 (fpick false c .fp32 a.toNat b.toNat)),
   (.vfmaxF32, 3, fun c a b _ => BitVec.ofNat 32 (fpick true c .fp32 a.toNat b.toNat)),
   (.vfmaF32, 4, fun c a b d => BitVec.ofNat 32 (ffma c .fp32 a.toNat b.toNat d.toNat)),
   (.vfmsF32, 4, fun c a b d => BitVec.ofNat 32 (ffms c .fp32 a.toNat b.toNat d.toNat)), (.vdotBf16, 5, dot .bf16), (.vdotF16, 5, dot .fp16)]

/-- BF16 and FP16 operations on elements of 16 bits (R281). -/
noncomputable def halfOps : List (Vec3 × Fmt × (Core → Fmt → Nat → Nat → Nat → Nat)) :=
  [(.vfaddBf16, .bf16, fun c f a b _ => fadd c f a b), (.vfsubBf16, .bf16, fun c f a b _ => fsub c f a b), (.vfmulBf16, .bf16, fun c f a b _ => fmul c f a b),
   (.vfminBf16, .bf16, fun c f a b _ => fpick false c f a b), (.vfmaxBf16, .bf16, fun c f a b _ => fpick true c f a b), (.vfmaBf16, .bf16, ffma),
   (.vfaddF16, .fp16, fun c f a b _ => fadd c f a b), (.vfsubF16, .fp16, fun c f a b _ => fsub c f a b), (.vfmulF16, .fp16, fun c f a b _ => fmul c f a b),
   (.vfminF16, .fp16, fun c f a b _ => fpick false c f a b), (.vfmaxF16, .fp16, fun c f a b _ => fpick true c f a b), (.vfmaF16, .fp16, ffma)]

/-- Every integer operation on 32-bit lanes gives each active lane the result of the rules and leaves the other lanes of vd (R273, R278). -/
def LaneOperationsComputeEachActiveLane : Prop :=
  ∀ p ∈ laneOps, ∀ (rd rs1 rs2 : BitVec 5) (stall : BitVec 3) (n : Nat) (s : State), s.run.cur = .core n → VectorReady n s →
    ∃ t w, exec (p.1 rd rs1 rs2 stall) s = .next t ∧ VectorRetires n s t p.2.1 stall rd.toNat w ∧
      ∀ j, j < 16 → vlane w j = (if (s.coreAt n).active j then
        p.2.2 (vlane ((s.coreAt n).rv rs1) j) (vlane ((s.coreAt n).rv rs2) j) (vlane ((s.coreAt n).rv rd) j) else vlane ((s.coreAt n).rv rd) j)

/-- Every packed integer operation gives each active element of 16 or 8 bits the result of the rules, saturated where the operation
saturates, and leaves the other elements of vd (R273, R279). -/
def PackedOperationsComputeEachActiveElement : Prop :=
  (∀ p ∈ packedOps, ∀ (rd rs1 rs2 : BitVec 5) (stall : BitVec 3) (n : Nat) (s : State), s.run.cur = .core n → VectorReady n s →
    ∃ t w, exec (p.1 rd rs1 rs2 stall) s = .next t ∧ VectorRetires n s t p.2.2.1 stall rd.toNat w ∧
      ∀ e, e < 512 / p.2.1 → BitVec.ofNat p.2.1 (velem w p.2.1 e) = (if (s.coreAt n).active e then
        BitVec.ofInt p.2.1 (p.2.2.2 (BitVec.ofNat p.2.1 (velem ((s.coreAt n).rv rs1) p.2.1 e)).toInt
          (BitVec.ofNat p.2.1 (velem ((s.coreAt n).rv rs2) p.2.1 e)).toInt)
        else BitVec.ofNat p.2.1 (velem ((s.coreAt n).rv rd) p.2.1 e))) ∧
  ∀ p ∈ unsignedOps, ∀ (rd rs1 rs2 : BitVec 5) (stall : BitVec 3) (n : Nat) (s : State), s.run.cur = .core n → VectorReady n s →
    ∃ t w, exec (p.1 rd rs1 rs2 stall) s = .next t ∧ VectorRetires n s t 1 stall rd.toNat w ∧
      ∀ e, e < 512 / p.2 → velem w p.2 e = (if (s.coreAt n).active e then
        min (velem ((s.coreAt n).rv rs1) p.2 e + velem ((s.coreAt n).rv rs2) p.2 e) (2 ^ p.2 - 1) else velem ((s.coreAt n).rv rd) p.2 e)

/-- Compares: constructor and the condition on the lanes of vs1 and vs2 (R282). -/
noncomputable def compareOps : List (Vec3 × (Core → BitVec 32 → BitVec 32 → Prop)) :=
  [(.vcmpeqI32, fun _ a b => a = b), (.vcmpltI32, fun _ a b => a.toInt < b.toInt), (.vcmpltuI32, fun _ a b => a.toNat < b.toNat),
   (.vfcmpeqF32, fun c a b => Num.eq (finput c .fp32 a.toNat) (finput c .fp32 b.toNat) = true),
   (.vfcmpltF32, fun c a b => Num.lt (finput c .fp32 a.toNat) (finput c .fp32 b.toNat) = true),
   (.vfcmpleF32, fun c a b => Num.lt (finput c .fp32 a.toNat) (finput c .fp32 b.toNat) = true ∨
     Num.eq (finput c .fp32 a.toNat) (finput c .fp32 b.toNat) = true)]

/-- Mask logic on all 64 bits (R282). -/
noncomputable def maskOps : List (Vec3 × (Word → Word → Word)) :=
  [(.mand, fun a b => a &&& b), (.mor, fun a b => a ||| b), (.mxor, fun a b => a ^^^ b), (.mandn, fun a b => a &&& ~~~b)]

/-- A compare sets bit j of its mask for each active lane j by its condition, keeps the bits of the other lanes, and clears bits 63:16; a
compare with a NaN operand gives 0; `vfclass` tests the class of its lane (R282). -/
def ComparesWriteMasks : Prop :=
  (∀ p ∈ compareOps, ∀ (rd rs1 rs2 : BitVec 5) (stall : BitVec 3) (n : Nat) (s : State), rd.toNat < 8 → s.run.cur = .core n → VectorReady n s →
    ∃ t w, exec (p.1 rd rs1 rs2 stall) s = .next t ∧ VectorRetires n s t 1 stall (32 + rd.toNat) w ∧ (∀ j, 16 ≤ j → w.getLsbD j = false) ∧
      ∀ j, j < 16 → (w.getLsbD j = true ↔ if (s.coreAt n).active j then
        p.2 (s.coreAt n) (vlane ((s.coreAt n).rv rs1) j) (vlane ((s.coreAt n).rv rs2) j) else ((s.coreAt n).rm rd.toNat).getLsbD j = true)) ∧
  ∀ (rd rs1 set : BitVec 5) (stall : BitVec 3) (n : Nat) (s : State), rd.toNat < 8 → s.run.cur = .core n → VectorReady n s →
    ∃ t w, exec (.vfclassF32 rd rs1 set stall) s = .next t ∧ VectorRetires n s t 1 stall (32 + rd.toNat) w ∧ (∀ j, 16 ≤ j → w.getLsbD j = false) ∧
      ∀ j, j < 16 → w.getLsbD j = (if (s.coreAt n).active j then
        (let a := vlane ((s.coreAt n).rv rs1) j
         let e := a.extractLsb' 23 8
         let m := a.extractLsb' 0 23
         if e = 0xFF#8 ∧ m ≠ 0#23 then set.getLsbD 0 else if e = 0xFF#8 then set.getLsbD 1 else if e = 0#8 ∧ m = 0#23 then set.getLsbD 2
         else if e = 0#8 then set.getLsbD 3 else set.getLsbD 4) else ((s.coreAt n).rm rd.toNat).getLsbD j)

/-- Mask logic computes all 64 bits, whatever vmsel holds, and changes nothing else (R282). -/
def MaskLogicComputesAllBits : Prop :=
  ∀ p ∈ maskOps, ∀ (rd rs1 rs2 : BitVec 5) (stall : BitVec 3) (n : Nat) (s : State), s.run.cur = .core n → VectorReady n s →
    ∃ t, exec (p.1 rd rs1 rs2 stall) s = .next t ∧
      VectorRetires n s t 1 stall (32 + rd.toNat) ((p.2 ((s.coreAt n).rm rs1.toNat) ((s.coreAt n).rm rs2.toNat)).setWidth 512)

/-- Permutes: latency and the lane that lane j takes: a lane of vs1, or for `vmerge` the own lane of vs2 where it is not active (R283); `vid`
numbers the active lanes and `vzero` clears every lane (R288). -/
def PermutesMoveLanes : Prop :=
  ∀ (rd rs1 rs2 : BitVec 5) (stall : BitVec 3) (n : Nat) (s : State), s.run.cur = .core n → VectorReady n s →
    (let c := s.coreAt n
     let a := c.rv rs1
     let b := c.rv rs2
     let d := c.rv rd
     (∃ t w, exec (.vperm rd rs1 rs2 stall) s = .next t ∧ VectorRetires n s t 2 stall rd.toNat w ∧
       ∀ j, j < 16 → vlane w j = if c.active j then vlane a ((vlane b j).toNat % 16) else vlane d j) ∧
     (rs2.toNat < 16 → ∃ t w, exec (.vrot rd rs1 rs2 stall) s = .next t ∧ VectorRetires n s t 2 stall rd.toNat w ∧
       ∀ j, j < 16 → vlane w j = if c.active j then vlane a ((j + rs2.toNat) % 16) else vlane d j) ∧
     (rs2.toNat < 16 → ∃ t w, exec (.vbcast rd rs1 rs2 stall) s = .next t ∧ VectorRetires n s t 2 stall rd.toNat w ∧
       ∀ j, j < 16 → vlane w j = if c.active j then vlane a rs2.toNat else vlane d j) ∧
     (∃ t w, exec (.vmerge rd rs1 rs2 stall) s = .next t ∧ VectorRetires n s t 1 stall rd.toNat w ∧
       ∀ j, j < 16 → vlane w j = if c.active j then vlane a j else vlane b j) ∧
     (∃ t w, exec (.vid rd stall) s = .next t ∧ VectorRetires n s t 1 stall rd.toNat w ∧
       ∀ j, j < 16 → vlane w j = if c.active j then BitVec.ofNat 32 j else vlane d j) ∧
     ∃ t, exec (.vzero rd stall) s = .next t ∧ VectorRetires n s t 1 stall rd.toNat 0#512)

/-- Lane i of a register as a reduction sees it: an inactive lane contributes the identity (R284). -/
def contributes (c : Core) (a : BitVec 512) (id : BitVec 32) (i : Nat) : BitVec 32 := if c.active i then vlane a i else id

/-- The tree of R284 over sixteen lanes. -/
def tree16 (f : BitVec 32 → BitVec 32 → BitVec 32) (g : Nat → BitVec 32) : BitVec 32 :=
  f (f (f (f (g 0) (g 1)) (f (g 2) (g 3))) (f (f (g 4) (g 5)) (f (g 6) (g 7))))
    (f (f (f (g 8) (g 9)) (f (g 10) (g 11))) (f (f (g 12) (g 13)) (f (g 14) (g 15))))

/-- Reductions: constructor, identity, and how two lanes combine (R284). -/
noncomputable def reduceOps : List ((BitVec 5 → BitVec 5 → BitVec 3 → Instr) × BitVec 32 × (Core → BitVec 32 → BitVec 32 → BitVec 32)) :=
  [(.vredsumI32, 0#32, fun _ a b => a + b), (.vredmaxI32, 0x80000000#32, fun _ a b => BitVec.ofInt 32 (max a.toInt b.toInt)),
   (.vredminI32, 0x7FFFFFFF#32, fun _ a b => BitVec.ofInt 32 (min a.toInt b.toInt)),
   (.vredsumF32, 0x80000000#32, fun c a b => BitVec.ofNat 32 (fadd c .fp32 a.toNat b.toNat)),
   (.vredmaxF32, 0xFF800000#32, fun c a b => BitVec.ofNat 32 (fpick true c .fp32 a.toNat b.toNat)),
   (.vredminF32, 0x7F800000#32, fun c a b => BitVec.ofNat 32 (fpick false c .fp32 a.toNat b.toNat))]

/-- A reduction leaves the tree's value in lane 0 and zeros in the other lanes (R284). -/
def ReductionsFoldTheActiveLanes : Prop :=
  ∀ p ∈ reduceOps, ∀ (rd rs1 : BitVec 5) (stall : BitVec 3) (n : Nat) (s : State), s.run.cur = .core n → VectorReady n s →
    ∃ t, exec (p.1 rd rs1 stall) s = .next t ∧ VectorRetires n s t 6 stall rd.toNat
      ((tree16 (p.2.2 (s.coreAt n)) (contributes (s.coreAt n) ((s.coreAt n).rv rs1) p.2.1)).setWidth 512)

/-- The running value of a scan at lane j: the active lanes up to j, in ascending order, from the start value (R285). -/
def scanTo (f : BitVec 32 → BitVec 32 → BitVec 32) (start : BitVec 32) (c : Core) (a : BitVec 512) : Nat → BitVec 32
  | 0 => if c.active 0 then f start (vlane a 0) else start
  | j + 1 => if c.active (j + 1) then f (scanTo f start c a j) (vlane a (j + 1)) else scanTo f start c a j

/-- Each active lane j of a scan takes the running value at j; the others keep theirs (R285). -/
def ScansAccumulateTheActiveLanes : Prop :=
  ∀ (rd rs1 : BitVec 5) (stall : BitVec 3) (n : Nat) (s : State), s.run.cur = .core n → VectorReady n s →
    (let c := s.coreAt n
     (∃ t w, exec (.vscanI32 rd rs1 stall) s = .next t ∧ VectorRetires n s t 8 stall rd.toNat w ∧
       ∀ j, j < 16 → vlane w j = if c.active j then scanTo (fun a b => a + b) 0#32 c (c.rv rs1) j else vlane (c.rv rd) j) ∧
     ∃ t w, exec (.vscanF32 rd rs1 stall) s = .next t ∧ VectorRetires n s t 8 stall rd.toNat w ∧
       ∀ j, j < 16 → vlane w j = if c.active j then
         scanTo (fun a b => BitVec.ofNat 32 (fadd c .fp32 a.toNat b.toNat)) 0x80000000#32 c (c.rv rs1) j else vlane (c.rv rd) j)

/-- Conversions: constructor, source and destination format (R287). -/
noncomputable def convertOps : List ((BitVec 5 → BitVec 5 → BitVec 2 → BitVec 3 → BitVec 3 → Instr) × Fmt × Fmt) :=
  [(.vcvtBf16F32, .fp32, .bf16), (.vcvtF16F32, .fp32, .fp16), (.vcvtE4m3F32, .fp32, .e4m3), (.vcvtE5m2F32, .fp32, .e5m2),
   (.vcvtI8F32, .fp32, .int8), (.vcvtI32F32, .fp32, .int32), (.vcvtI8I32, .int32, .int8), (.vcvtF32I32, .int32, .fp32),
   (.vcvtF32Bf16, .bf16, .fp32), (.vcvtF32F16, .fp16, .fp32), (.vcvtF32E4m3, .e4m3, .fp32), (.vcvtF32E5m2, .e5m2, .fp32), (.vcvtI32I8, .int8, .int32)]

/-- Does a conversion round stochastically under SREN: a floating narrowing (R109, R287)? -/
def stochasticIn (c : Core) (dst : Fmt) : Bool :=
  c.csr.acfg.getLsbD 3 && (match dst with | .bf16 | .fp16 | .e4m3 | .e5m2 => true | _ => false)

/-- The element number of lane j on a side of format `f`: the part's sixteen elements on the narrower side (R287). -/
def sideElem (f : Fmt) (part : BitVec 2) (j : Nat) : Nat := if f.bits = 32 then j else 16 * part.toNat + j

/-- The modes under which position j of a conversion rounds: the field that R109 gives it when the conversion rounds stochastically (R287). -/
def convertModes (c : Core) (dst : Fmt) (j : Nat) : Modes :=
  { c.modes with round := if stochasticIn c dst then .stochastic (srField c.csr.srstate j) else c.modes.round }

/-- srstate after a conversion: four steps when it rounds stochastically (R109, R287). -/
def convertSeed (c : Core) (dst : Fmt) : Word := if stochasticIn c dst then srSteps c.csr.srstate 4 else c.csr.srstate

/-- A register after a conversion: each active element of the part converted, every other element of vd kept (R286, R287). -/
def Converted (c : Core) (src dst : Fmt) (part : BitVec 2) (rd rs1 : BitVec 5) (w : BitVec 512) : Prop :=
  (∀ j, j < 16 → c.active j = true → velem w dst.bits (sideElem dst part j) =
    (convert src dst (convertModes c dst j) (velem (c.rv rs1) src.bits (sideElem src part j))).1 % 2 ^ dst.bits) ∧
  ∀ e, e < 512 / dst.bits → (∀ j, j < 16 → c.active j = true → e ≠ sideElem dst part j) → velem w dst.bits e = velem (c.rv rd) dst.bits e

/-- A conversion without an event mask converts each active element, from and to the part that its word names, leaves every other element of
vd, steps the generator four times when it rounds stochastically, and changes nothing else (R109, R286, R287). -/
def ConversionsConvertTheActiveElements : Prop :=
  ∀ p ∈ convertOps, ∀ (rd rs1 : BitVec 5) (part : BitVec 2) (stall : BitVec 3) (n : Nat) (s : State),
    (p.1 rd rs1 part 0#3 stall).wf = true → s.run.cur = .core n → VectorReady n s →
    (let c := s.coreAt n
     ∃ t w, exec (p.1 rd rs1 part 0#3 stall) s = .next t ∧ Converted c p.2.1 p.2.2 part rd rs1 w ∧
       Retires n s t { c.setVreg rd.toNat w with
         vnext := issueCycle n s + 1 + stall.toNat, vpend := [⟨rd.toNat, issueCycle n s + 3, c.vreg rd.toNat, w, false⟩]
         csr := { c.csr with srstate := convertSeed c p.2.2 } } c.next)

/-- A conversion with an event mask does the same, and its mask collects in bits 15:0 the active positions whose conversion had an event, keeps those that it held, and has
bits 63:16 clear; both registers are written 3 cycles after the issue (R287). -/
def ConversionsCollectEventsInAMask : Prop :=
  ∀ p ∈ convertOps, ∀ (rd rs1 : BitVec 5) (part : BitVec 2) (em stall : BitVec 3) (n : Nat) (s : State), em ≠ 0#3 →
    (p.1 rd rs1 part em stall).wf = true → s.run.cur = .core n → VectorReady n s →
    (let c := s.coreAt n
     let g := 32 + em.toNat
     ∃ t w k, exec (p.1 rd rs1 part em stall) s = .next t ∧ Converted c p.2.1 p.2.2 part rd rs1 w ∧ (∀ j, 16 ≤ j → k.getLsbD j = false) ∧
       (∀ j, j < 16 → k.getLsbD j = ((c.rm em.toNat).getLsbD j ||
         (c.active j && (convert p.2.1 p.2.2 (convertModes c p.2.2 j) (velem (c.rv rs1) p.2.1.bits (sideElem p.2.1 part j))).2.any))) ∧
       Retires n s t { (c.setVreg rd.toNat w).setVreg g k with
         vnext := issueCycle n s + 1 + stall.toNat
         vpend := [⟨g, issueCycle n s + 3, c.vreg g, k, false⟩, ⟨rd.toNat, issueCycle n s + 3, c.vreg rd.toNat, w, false⟩]
         csr := { c.csr with srstate := convertSeed c p.2.2 } } c.next)

/-- A custom-0 instruction that would read or write a register whose last earlier custom-0 writer has not written it yet raises cause 24 with its
word when scbchk.EN is 1, and writes nothing (R48): shown for the 32-bit lane operations. -/
def UnderrunsTrapUnderTheCheck : Prop :=
  ∀ p ∈ laneOps, ∀ (rd rs1 rs2 : BitVec 5) (stall : BitVec 3) (n : Nat) (s : State) (newer older : List VPend) (q : VPend),
    s.run.cur = .core n → (s.coreAt n).vpend = newer ++ q :: older → (∀ p ∈ newer, p.reg ≠ q.reg) → issueCycle n s < q.fin → q.reg = rd.toNat ∨ q.reg = rs1.toNat ∨ q.reg = rs2.toNat →
    (s.coreAt n).csr.scbchk = 1#1 →
    exec (p.1 rd rs1 rs2 stall) s = .next (s.takeTrapK n 24 ((s.coreAt n).iw.setWidth 64) 0xFF)

/-- `vrep` of one `vand` word repeats it k times, moving each register field that its smask selects on by its step, modulo 32; the words
after it are skipped (R289). With more than 16 repetitions it raises cause 2. -/
def VrepRepeatsAndStaggers : Prop :=
  ∀ (rs1 vd va vb : BitVec 5) (stp : BitVec 2) (smask stall st : BitVec 3) (w : IWord) (n : Nat) (s : State), s.run.cur = .core n →
    VectorReady n s →
    (let c := s.coreAt n
     let k := (c.rx rs1).toNat
     let at_ (b i : Nat) (r : BitVec 5) : Nat := if smask.getLsbD b then (r.toNat + i * 2 ^ stp.toNat) % 32 else r.toNat
     (16 < k → exec (.vrep rs1 0#5 stp smask stall) s = .next (s.takeTrapK n 2 (c.iw.setWidth 64) 0xFF)) ∧
     (k ≤ 16 → c.csr.dsel = 0#4 → c.csr.vmsel.getLsbD 3 = true → s.fetchAfter n c.pc 1 = .ok [w] → decode w = .ok (.vand vd va vb st) →
       ∃ t, exec (.vrep rs1 0#5 stp smask stall) s = .next t ∧ (t.coreAt n).pc = c.pc + 8#64 ∧ (t.coreAt n).x = c.x ∧ (t.coreAt n).m = c.m ∧
         (t.coreAt n).v = (List.range k).foldl (fun v i =>
           v.setIfInBounds (at_ 0 i vd) (v.getD (at_ 1 i va) 0#512 &&& v.getD (at_ 2 i vb) 0#512)) c.v ∧ OthersKept n s t ∧ OutsideKept s t))

/-! Custom-1. -/

/-- A custom-1 instruction has retired: the core stands as `c` but for the cycle in which its vector unit may issue again, which has not
moved back and is no earlier than the end of every custom-0 write of a register in `l` (R47). -/
def WaitsAndRetires (n : Nat) (s t : State) (l : List Nat) (c : Core) : Prop :=
  ∃ v, (s.coreAt n).vnext ≤ v ∧ (∀ p ∈ (s.coreAt n).vpend, l.contains p.reg = true → p.fin ≤ v) ∧
    Retires n s t { c with vnext := v } (s.coreAt n).next

/-- Moves between lanes, masks and x registers: what each reads, writes and waits for (R47, R299). -/
def MovesBetweenRegisterFiles : Prop :=
  ∀ (rd rs1 r : BitVec 5) (n : Nat) (s : State), s.run.cur = .core n →
    (let c := s.coreAt n
     (r.toNat < 16 → ∃ t, exec (.vext rd rs1 r) s = .next t ∧
       WaitsAndRetires n s t [rs1.toNat] (c.wx rd (BitVec.ofInt 64 (vlane (c.rv rs1) r.toNat).toInt))) ∧
     (r.toNat < 16 → ∃ t w, exec (.vins rd rs1 r) s = .next t ∧ WaitsAndRetires n s t [rd.toNat] (c.wv rd w) ∧
       ∀ j, j < 16 → vlane w j = if j = r.toNat then (c.rx rs1).setWidth 32 else vlane (c.rv rd) j) ∧
     (∃ t w, exec (.vsplat rd rs1) s = .next t ∧ WaitsAndRetires n s t [c.maskReg, rd.toNat] (c.wv rd w) ∧
       ∀ j, j < 16 → vlane w j = if c.active j then (c.rx rs1).setWidth 32 else vlane (c.rv rd) j) ∧
     (rs1.toNat < 8 → ∃ t, exec (.mtox rd rs1) s = .next t ∧ WaitsAndRetires n s t [32 + rs1.toNat] (c.wx rd (c.rm rs1.toNat))) ∧
     (rd.toNat < 8 → ∃ t, exec (.xtom rd rs1) s = .next t ∧ WaitsAndRetires n s t [32 + rd.toNat] (c.wm rd.toNat (c.rx rs1))) ∧
     (rs1.toNat < 8 → ∃ t, exec (.mpopc rd rs1) s = .next t ∧ WaitsAndRetires n s t [32 + rs1.toNat]
       (c.wx rd (BitVec.ofNat 64 ((List.range 64).map (fun i => if (c.rm rs1.toNat).getLsbD i then 1 else 0)).sum))))

/-- Bytes of the own scratchpad as core `n` sees them: its own waiting stores lie over them (R172). -/
def seenBytes (n : Nat) (s : State) (off size : Nat) : List Byte := (s.coreAt n).forwarded s.mem (kPad n off) (s.mem.readBytes (kPad n off) size)

/-- `vld`, `vld.bc` and `vld.mh` from the own scratchpad write the loaded words to the active elements of vd and keep the others; `vld` and
`vld.bc` raise the clock to the scratchpad's SCM when an element is active, and `vld.mh` changes no clock (R258, R294, R298; log 81). -/
def VectorLoadsReadTheOwnScratchpad : Prop :=
  ∀ (rd rs1 : BitVec 5) (i : BitVec 8) (off n : Nat) (s : State), s.run.cur = .core n →
    (let c := s.coreAt n
     let c' := c.clocked c.scm
     (∀ ld ∈ [(Instr.vld rd rs1 i, c'), (Instr.vldMh rd rs1 i, c)], c.rx rs1 + BitVec.ofInt 64 (64 * i.toInt) = ownPad off → off % 64 = 0 →
       PadReadable n s off 64 →
       ∃ t w, exec ld.1 s = .next t ∧ WaitsAndRetires n s t [c.maskReg, rd.toNat] (if (c.actives 16).isEmpty then c else ld.2.wv rd w) ∧
         ∀ e, e < 16 → velem w 32 e = if c.active e then bytesToNat (((seenBytes n s off 64).drop (4 * e)).take 4) else velem (c.rv rd) 32 e) ∧
     (c.rx rs1 + BitVec.ofInt 64 (4 * i.toInt) = ownPad off → PadReadable n s off 4 →
       ∃ t w, exec (.vldBc rd rs1 i) s = .next t ∧ WaitsAndRetires n s t [c.maskReg, rd.toNat] (if (c.actives 16).isEmpty then c else c'.wv rd w) ∧
         ∀ e, e < 16 → velem w 32 e = if c.active e then bytesToNat (seenBytes n s off 4) else velem (c.rv rd) 32 e))

/-- `vst` to the own scratchpad puts one store of the active elements' bytes behind the others in the store buffer, and changes no byte of
memory (R125, R294). -/
def VectorStoresEnterTheStoreBuffer : Prop :=
  ∀ (rd rs1 : BitVec 5) (i : BitVec 8) (off n : Nat) (s : State), s.run.cur = .core n →
    (let c := s.coreAt n
     c.rx rs1 + BitVec.ofInt 64 (64 * i.toInt) = ownPad off → off % 64 = 0 → PadWritable n s off 64 → c.sb.length < 32 →
     ∃ t, exec (.vst rd rs1 i) s = .next t ∧
       WaitsAndRetires n s t [c.maskReg, rd.toNat] (if (c.actives 16).isEmpty then c else { c with
         sb := c.sb ++ [⟨.scratch n off, (List.range 64).map (fun b => if c.active (b / 4) then some (getByte (c.rv rd) b) else none), c.asid⟩] }))

/-- The scratchpad offset that lane j of a gather or scatter reaches is `o j` (R296). -/
def LanesReach (n : Nat) (s : State) (rs1 rs2 : BitVec 5) (aux : BitVec 2) (o : Nat → Nat) : Prop :=
  ∀ j ∈ (s.coreAt n).actives 16,
    (s.coreAt n).rx rs1 + BitVec.ofInt 64 ((vlane ((s.coreAt n).rv rs2) j).toInt * 2 ^ aux.toNat) = ownPad (o j)

/-- The four bytes of lane j of a register, as a store holds them. -/
def laneBytes (v : BitVec 512) (j : Nat) : List (Option Byte) := (natToBytes 4 (velem v 32 j)).map some

/-- `vgather` and `vscatter` over readable and writable words of the own scratchpad: each active lane loads its word, and the inactive elements
of vd stay; each active lane's store stands behind the others in the store buffer, lane after lane, and no byte of memory changes yet (R259,
R292, R296). -/
def GathersAndScattersReachEachActiveLane : Prop :=
  ∀ (rd rs1 rs2 : BitVec 5) (aux : BitVec 2) (o : Nat → Nat) (n : Nat) (s : State), s.run.cur = .core n → LanesReach n s rs1 rs2 aux o →
    (let c := s.coreAt n
     ((∀ j ∈ c.actives 16, PadReadable n s (o j) 4) →
       ∃ t w, exec (.vgather rd rs1 rs2 aux) s = .next t ∧
         WaitsAndRetires n s t [c.maskReg, rd.toNat, rs2.toNat] ((if (c.actives 16).isEmpty then c else c.clocked c.scm).wv rd w) ∧
         ∀ e, e < 16 → velem w 32 e = if c.active e then bytesToNat (seenBytes n s (o e) 4) else velem (c.rv rd) 32 e) ∧
     ((∀ j ∈ c.actives 16, PadWritable n s (o j) 4) → c.sb.length + (c.actives 16).length ≤ 32 →
       ∃ t, exec (.vscatter rd rs1 rs2 aux) s = .next t ∧ WaitsAndRetires n s t [c.maskReg, rd.toNat, rs2.toNat]
         { c with sb := c.sb ++ (c.actives 16).map (fun j => ⟨.scratch n (o j), laneBytes (c.rv rd) j, c.asid⟩) }))

/-- The lane-slice forms: lane j reaches its own slice of 4,096 bytes at the offset of its form; active lanes load their words there, or one store
of all their words enters the store buffer (R259, R297). -/
def LaneSlicesBelongToTheirLanes : Prop :=
  ∀ (rd rs1 rs2 : BitVec 5) (i : BitVec 8) (n : Nat) (s : State), s.run.cur = .core n →
    (let c := s.coreAt n
     let direct (_ : Nat) : Nat := (c.rx rs1 + BitVec.ofInt 64 (4 * i.toInt)).toNat
     let indexed (j : Nat) : Nat := (c.rx rs1 + BitVec.ofNat 64 (vlane (c.rv rs2) j).toNat).toNat
     let place (o : Nat → Nat) (j : Nat) : Nat := 0x20000 + j * 0x1000 + o j
     let c' := c.clocked c.scm
     (∀ p ∈ [(Instr.vlsl rd rs1 i, direct, [c.maskReg, rd.toNat]), (Instr.vlslx rd rs1 rs2, indexed, [c.maskReg, rd.toNat, rs2.toNat])],
       (∀ j ∈ c.actives 16, p.2.1 j < 4096 ∧ PadReadable n s (place p.2.1 j) 4) →
       ∃ t w, exec p.1 s = .next t ∧ WaitsAndRetires n s t p.2.2 (if (c.actives 16).isEmpty then c else c'.wv rd w) ∧
         ∀ e, e < 16 → velem w 32 e = if c.active e then bytesToNat (seenBytes n s (place p.2.1 e) 4) else velem (c.rv rd) 32 e) ∧
     ∀ p ∈ [(Instr.vsls rd rs1 i, direct, [c.maskReg, rd.toNat]), (Instr.vslsx rd rs1 rs2, indexed, [c.maskReg, rd.toNat, rs2.toNat])],
       (∀ j ∈ c.actives 16, p.2.1 j < 4096 ∧ PadWritable n s (place p.2.1 j) 4) → c.sb.length < 32 →
       ∃ t, exec p.1 s = .next t ∧ WaitsAndRetires n s t p.2.2 (if (c.actives 16).isEmpty then c else { c with
         sb := c.sb ++ [⟨.words n ((c.actives 16).map (place p.2.1)), (c.actives 16).flatMap (laneBytes (c.rv rd)), c.asid⟩] }))

/-- The hints, with the address each computes (R298). -/
noncomputable def hintOps : List (BitVec 5 → BitVec 8 → Instr) := [.prefL1, .prefLlc, .rsdKeep, .rsdDrop]

/-- A hint whose address a 1-byte load may not read retires and counts in hintdrop; one that names the own scratchpad only retires (R241, R298). -/
def HintsNeverTrap : Prop :=
  ∀ h ∈ hintOps, ∀ (rs1 : BitVec 5) (i : BitVec 8) (off n : Nat) (s : State), s.run.cur = .core n →
    (let c := s.coreAt n
     let ea := c.rx rs1 + BitVec.ofInt 64 (128 * i.toInt)
     (2 ^ 55 ≤ ea.toNat → ∃ t, exec (h rs1 i) s = .next t ∧ Retires n s t { c with
       csr := { c.csr with hintdrop := if c.csr.hintdrop = 0xFFFFFFFF#32 then c.csr.hintdrop else c.csr.hintdrop + 1#32 } } c.next) ∧
     (ea = ownPad off → PadReadable n s off 1 → ∃ t, exec (h rs1 i) s = .next t ∧ Retires n s t c c.next))

/-- A hint on a line of the package scratchpad that its home holds, free of host holds: `pref.l1` brings it into a set of L1 with room,
`pref.llc` and `rsd.keep` make it the most recently used at home, `rsd.drop` takes it out of L1 and makes it the least recently used: a leased copy is dropped, an owned clean
one clears OV at the home, an owned dirty one is written back with its timestamps first; none moves the clock or writes a register (R133, R298). -/
def HintsMoveTheLine : Prop :=
  ∀ (rs1 : BitVec 5) (i : BitVec 8) (off n : Nat) (s : State) (l : LlcLine), s.run.cur = .core n →
    (let c := s.coreAt n
     let key := kPkg c.ten off
     c.rx rs1 + BitVec.ofInt 64 (128 * i.toInt) = BitVec.ofNat 64 (0x20000000000 + off) → off < s.pkgBytes c.ten → off < 2 ^ 34 →
     let drops (t : State) (last : LlcLine) : Prop := exec (.rsdDrop rs1 i) s = .next t ∧ t.home.llc.getLast? = some last ∧
       CoreBecomes n s t { c with l1 := l1Drop c.l1 (lineOf key) } c.next ∧ OthersKept n s t
     s.anyPoison key 1 = false → s.llcFind (lineOf key) = some l → (s.dirTouch (lineOf key)).conflicts (lineOf key) 1 1 4 = [] →
     (l.ov = false → ((l1Drop c.l1 (lineOf key)).filter (fun b => decide (b.line % 64 = lineOf key % 64))).length < 8 →
       ∃ t, exec (.prefL1 rs1 i) s = .next t ∧ (l1Find (t.coreAt n).l1 (lineOf key)).isSome = true ∧ (t.coreAt n).csr.lclk = c.csr.lclk ∧
         (t.coreAt n).x = c.x ∧ (t.coreAt n).v = c.v ∧ (t.coreAt n).pc = c.next ∧ SameMem s t) ∧
     (l.ov = false → ∀ h ∈ [Instr.prefLlc, Instr.rsdKeep], ∃ t, exec (h rs1 i) s = .next t ∧ t.home.llc.head? = some l ∧ Retires n
       { s with home := t.home } t c c.next) ∧
     ((∀ a, l1Find c.l1 (lineOf key) = some a → a.owned = false) → ∃ t, drops t l ∧ OutsideKept { s with home := t.home } t) ∧
     ∀ a, l1Find c.l1 (lineOf key) = some a → a.owned = true →
       (a.hdirty = 0#2 → ∃ t, drops t { l with ov := false } ∧ OutsideKept { s with home := t.home } t) ∧
       (a.hdirty ≠ 0#2 → ∃ t, drops t { l with ov := false, wts := a.wts, rts := a.fin } ∧
         (∀ k, k < 128 → t.mem.byte (lineOf key * 128 + k) = if a.hdirty.getLsbD (k / 64) then a.data.extractLsb' (8 * k) 8 else s.mem.byte (lineOf key * 128 + k)) ∧
         ∀ k, (k < lineOf key * 128 ∨ lineOf key * 128 + 128 ≤ k) → t.mem.byte k = s.mem.byte k))

/-- With no store waiting, `wcfg` writes a consistent entry to a prism window and `wrd` reads one; reserved bits, and a valid entry that is not consistent, raise
cause 28 with the window's first address (R94, R98). -/
def WindowEntriesAreChecked : Prop :=
  ∀ (rd rs1 k : BitVec 5) (n : Nat) (s : State), k.toNat < 16 → s.run.cur = .core n →
    (let c := s.coreAt n
     let e := c.rx rs1
     let good := e.extractLsb' 60 3 = 0#3 ∧ e.extractLsb' 50 3 = 0#3 ∧ (e.getLsbD 63 = true → winConsistent e = true)
     (good → c.sb = [] → ∃ t, exec (.wcfg rs1 k) s = .next t ∧ Retires n s t { c with win := c.win.setIfInBounds k.toNat e } c.next) ∧
     (¬ good → exec (.wcfg rs1 k) s = .next (s.takeTrapK n 28 (BitVec.ofNat 64 (0x22010000000 + k.toNat * 0x1000000)) 0xFF)) ∧
     (c.sb = [] → ∃ t, exec (.wrd rd k) s = .next t ∧ Retires n s t (c.wx rd (c.win.getD k.toNat 0#64)) c.next))

/-! Custom-2: the matrix array. -/

/-- A cluster less what a matrix instruction of its lease holder on one tile may change: its accumulator rows, the poison, status, progress and
scale of the tile, and the lease's idle count. -/
def Cluster.besidesTile (k : Cluster) (tile : Nat) : Cluster :=
  { k with
    acc := [], accPoison := k.accPoison.filter (fun p => !decide (p.1 / 64 = tile)), lidle := 0, status := k.status.setIfInBounds tile 0#64, prog := k.prog.setIfInBounds tile 0#64
    scale := k.scale.setIfInBounds tile ⟨false, 0#512, 0#768⟩ }

/-- No word of a tile is poisoned (R246). -/
def TileClean (s : State) (c tile : Nat) : Prop := ∀ p ∈ (s.clusterAt c).accPoison, p.1 / 64 ≠ tile

/-- No byte that a multiply reads of its two entries is poisoned (R246, R310). -/
def OperandsClean (s : State) (c : Nat) (fmt : BitVec 3) (ea eb k : Nat) : Prop :=
  s.clPoisoned c (entryReads (mmaFmt fmt) ea 64 k ++ entryReads (mmaFmt fmt) eb 96 k) = none

/-- Element j of row i of a tile. -/
def accElem (s : State) (c tile i j : Nat) : Nat := rowElem (s.accRow c tile i) j

/-- A matrix instruction of core `n` on a tile has retired and the core stands as `d`: rows of other tiles, every other part of the cluster, every
other cluster and the rest of the module but memory are as before. -/
def TileMoves (n tile : Nat) (s t : State) (d : Core) : Prop :=
  CoreBecomes n s t d (s.coreAt n).next ∧ OthersKept n s t ∧ t.time = s.time ∧ t.home = s.home ∧ t.tabs = s.tabs ∧ t.disp = s.disp ∧
    t.net = s.net ∧ t.engines = s.engines ∧ (∀ k, k ≠ clusterOf n → t.clusterAt k = s.clusterAt k) ∧
    Cluster.besidesTile (t.clusterAt (clusterOf n)) tile = Cluster.besidesTile (s.clusterAt (clusterOf n)) tile ∧
    ∀ i u, u ≠ tile → i < 64 → t.accRow (clusterOf n) u i = s.accRow (clusterOf n) u i

/-- The same, and every byte of memory is as before. -/
def TileRetires (n tile : Nat) (s t : State) (d : Core) : Prop := TileMoves n tile s t d ∧ SameMem s t

/-- Instructions that need the array's lease raise cause 26 with the cluster's number without it, and do nothing (R308). -/
def MatrixInstructionsNeedTheLease : Prop :=
  ∀ (i : Instr) (n : Nat) (s : State), s.run.cur = .core n → s.leaseHeld n = false →
    (i = .mrel ∨ (∃ a b k f c m, i = .mma a b k f c m) ∨ (∃ a b f d c, i = .maccSt a b f d c) ∨ (∃ c, i = .maccClr c) ∨ (∃ a b c, i = .maccLd a b c) ∨
      (∃ r c, i = .mstat r c ∨ i = .mstatClr r c ∨ i = .mprog r c) ∨ (∃ c, i = .mprogClr c)) →
    exec i s = .next (s.takeTrapK n 26 (BitVec.ofNat 64 (clusterOf n)) 0xFF)

/-- How far the rank of a core stands behind a lease's previous holder in the order of grant, modulo 16 (R306). -/
def grantDistance (k : Cluster) (n : Nat) : Nat := match k.lastHolder with | some p => (n + 15 - p % 16) % 16 | none => n % 16

/-- The latest release of a cluster's lease is complete: an `mrel` is so as it retires, and a core whose task ended with the lease once its stores
are performed (R18, R307, R309). -/
def LeaseReleased (s : State) (c : Nat) : Prop := ∀ p, (s.clusterAt c).relFrom = some p → (s.coreAt p).sb = []

/-- The lease: `mlease` answers the previous holder's rank, or 16, after a grant and the own rank to a core that held it already, and waits for a
lease that is not held; `mlease.try` takes a free one that no core waits for, answers 1 to a holder and 0 otherwise; `mrel` frees it,
remembering its holder and its clock (R306, R307). That `mlease.try` answers 0 on a free lease for which cores wait, or whose last holder's task
ended with stores not yet performed, is the model's choice (log 87). -/
def LeasesAreTakenAndFreed : Prop :=
  ∀ (rd : BitVec 5) (n : Nat) (s : State), s.run.cur = .core n →
    (let cl := clusterOf n
     let k := s.clusterAt cl
     let c := s.coreAt n
     let others (t : State) : Prop := OthersKept n s t ∧ ∀ j, j ≠ cl → t.clusterAt j = s.clusterAt j
     (s.leaseHeld n = true → ∃ t, exec (.mlease rd) s = .next t ∧ t.clusterAt cl = k ∧ others t ∧
       CoreBecomes n s t (c.wx rd (BitVec.ofNat 64 (match c.contrib with | .granted p => p | _ => n % 16))) c.next) ∧
     (s.leaseHeld n = false → ∃ t, exec (.mlease rd) s = .next t ∧ t.coreAt n = { c with wait := .lease } ∧ others t ∧
       t.clusterAt cl = { k with lwait := if k.lwait.contains n then k.lwait else k.lwait ++ [n] }) ∧
     (s.leaseHeld n = true → ∃ t, exec (.mleaseTry rd) s = .next t ∧ t.clusterAt cl = k ∧ others t ∧ CoreBecomes n s t (c.wx rd 1#64) c.next) ∧
     (k.holder = none → k.lwait = [] → LeaseReleased s cl → ∃ t, exec (.mleaseTry rd) s = .next t ∧
       t.clusterAt cl = { k with holder := some (s.logicalOf n), lidle := 0, relFrom := none, relClk := s.leaseClock cl } ∧ others t ∧
       CoreBecomes n s t ((c.clocked (s.leaseClock cl)).wx rd 1#64) c.next) ∧
     (s.leaseHeld n = false → k.holder ≠ none ∨ k.lwait ≠ [] ∨ ¬ LeaseReleased s cl → ∃ t, exec (.mleaseTry rd) s = .next t ∧ Retires n s t (c.wx rd 0#64) c.next) ∧
     (s.leaseHeld n = true → c.sb = [] → ∃ t, exec .mrel s = .next t ∧
       t.clusterAt cl = { k with
         lwait := k.lwait.filter (fun m => !decide (m = n)), holder := none, lastHolder := k.holder, lidle := 0,
         relClk := max k.relClk c.issued.csr.lclk } ∧
       others t ∧ CoreBecomes n s t c.issued c.next))

/-- A free lease whose previous holder has released is granted, as a cycle passes, to the waiting core whose rank comes first after the previous
holder's, modulo 16; its clock takes the releaser's. That the grant falls at the end of the cycle is the model's choice (R306; log 87). -/
def FreeLeasesAreGrantedInRankOrder : Prop :=
  ∀ (s : State) (cl n : Nat), Tbl.wf Cluster.gated s.clusters = true →
    (let k := s.clusterAt cl
     k.holder = none → n ∈ k.lwait → (∀ m ∈ k.lwait, clusterOf m = cl) → (∀ m ∈ k.lwait, m ≠ n → grantDistance k n < grantDistance k m) →
     LeaseReleased s cl →
     ((s.pass 1).clusterAt cl).holder = some (s.logicalOf n) ∧ ((s.pass 1).clusterAt cl).lwait = k.lwait.filter (fun m => !decide (m = n)) ∧
       ((s.pass 1).coreAt n).contrib = .granted (match k.lastHolder with | some p => p % 16 | none => 16) ∧
       s.leaseClock cl ≤ ((s.pass 1).coreAt n).csr.lclk ∧ ((s.pass 1).coreAt n).x = (s.coreAt n).x)

/-- The signed byte k of line i of an operand entry: 32 bytes a line for INT8 (R310). -/
def int8At (s : State) (c o i k : Nat) : Int := (s.clByte c (o + 32 * i + k)).toInt

/-- The sum of products k = lo to hi − 1 of row i of A and column j of B. -/
def int8Dot (s : State) (c ea eb i j lo hi : Nat) : Int :=
  (((List.range hi).drop lo).map (fun k => int8At s c ea i k * int8At s c eb j k)).sum

/-- A saturating 32-bit addition (R112). -/
def addSat (a : Nat) (i : Int) : Int := satS 32 ((BitVec.ofNat 32 a).toInt + i)

/-- An INT8 `mma` whose rings serve and hold an entry each: every element of the tile takes its dot product over K in two saturating chunks of at
most 16 products; ring B is popped, ring A too unless KEEPA is set; the progress word is cleared; nothing else changes (R112, R315). -/
def Int8MultiplyAccumulates : Prop :=
  ∀ (ra rb : BitVec 5) (ka : BitVec 1) (acc : BitVec 3) (km1 : BitVec 5) (n : Nat) (s : State), s.run.cur = .core n →
    (let c := s.coreAt n
     let cl := clusterOf n
     let qa := c.ring ra
     let qb := c.ring rb
     let ea := ringAt qa (ringHead qa)
     let eb := ringAt qb (ringHead qb)
     let mid := min 16 (km1.toNat + 1)
     s.leaseHeld n = true → c.sb = [] → ra ≠ rb → ra.toNat < 16 → rb.toNat < 16 → ringServes qa 4#3 false = true →
     ringServes qb 4#3 true = true → ringCnt qa ≠ 0 → ringCnt qb ≠ 0 → (s.clusterAt cl).badRow = none → TileClean s cl acc.toNat → OperandsClean s cl 4#3 ea eb (km1.toNat + 1) →
     ((s.clusterAt cl).prog.getD acc.toNat 0#64).getLsbD 7 = false →
     ∃ t, exec (.mma ra rb ka 4#3 acc km1) s = .next t ∧
       TileRetires n acc.toNat s t (((if ka = 0#1 then c.issued.setRing ra (ringPop qa) else c.issued)).setRing rb (ringPop qb)) ∧
       (t.clusterAt cl).prog.getD acc.toNat 0#64 = 0#64 ∧
       ∀ i j, i < 64 → j < 96 → (BitVec.ofNat 32 (accElem t cl acc.toNat i j)).toInt =
         addSat (BitVec.ofInt 32 (addSat (accElem s cl acc.toNat i j) (int8Dot s cl ea eb i j 0 mid))).toNat
           (int8Dot s cl ea eb i j 16 (km1.toNat + 1)))

/-- An `mma` of any operand format whose rings serve and hold an entry each retires: it pops ring B, and ring A unless KEEPA is set, and clears
the tile's progress word; other tiles and all else stay. A ring that does not serve raises cause 25 with its number, ring A's first, and two names of
one ring raise it with ring B's; an empty ring makes the core wait (R315). -/
def MultiplyConsumesItsOperands : Prop :=
  ∀ (ra rb : BitVec 5) (ka : BitVec 1) (fmt acc : BitVec 3) (km1 : BitVec 5) (n : Nat) (s : State), fmt.toNat < 6 → s.run.cur = .core n →
    (let c := s.coreAt n
     let cl := clusterOf n
     let qa := c.ring ra
     let qb := c.ring rb
     s.leaseHeld n = true → c.sb = [] → ra.toNat < 16 → rb.toNat < 16 →
     (ra ≠ rb → ringServes qa fmt false = true → ringServes qb fmt true = true → ringCnt qa ≠ 0 → ringCnt qb ≠ 0 →
       (s.clusterAt cl).badRow = none → TileClean s cl acc.toNat →
       OperandsClean s cl fmt (ringAt qa (ringHead qa)) (ringAt qb (ringHead qb)) (km1.toNat + 1) → ∃ t, exec (.mma ra rb ka fmt acc km1) s = .next t ∧
         TileRetires n acc.toNat s t (((if ka = 0#1 then c.issued.setRing ra (ringPop qa) else c.issued)).setRing rb (ringPop qb)) ∧
         (t.clusterAt cl).prog.getD acc.toNat 0#64 = 0#64) ∧
     (ra = rb ∨ ringServes qa fmt false = false ∨ ringServes qb fmt true = false → ∃ t, exec (.mma ra rb ka fmt acc km1) s = .next t ∧
       (t.coreAt n).x = c.x ∧ (t.coreAt n).q = c.q ∧ (∀ i, i < 64 → t.accRow cl acc.toNat i = s.accRow cl acc.toNat i) ∧
       (s.trapsSelf n 25 = true → (t.coreAt n).sup.scause = 25#64 ∧
         (t.coreAt n).sup.stval = BitVec.ofNat 64 (if ra = rb ∨ ringServes qa fmt false = true then rb.toNat else ra.toNat))) ∧
     (ra ≠ rb → ringServes qa fmt false = true → ringServes qb fmt true = true → ringCnt qa = 0 ∨ ringCnt qb = 0 →
       ∃ t, exec (.mma ra rb ka fmt acc km1) s = .next t ∧ (t.coreAt n).wait = .ring ∧ (t.coreAt n).pc = c.pc ∧ (t.coreAt n).q = c.q))

/-- `macc.clr` clears every element of its tile, its scale record's RV and its progress word, and leaves its counters (R317). -/
def ClearZeroesTheTile : Prop :=
  ∀ (acc : BitVec 3) (n : Nat) (s : State), s.run.cur = .core n →
    (let cl := clusterOf n
     s.leaseHeld n = true → (s.coreAt n).sb = [] →
     ∃ t, exec (.maccClr acc) s = .next t ∧ CoreBecomes n s t (s.coreAt n).issued (s.coreAt n).next ∧ OthersKept n s t ∧ SameMem s t ∧
       (∀ i j, i < 64 → j < 96 → accElem t cl acc.toNat i j = 0) ∧ ((t.clusterAt cl).scale.getD acc.toNat ⟨true, 0#512, 0#768⟩).rv = false ∧
       (t.clusterAt cl).prog.getD acc.toNat 0#64 = 0#64 ∧ (t.clusterAt cl).status = (s.clusterAt cl).status ∧ TileClean t cl acc.toNat ∧
       (∀ e : Nat × BitVec 3072, e ∈ (t.clusterAt cl).acc ↔ e ∈ (s.clusterAt cl).acc ∧ ¬ (64 * acc.toNat ≤ e.1 ∧ e.1 < 64 * acc.toNat + 64)) ∧
       ∀ k, k ≠ cl → t.clusterAt k = s.clusterAt k)

/-- `macc.ld` of rows in the own scratchpad gives every element of the tile its word, and clears RV and the progress word (R317, R318). -/
def AccumulatorLoadsReadRows : Prop :=
  ∀ (ra rb : BitVec 5) (acc : BitVec 3) (off st n : Nat) (s : State), s.run.cur = .core n →
    (let c := s.coreAt n
     let cl := clusterOf n
     s.leaseHeld n = true → c.sb = [] → c.reply = .none → c.rx ra = ownPad off → c.rx rb = BitVec.ofNat 64 st → off % 32 = 0 → st % 32 = 0 →
     off + 63 * st + 384 ≤ 0x40000 → (∀ i, i < 64 → s.inWs n (off + i * st) 384 = false ∧ s.anyPoison (kPad n (off + i * st)) 384 = false) →
     ((s.clusterAt cl).prog.getD acc.toNat 0#64).getLsbD 7 = false →
     ∃ t, exec (.maccLd ra rb acc) s = .next t ∧ TileRetires n acc.toNat s t (c.issued.clocked c.scm) ∧
       (t.clusterAt cl).prog.getD acc.toNat 0#64 = 0#64 ∧ ((t.clusterAt cl).scale.getD acc.toNat ⟨true, 0#512, 0#768⟩).rv = false ∧
       ∀ i j, i < 64 → j < 96 → accElem t cl acc.toNat i j = s.mem.read (kPad n (off + i * st + 4 * j)) 4)

/-- The rows that an instruction on a tile processes: all 64, or from ROW on where ACT is 1 (R321). -/
def rowsFrom (prog : Word) : List Nat := (List.range 64).drop (if prog.getLsbD 7 then (prog.extractLsb' 0 7).toNat else 0)

/-- The element and the events that `macc.st` gives for element `a` of row `i` and column `j`: an FP32 tile is converted under the modes of acfg, and
an INT32 tile is kept, saturated to INT8, or scaled by its row's and its column's scale bytes and converted (R100, R105, R319). -/
def storedElem (int : Bool) (d : Fmt) (m : Modes) (k : Scale) (i j a : Nat) : Nat × Events :=
  let v := (BitVec.ofNat 32 a).toInt
  let sr := if k.rv then (getByte k.rsc i).toNat else 127
  let sc := if k.rv then (getByte k.csc j).toNat else 127
  let scaled := (Fmt.fp32.encode m ((Num.ofInt v).scale ((sr : Int) + sc - 254))).1
  let big : Events := ⟨decide (scaled % 2 ^ 31 = 0x7F800000), false, false, false⟩
  if int = false then
    if d ≠ .fp32 then convert .fp32 d m a
    else if 0x7F800000 < a % 2 ^ 31 then (0x7FC00000, Events.none)
    else (if m.ftz = true ∧ a / 2 ^ 23 % 256 = 0 then a / 2 ^ 31 * 2 ^ 31 else a, Events.none)
  else if d = .int32 then (a, Events.none)
  else if d = .int8 then ((BitVec.ofInt 8 (max (-128) (min 127 v))).toNat, ⟨false, false, false, decide (v < -128 ∨ 127 < v)⟩)
  else if sr = 255 ∨ sc = 255 then (d.canonNan, ⟨false, true, false, false⟩)
  else if d = .fp32 then (scaled, big)
  else ((convert .fp32 d m scaled).1, (convert .fp32 d m scaled).2.or big)

/-- The elements and events of row `i` of a tile as `macc.st` of core `n` converts it. -/
def storedRow (n : Nat) (s : State) (tile : Nat) (int : Bool) (d : Fmt) (i : Nat) : List (Nat × Events) :=
  (List.range 96).map (fun j =>
    storedElem int d (s.coreAt n).modes (s.scaleOf (clusterOf n) tile) i j (accElem s (clusterOf n) tile i j))

/-- The bytes of such a row. -/
def storedBytes (n : Nat) (s : State) (tile : Nat) (int : Bool) (d : Fmt) (i : Nat) : List Byte :=
  (storedRow n s tile int d i).flatMap (fun e => natToBytes (d.bits / 8) e.1)

/-- `len` bytes from `o` of the scratchpad of core `n` as the pieces of one store, a piece for each line of 128 bytes. -/
def rowPlaces (n o len : Nat) : List (Spot × Nat) :=
  (List.range ((o + len + 127) / 128 - o / 128)).map (fun k =>
    let a := max o (128 * (o / 128 + k))
    (.scratch n a, min (o + len) (128 * (o / 128 + k + 1)) - a))

/-- `macc.st` to the own scratchpad, of an FP32 or an INT32 tile in any format, from row 0 or resumed at ROW: each row enters the store buffer as one
store of 96 elements, in row order, and the progress word is cleared; the tile is kept and its counters take the events of the rows (R318, R319,
R321). A buffer of 32 stores holds the last 32 rows; the rows before them are performed, so that memory holds the bytes of the last of them that covers a
byte, and every byte that none of them covers is as before (R125, R318). -/
def AccumulatorStoresPutEachRowIntoTheBuffer : Prop :=
  ∀ (ra rb : BitVec 5) (sf : BitVec 1) (df acc : BitVec 3) (off st n : Nat) (s : State), s.run.cur = .core n → df.toNat < 7 →
    (let c := s.coreAt n
     let cl := clusterOf n
     let int := decide (sf = 1#1)
     let d := (Fmt.ofCode df.toNat).getD .fp32
     let size := 96 * (d.bits / 8)
     let rows := rowsFrom ((s.clusterAt cl).prog.getD acc.toNat 0#64)
     let early := rows.take (rows.length - 32)
     let covers (i a : Nat) : Prop := kPad n (off + i * st) ≤ a ∧ a < kPad n (off + i * st) + size
     s.leaseHeld n = true → c.sb = [] → c.away = false → c.watches = [] → c.rx ra = ownPad off → c.rx rb = BitVec.ofNat 64 st → off % 32 = 0 → st % 32 = 0 →
     (∀ i ∈ rows, off + i * st + size ≤ 0x40000 ∧ s.inWs n (off + i * st) size = false ∧ s.inArgs n (off + i * st) size = false ∧
       (∀ b, b < size → s.inSeal n (off + i * st + b) 1 = false) ∧ s.anyPoison (kPad n (off + i * st)) size = false) → TileClean s cl acc.toNat →
     ∃ t, exec (.maccSt ra rb sf df acc) s = .next t ∧
       TileMoves n acc.toNat s t { c.issued with sb := (rows.drop (rows.length - 32)).map (fun i =>
         ⟨.row (rowPlaces n (off + i * st) size), (storedBytes n s acc.toNat int d i).map some, c.asid⟩) } ∧
       (t.clusterAt cl).prog.getD acc.toNat 0#64 = 0#64 ∧ (∀ i, i < 64 → t.accRow cl acc.toNat i = s.accRow cl acc.toNat i) ∧
       (t.clusterAt cl).scale = (s.clusterAt cl).scale ∧
       (t.clusterAt cl).status.getD acc.toNat 0#64 =
         rows.foldl (fun w i => countStatus w ((storedRow n s acc.toNat int d i).map Prod.snd)) ((s.clusterAt cl).status.getD acc.toNat 0#64) ∧
       (∀ a, (∀ i ∈ early, ¬ covers i a) → t.mem.byte a = s.mem.byte a) ∧
       ∀ i ∈ early, ∀ p, p < size → (∀ j ∈ early, i < j → ¬ covers j (kPad n (off + i * st) + p)) →
         t.mem.byte (kPad n (off + i * st) + p) = (storedBytes n s acc.toNat int d i).getD p 0#8)

/-- Does an engine hold a copy command of the core that names the ring (R312)? -/
def ringBusy (s : State) (n : Nat) (r : BitVec 5) : Prop := s.ringInUse n r = true

/-- `mstat` and `mprog` read a tile's status and progress words; `mstat.clr` reads and then clears the four counters; `mprog.clr` clears the
progress word (R320). -/
def StatusAndProgressWordsAreRead : Prop :=
  ∀ (rd : BitVec 5) (acc : BitVec 3) (n : Nat) (s : State), s.run.cur = .core n →
    (let c := s.coreAt n
     let k := s.clusterAt (clusterOf n)
     let status := k.status.getD acc.toNat 0#64
     let prog := k.prog.getD acc.toNat 0#64
     s.leaseHeld n = true → c.sb = [] →
     (∃ t, exec (.mstat rd acc) s = .next t ∧ TileRetires n acc.toNat s t (c.issued.wx rd status) ∧ t.clusterAt (clusterOf n) = { k with lidle := 0 }) ∧
     (∃ t, exec (.mstatClr rd acc) s = .next t ∧ TileRetires n acc.toNat s t (c.issued.wx rd status) ∧
       t.clusterAt (clusterOf n) = { k with lidle := 0, status := k.status.setIfInBounds acc.toNat 0#64 }) ∧
     (∃ t, exec (.mprog rd acc) s = .next t ∧ TileRetires n acc.toNat s t (c.issued.wx rd prog) ∧ t.clusterAt (clusterOf n) = { k with lidle := 0 }) ∧
     ∃ t, exec (.mprogClr acc) s = .next t ∧ TileRetires n acc.toNat s t c.issued ∧
       t.clusterAt (clusterOf n) = { k with lidle := 0, prog := k.prog.setIfInBounds acc.toNat 0#64 })

/-! Custom-3: atomics, fences, waits, messages and barriers. -/

/-- A signed reading of the low `8 n` bits. -/
def sBytes (n v : Nat) : Int := (BitVec.ofNat (8 * n) v).toInt

/-- Atomics: the instruction, its size, and the new memory value from the old value, the operand and the comparand (R328). -/
noncomputable def amoDOps : List ((BitVec 5 → BitVec 5 → BitVec 5 → BitVec 3 → Instr) × Nat × (Nat → Nat → Nat → Nat)) :=
  [(.amoSwapD, 8, fun _ m _ => m), (.amoAddD, 8, fun o m _ => (o + m) % 2 ^ 64), (.amoAndD, 8, fun o m _ => o &&& m), (.amoOrD, 8, fun o m _ => o ||| m),
   (.amoMaxD, 8, fun o m _ => if sBytes 8 o < sBytes 8 m then m else o), (.amoMaxuD, 8, fun o m _ => max o m),
   (.amoCasD, 8, fun o m c => if o = c then m else o)]

noncomputable def amoWOps : List ((BitVec 5 → BitVec 5 → BitVec 5 → BitVec 3 → Instr) × Nat × (Nat → Nat → Nat → Nat)) :=
  [(.amoSwapW, 4, fun _ m _ => m), (.amoAddW, 4, fun o m _ => (o + m) % 2 ^ 32), (.amoAndW, 4, fun o m _ => o &&& m), (.amoOrW, 4, fun o m _ => o ||| m),
   (.amoMaxW, 4, fun o m _ => if sBytes 4 o < sBytes 4 m then m else o), (.amoMaxuW, 4, fun o m _ => max o m),
   (.amoCasW, 4, fun o m c => if o = c then m else o)]

noncomputable def amoOps : List ((BitVec 5 → BitVec 5 → BitVec 5 → BitVec 3 → Instr) × Nat × (Nat → Nat → Nat → Nat)) := amoDOps ++ amoWOps

/-- Forms that acquire and release (R43). -/
def soAcquires (so : BitVec 3) : Prop := so = 0#3 ∨ so = 1#3 ∨ so = 3#3 ∨ so = 5#3 ∨ so = 7#3

/-- A core after an atomic of form `so` on its own scratchpad, rd aside: an acquire-release form takes the store mark SWM first; then the clock takes
the scratchpad's SCM, and at domain and system scope the core ignores older replicas from now on (R127, R175, R328). -/
noncomputable def amoCore (s : State) (n : Nat) (so : BitVec 3) : Core :=
  open Classical in
  let c := s.coreAt n
  let c := if soAcquires so then c.clocked c.swm else c
  let c := c.clocked c.scm
  if so = 5#3 ∨ so = 7#3 then { c with mirMark := s.time.gtc + 1 } else c

/-- `size` bytes of the own scratchpad hold `v`, and every other byte of memory is as before. -/
def PadTakes (n : Nat) (s t : State) (off size v : Nat) : Prop :=
  t.mem.read (kPad n off) size = v % 2 ^ (8 * size) ∧ ∀ a, (a < kPad n off ∨ kPad n off + size ≤ a) → t.mem.byte a = s.mem.byte a

/-- The core after an acquire at a scope: at domain and system scope it ignores replicas made before (R175). -/
def acquired (s : State) (c : Core) (scope : BitVec 3) : Core := if 4 ≤ scope.toNat then { c with mirMark := s.time.gtc + 1 } else c

/-- The `waita` forms: the instruction, whether it waits for equality, and its size (R333). -/
noncomputable def waitaOps : List ((BitVec 5 → BitVec 5 → BitVec 5 → Instr) × Bool × Nat) :=
  [(.waitaEqW, true, 4), (.waitaNeW, false, 4), (.waitaEqD, true, 8), (.waitaNeD, false, 8)]

/-- Nothing outside the cores has changed but messages and reports on their way, which stand as `net`. -/
def NetBecomes (s t : State) (net : Net) : Prop :=
  t.time = s.time ∧ t.clusters = s.clusters ∧ SameMem s t ∧ t.home = s.home ∧ t.tabs = s.tabs ∧ t.disp = s.disp ∧ t.engines = s.engines ∧ t.net = net

/-- The limits of a receive-buffer descriptor: V, SZ, SLOTS − 1 and BASE (R203, R336). -/
def rbAllowed (d : Word) : Prop :=
  d.extractLsb' 58 5 = 0#5 ∧ d.extractLsb' 18 26 = 0#26 ∧ (d.extractLsb' 56 2).toNat ≤ 2 ∧ (d.extractLsb' 0 18).toNat % 64 = 0 ∧
    (d.extractLsb' 0 18).toNat + ((d.extractLsb' 44 12).toNat + 1) * (64 * 2 ^ (d.extractLsb' 56 2).toNat) ≤ 0x40000

/-- A barrier word after `k` more arrivals or bytes: completed at TGT, with PH turned and CNT 0 (R237). -/
def barAfter (w : Word) (k : Nat) : Word :=
  let cnt := (w.extractLsb' 0 32).toNat + k
  if (w.extractLsb' 32 24).toNat ≤ cnt then 0#6 ++ ~~~(w.extractLsb' 57 1) ++ w.extractLsb' 56 1 ++ w.extractLsb' 32 24 ++ 0#32
  else 0#6 ++ w.extractLsb' 57 1 ++ w.extractLsb' 56 1 ++ w.extractLsb' 32 24 ++ BitVec.ofNat 32 cnt

/-- Is the update that reaches core `m` next of this list `u`, and are `rest` the others in their order? -/
def NextFor (m : Nat) (l : List BarUpd) (u : BarUpd) (rest : List BarUpd) : Prop :=
  ∃ pre post, l = pre ++ u :: post ∧ rest = pre ++ post ∧ u.dst = m ∧ ∀ x ∈ pre, x.dst ≠ m

/-- No update of a barrier word has been applied in the present cycle. The updates of one cycle apply together to the word as it stood before them, so that
what one of them does is told where it is the first; two are told together below (log 59). -/
def NotYetMoved (s : State) (n b : Nat) : Prop := ∀ e ∈ s.run.bars, ¬ (e.core = n ∧ e.bar = b ∧ e.cycle = s.time.gtc)

/-- Barriers. `bcfg` sets MODE and TGT, clears CNT and keeps PH, and raises cause 2 for reserved bits or TGT 0; `barr` answers PH and puts one arrival with
the clock on its way to each core of the cluster, or of the field; an arrival or an engine's bytes reach a word of their mode, are added, and complete it at
TGT with EV set unless a `wfe` has consumed the events of the cycle; of the other mode they are discarded and counted, and so is a report of a dead
incarnation; `bwait` retires when PH differs from bit 0 of rs1 and takes the mark; `bstat` reads the word (R75, R183, R235, R236, R237, R339, R340,
R371). PH is answered as it stood before the cycle's updates. That `bcfg` empties the idle ranks counted is the model's reading (log 59). -/
def BarrierWordsCountArrivals : Prop :=
  (∀ (rd rs1 : BitVec 5) (bar : BitVec 7) (n : Nat) (s : State), s.run.cur = .core n →
    (let c := s.coreAt n
     let v := c.rx rs1
     let w := c.bar.getD bar.toNat 0#64
     let old := (s.barCycle n bar.toNat).base
     let good := v.extractLsb' 0 24 ≠ 0#24 ∧ v.extractLsb' 25 39 = 0#39
     (good → NotYetMoved s n bar.toNat → ∃ t, exec (.bcfg rs1 bar) s = .next t ∧ CoreBecomes n s t { c with
         bar := c.bar.setIfInBounds bar.toNat (0#6 ++ w.extractLsb' 57 1 ++ v.extractLsb' 24 1 ++ v.extractLsb' 0 24 ++ 0#32)
         bseen := c.bseen.filter (fun p => decide (p.1 ≠ bar.toNat)) } c.next ∧ OthersKept n s t ∧ SameMem s t ∧
       (w.extractLsb' 0 32 = 0#32 → t.tabs = s.tabs) ∧
       (w.extractLsb' 0 32 ≠ 0#32 → Tbl.get 0 t.tabs.errs 19 = min (2 ^ 64 - 1) (Tbl.get 0 s.tabs.errs 19 + 1))) ∧
     (¬ good → exec (.bcfg rs1 bar) s = .next (s.takeTrapK n 2 (c.iw.setWidth 64) 0xFF)) ∧
     (c.sb = [] → c.remStores = [] → c.cxl = [] → ∃ t, exec (.barrTeam rd bar) s = .next t ∧
       CoreBecomes n s t ((c.clocked c.swm).wx rd ((old.extractLsb' 57 1).setWidth 64)) c.next ∧ OthersKept n s t ∧
       NetBecomes s t { s.net with arrivals := s.net.arrivals ++ (List.range 16).map (fun r =>
         ⟨16 * clusterOf n + r, bar.toNat, some (match c.task with | some k => k.team | none => 0), 1, max c.csr.lclk c.swm, n, c.inc⟩) }) ∧
     (∀ k f, c.sb = [] → c.remStores = [] → c.cxl = [] → c.task = some k → s.fieldOf k = some f → ∃ t, exec (.barrField rd bar) s = .next t ∧
       CoreBecomes n s t ((c.clocked c.swm).wx rd ((old.extractLsb' 57 1).setWidth 64)) c.next ∧ OthersKept n s t ∧
       NetBecomes s t { s.net with arrivals := s.net.arrivals ++ f.teams.flatMap (fun cl => (List.range 16).map (fun r =>
         ⟨16 * cl + r, bar.toNat, some k.team, 1, max c.csr.lclk c.swm, n, c.inc⟩)) }) ∧
     (w.getLsbD 57 ≠ v.getLsbD 0 → ∃ t, exec (.bwait rs1 bar) s = .next t ∧ Retires n s t (c.clocked (c.bm.getD bar.toNat 0)) c.next) ∧
     (w.getLsbD 57 = v.getLsbD 0 → ∃ t, exec (.bwait rs1 bar) s = .next t ∧ t.coreAt n = { c with wait := .barrier } ∧
       (∀ k, k ≠ n → t.coreAt k = s.coreAt k) ∧ OutsideKept s t) ∧
     ∃ t, exec (.bstat rd bar) s = .next t ∧ Retires n s t (c.wx rd w) c.next)) ∧
  ∀ (m : Nat) (u : BarUpd) (rest : List BarUpd) (s : State),
    (let c := s.coreAt m
     let w := c.bar.getD u.bar 0#64
     let old := (s.barCycle m u.bar).base
     let done (k : Nat) : Prop := (w.extractLsb' 32 24).toNat ≤ (w.extractLsb' 0 32).toNat + k
     let reached (t : State) (k : Nat) : Prop :=
       (t.coreAt m).bar = c.bar.setIfInBounds u.bar (barAfter w k) ∧ (t.coreAt m).bm = c.bm.setIfInBounds u.bar (max (c.bm.getD u.bar 0) u.mark) ∧
         ((t.coreAt m).ev = true ↔ c.ev = true ∨ (done k ∧ s.noted (.wfe m) = false)) ∧ (t.coreAt m).x = c.x ∧ (t.coreAt m).pc = c.pc ∧ (t.coreAt m).csr = c.csr ∧
         (∀ k, k ≠ m → t.coreAt k = s.coreAt k) ∧ SameMem s t
     (∀ team, NextFor m s.net.arrivals u rest → u.team = some team → ∃ t, exec (.barrierArrival m) s = .next t ∧ t.net = { s.net with arrivals := rest } ∧
       (NotYetMoved s m u.bar → w.getLsbD 56 = false → reached t (u.amount + if c.bseen.contains (u.bar, team) then 0 else s.idleRanks m team)) ∧
       (old.getLsbD 56 = true → t.cores = s.cores ∧ Tbl.get 0 t.tabs.errs 19 = min (2 ^ 64 - 1) (Tbl.get 0 s.tabs.errs 19 + 1))) ∧
     (NextFor m s.net.reports u rest → u.team = none → u.inc ≠ s.agentInc u.agent → ∃ t, exec (.engineByteReport m) s = .next t ∧
       t.net = { s.net with reports := rest } ∧ t.cores = s.cores ∧ Tbl.get 0 t.tabs.errs 14 = min (2 ^ 64 - 1) (Tbl.get 0 s.tabs.errs 14 + 1)) ∧
     (NextFor m s.net.reports u rest → u.team = none → u.inc = s.agentInc u.agent → ∃ t, exec (.engineByteReport m) s = .next t ∧
       t.net = { s.net with reports := rest } ∧
       (NotYetMoved s m u.bar → w.getLsbD 56 = true → reached t u.amount) ∧
       (old.getLsbD 56 = false → t.cores = s.cores ∧ Tbl.get 0 t.tabs.errs 19 = min (2 ^ 64 - 1) (Tbl.get 0 s.tabs.errs 19 + 1))))

/-- Two arrivals of teams without idle ranks that reach a barrier word in one cycle are added together: at TGT or more they complete it once, and CNT is 0
afterwards, an excess over TGT counting once in BARX (R75, R236, R237). -/
def ArrivalsOfOneCycleAddUp : Prop :=
  ∀ (m a b : Nat) (u v : BarUpd) (rest : List BarUpd) (s : State), s.net.arrivals = u :: v :: rest → u.dst = m → v.dst = m → v.bar = u.bar → u.bar < 128 →
    u.team = some a → v.team = some b → s.idleRanks m a = 0 → s.idleRanks m b = 0 → NotYetMoved s m u.bar →
    (let w := (s.coreAt m).bar.getD u.bar 0#64
     let cnt := (w.extractLsb' 0 32).toNat + u.amount + v.amount
     let tgt := (w.extractLsb' 32 24).toNat
     w.getLsbD 56 = false → cnt < 2 ^ 32 → ∃ t t', exec (.barrierArrival m) s = .next t ∧ exec (.barrierArrival m) t = .next t' ∧
       (t'.coreAt m).bar = (s.coreAt m).bar.setIfInBounds u.bar (barAfter w (u.amount + v.amount)) ∧
       (tgt < cnt → Tbl.get 0 t'.tabs.errs 19 = min (2 ^ 64 - 1) (Tbl.get 0 s.tabs.errs 19 + 1)))

/-! Custom-3: engine queues, stage queues, sealed buffers. -/

/-- 64 readable bytes of the own scratchpad at an aligned address (R341, R343). -/
def RecordReadable (n : Nat) (s : State) (off : Nat) : Prop := off % 64 = 0 ∧ PadReadable n s off 64

/-- Bytes `[i, i + k)` of a 64-byte command. -/
def rawField (raw : BitVec 512) (i k : Nat) : Nat := (raw >>> (8 * i)).toNat % 2 ^ (8 * k)

/-- RES of a command (R199). -/
def rawRes (raw : BitVec 512) : Bool := raw.getLsbD 10

/-- The element that a push with RES reserves (R201). -/
def reservedElement (raw : BitVec 512) (id : Nat) : ResElt := ⟨BitVec.ofNat 64 (rawField raw 56 8), 0#32, 0#16, 0#16, false, 0, id, 0⟩

/-- An engine that works on a command has taken one more: into its shadow set, or behind its queue (R198). -/
def EngineTakes (x y : Engine) (c : Cmd) : Prop :=
  y = if x.shd = none then { x with shd := some c } else { x with queue := x.queue ++ [c] }

/-- An action of number `n` comes in its turn: none of a higher number has been made in this cycle (R195, R198). -/
def InTurn (s : State) (last : Option (Nat × Nat)) (n : Nat) : Prop := ∀ t m, last = some (t, m) → t = s.time.gtc → m ≤ n

/-- Nothing but cores, clusters, package engines and the count of commands has changed. -/
def CommandsAside (s t : State) : Prop :=
  t.time = s.time ∧ SameMem s t ∧ t.home = s.home ∧ t.tabs = s.tabs ∧ t.disp = s.disp ∧ t.net = s.net

/-- An element of a result queue whose command ended before those of all others (R201). -/
def endedFirst (l : List ResElt) (r : ResElt) : Prop := r ∈ l ∧ r.ended = true ∧ ∀ q ∈ l, q.ended = true → q ≠ r → r.order < q.order

/-- An absolute scratchpad address (R88). -/
def padAddr (core off : Nat) : Nat := 0x21000000000 + 0x40000 * core + off

/-- Nothing but cores and stage queues has changed; the queues stand as `q`. -/
def QueuesBecome (s t : State) (q : List StageQ) : Prop :=
  t.time = s.time ∧ t.clusters = s.clusters ∧ SameMem s t ∧ t.home = s.home ∧ t.tabs = s.tabs ∧ t.net = s.net ∧ t.engines = s.engines ∧
    t.disp = { s.disp with queues := q }

/-- The queues with that of stage `st` of launch `j` replaced. -/
def withQueue (l : List StageQ) (j st : Nat) (q : StageQ) : List StageQ := l.map (fun p => if p.jseq = j ∧ p.stage = st then q else p)

/-- Stage queues. `spush` of a record of the own scratchpad puts it behind the others of its stage's queue and raises the clock to SWM; with a full queue it
holds. `spop` stores the oldest record of the stage before and answers 0, answers 1 at a closed empty queue, and holds at an open one. Where the task's stage
has no such queue each raises cause 2 (R194, R195, R343), and so it does on a core of no task, which is the model's reading (log 54). -/
def StageQueuesPassRecords : Prop :=
  ∀ (rd rs1 : BitVec 5) (off n : Nat) (s : State), s.run.cur = .core n →
    (let c := s.coreAt n
     let waits (t : State) (d : Core) : Prop := t.coreAt n = { d with wait := .hold } ∧ (∀ k, k ≠ n → t.coreAt k = s.coreAt k) ∧ OutsideKept s t
     (c.task = none → exec (.spush rs1) s = .next (s.takeTrapK n 2 (c.iw.setWidth 64) 0xFF) ∧
       exec (.spop rd rs1) s = .next (s.takeTrapK n 2 (c.iw.setWidth 64) 0xFF)) ∧
     (∀ k, c.task = some k → (s.stageQ k.jseq k.stage = none → exec (.spush rs1) s = .next (s.takeTrapK n 2 (c.iw.setWidth 64) 0xFF)) ∧
       (k.stage = 0 ∨ s.stageQ k.jseq (k.stage - 1) = none → exec (.spop rd rs1) s = .next (s.takeTrapK n 2 (c.iw.setWidth 64) 0xFF))) ∧
     (∀ k q, c.task = some k → s.stageQ k.jseq k.stage = some q → c.rx rs1 = ownPad off → RecordReadable n s off → c.sb = [] → c.remStores = [] →
       c.cxl = [] →
       (q.recs.length ≤ q.dm1 → InTurn s q.pushed c.csr.lcore.toNat → ∃ t, exec (.spush rs1) s = .next t ∧ CoreBecomes n s t (c.clocked c.swm) c.next ∧ OthersKept n s t ∧
         QueuesBecome s t (withQueue s.disp.queues k.jseq k.stage { q with
           recs := q.recs ++ [BitVec.ofNat 512 (bytesToNat (seenBytes n s off 64))], tail := (q.tail + 1) % (q.dm1 + 1)
           pushed := some (s.time.gtc, c.csr.lcore.toNat) })) ∧
       (q.dm1 < q.recs.length → ∃ t, exec (.spush rs1) s = .next t ∧ waits t (c.clocked c.swm))) ∧
     ∀ k q, c.task = some k → 0 < k.stage → s.stageQ k.jseq (k.stage - 1) = some q → c.rx rs1 = ownPad off → PadWritable n s off 64 → c.sb.length < 32 →
       (∀ r rest, q.recs = r :: rest → InTurn s q.popped c.csr.lcore.toNat → ∃ t, exec (.spop rd rs1) s = .next t ∧ OthersKept n s t ∧
         CoreBecomes n s t (({ c with sb := c.sb ++ [⟨.scratch n off, (natToBytes 64 r.toNat).map some, c.asid⟩] } : Core).wx rd 0#64) c.next ∧
         QueuesBecome s t (withQueue s.disp.queues k.jseq (k.stage - 1) { q with
           recs := rest, head := (q.head + 1) % (q.dm1 + 1), popped := some (s.time.gtc, c.csr.lcore.toNat) })) ∧
       (q.recs = [] → q.cl = true → ∃ t, exec (.spop rd rs1) s = .next t ∧ Retires n s t (c.wx rd 1#64) c.next) ∧
       (q.recs = [] → q.cl = false → ∃ t, exec (.spop rd rs1) s = .next t ∧ waits t c))

/-- Do the bytes `[o, o + len)` of a cluster memory meet the buffer of a sealed entry? -/
def sealMeets (e : Seal) (o len : Nat) : Prop := e.s = true ∧ o < e.base * 128 + (e.lm1 + 1) * 128 ∧ e.base * 128 < o + len

/-- Sealed buffers. `seal` of whole blocks of the own cluster memory that meet no sealed buffer, with no store to them waiting, takes the lowest free entry and
answers its number; a range that breaks its limits raises cause 7, one that meets a sealed buffer cause 31. `unseal` clears S of an entry whose CNT is 0,
waits while it is not, and raises cause 2 when the entry is not sealed; `sealrd` reads the entry (R145, R146, R344). -/
def SealsTakeAndFreeEntries : Prop :=
  ∀ (rd rs1 rs2 : BitVec 5) (o n : Nat) (s : State), s.run.cur = .core n →
    (let c := s.coreAt n
     let cl := clusterOf n
     let k := s.clusterAt cl
     let ent (i : Nat) : Seal := k.seals.getD i ⟨false, 0, 0, 0⟩
     let len := (c.rx rs2).toNat
     let v := c.rx rs1
     let good := o % 128 = 0 ∧ len % 128 = 0 ∧ 128 ≤ len ∧ o + len ≤ 0x400000
     (v = BitVec.ofNat 64 (0x22000400000 + o) → o < 0x400000 →
       (good → c.sb = [] → c.remStores = [] → c.cxl = [] → (∀ i < 32, ¬ sealMeets (ent i) o len) → (∀ m, ∀ st ∈ (s.coreAt m).sb, st.inBuffer cl o len = false) →
         ∀ e < 32, (ent e).s = false → (∀ i < e, (ent i).s = true) → ∃ t, exec (.seal rd rs1 rs2) s = .next t ∧
           CoreBecomes n s t ((c.clocked c.swm).wx rd (BitVec.ofNat 64 e)) c.next ∧ OthersKept n s t ∧ SameMem s t ∧
           t.clusterAt cl = { k with seals := k.seals.setIfInBounds e ⟨true, 0, len / 128 - 1, o / 128⟩ } ∧
           ∀ j, j ≠ cl → t.clusterAt j = s.clusterAt j) ∧
       (good → (∃ i < 32, sealMeets (ent i) o len) → exec (.seal rd rs1 rs2) s = .next (s.takeTrapK n 31 v 2)) ∧
       (¬ good → exec (.seal rd rs1 rs2) s = .next (s.takeTrapK n 7 v 2))) ∧
     (∀ i < 32, v = BitVec.ofNat 64 i →
       ((ent i).s = true → (ent i).cnt = 0 → ∃ t, exec (.unseal rs1) s = .next t ∧ CoreBecomes n s t c c.next ∧ OthersKept n s t ∧ SameMem s t ∧
         t.clusterAt cl = { k with seals := k.seals.setIfInBounds i { ent i with s := false } } ∧ ∀ j, j ≠ cl → t.clusterAt j = s.clusterAt j) ∧
       ((ent i).s = true → (ent i).cnt ≠ 0 → ∃ t, exec (.unseal rs1) s = .next t ∧ t.coreAt n = { c with wait := .unseal } ∧ OutsideKept s t) ∧
       ((ent i).s = false → exec (.unseal rs1) s = .next (s.takeTrapK n 2 (c.iw.setWidth 64) 0xFF)) ∧
       ∃ t, exec (.sealrd rd rs1) s = .next t ∧ Retires n s t (c.wx rd
         (BitVec.ofBool (ent i).s ++ BitVec.ofNat 16 (ent i).cnt ++ BitVec.ofNat 15 (ent i).lm1 ++ 0#17 ++ BitVec.ofNat 15 (ent i).base)) c.next))

/-! Custom-3: sweeps, controls of a core, votes, following. -/

/-- The pass leaves no trace but its end: the descriptor in a scratchpad at `off` holds the end cursor, the pending count and the emit count, rd the pending
count, the core's clock the engine's mark, and the `sweep` has retired (R157, R158, R169). -/
def PassEnds (cl d off : Nat) (p : Pass) (cur : Nat) (s t : State) : Prop :=
  t.passAt cl = none ∧ (t.coreAt p.core).pc = (s.coreAt p.core).pc + 4#64 ∧ (t.coreAt p.core).wait = .none ∧
    (∀ r : BitVec 5, (t.coreAt p.core).rx r = if r.toNat = p.rd ∧ r ≠ 0#5 then BitVec.ofNat 64 p.waitn else (s.coreAt p.core).rx r) ∧
    (t.coreAt p.core).csr.lclk = max (s.coreAt p.core).csr.lclk (s.clusterAt cl).sweepEwm ∧
    t.mem.read (kPad d (off + 28)) 4 = cur % 2 ^ 32 ∧ t.mem.read (kPad d (off + 32)) 4 = p.waitn % 2 ^ 32 ∧ t.mem.read (kPad d (off + 20)) 4 = p.ecnt % 2 ^ 32 ∧
    ∀ a, (a < kPad d off ∨ kPad d off + 64 ≤ a) → t.mem.byte a = s.mem.byte a

/-- The descriptor of a pass lies in a scratchpad of its cluster, outside the active workspace, the argument block and every sealed buffer, and no word of it
is poisoned (R70, R146, R246, R370). -/
def DescAt (cl d off : Nat) (p : Pass) (s : State) : Prop :=
  p.desc = padAddr d off ∧ off + 64 ≤ 0x40000 ∧ d < 5120 ∧ clusterOf d = cl ∧ clusterOf p.core = cl ∧ s.inWs d off 64 = false ∧ s.inArgs d off 64 = false ∧
    s.inSeal d off 64 = false ∧ s.anyPoison (kPad d off) 64 = false ∧ (s.coreAt d).watches = []

/-- Each plane word that the first group reads lies in a scratchpad, open to the engine. -/
def GroupReads (p : Pass) (s : State) (n : Nat) (ctx : Nat → BitVec 128) : Prop :=
  s.groupShut p 0 n = none ∧ ∀ e, e < n → ∃ a b c i j k, s.planePlace p (p.ctxAddr e) = some (.pad a i) ∧ s.planePlace p (p.dataAddr e) = some (.pad b j) ∧
    s.planePlace p (p.skipAddr e) = some (.pad c k) ∧ ctx e = BitVec.ofNat 128 (s.mem.read (kPad a i) 16) ∧
    s.mem.read (kPad c k) 8 = 0

/-- Lane `j` of cluster `c` ends its segment as `l`; a neighbour that waits for it in `swait.nb` goes on; no other lane changes unless it waits (R162, R163). -/
def LaneEnds (c j : Nat) (s t : State) (l : Lane) : Prop :=
  t.laneAt c j = some l ∧ (∀ m, s.laneAt c (j + 1) = some m → m.st = .neighbour → t.laneAt c (j + 1) = some { m with st := .running, near := true }) ∧
    (∀ i m, i ≠ j → s.laneAt c i = some m → m.st ≠ .neighbour → t.laneAt c i = some m) ∧ t.cores = s.cores ∧ SameMem s t ∧ t.home = s.home ∧ t.tabs = s.tabs

/-- A lane at the end of its segment with a context, whose STEP field names the next instruction. -/
def laneEnded (l : Lane) (ctx : BitVec 128) (key : Bool) : Lane :=
  { l with
    st := .ended key, count := l.count + 1, ctx := ctx, skip := ctx.getLsbD 16 || ctx.getLsbD 18, leftCtx := ctx, leftData := l.data }

/-- The fields that `cld` reads: data, loc0, loc1, wkey, step and the element's number (R161). -/
def ctxField (p : Pass) (l : Lane) (fld : Nat) : Word :=
  if fld = 0 then (if p.fmt = 5 ∨ p.fmt = 6 then BitVec.ofInt 64 (sBytes p.elemBytes (bytesToNat l.data)) else BitVec.ofNat 64 (bytesToNat l.data))
  else if fld = 1 then (l.ctx.extractLsb' 64 32).setWidth 64
  else if fld = 2 then (l.ctx.extractLsb' 96 32).setWidth 64
  else if fld = 3 then (l.ctx.extractLsb' 32 32).setWidth 64
  else if fld = 4 then (l.ctx.extractLsb' 0 16).setWidth 64
  else BitVec.ofNat 64 l.elem

/-- A context with a new STEP field, and a sleep, count or end flag (R155, R161). -/
def ctxStepped (c : BitVec 128) (i : Nat) : BitVec 128 := c.extractLsb' 16 112 ++ BitVec.ofNat 16 i
def ctxCounting (c : BitVec 128) (v i : Nat) : BitVec 128 :=
  c.extractLsb' 64 64 ++ BitVec.ofNat 32 (v - 1) ++ c.extractLsb' 21 11 ++ (if 1 < v then 1#1 else 0#1) ++ c.extractLsb' 16 4 ++ BitVec.ofNat 16 i
def ctxSleeping (c : BitVec 128) (key : BitVec 32) (i : Nat) : BitVec 128 := c.extractLsb' 64 64 ++ key ++ c.extractLsb' 17 15 ++ 1#1 ++ BitVec.ofNat 16 i
def ctxEnded (c : BitVec 128) (i : Nat) : BitVec 128 := c.extractLsb' 19 109 ++ 1#1 ++ c.extractLsb' 16 2 ++ BitVec.ofNat 16 i

/-- What a wake with a key makes of a context (R164). -/
def ctxWoken (c : BitVec 128) (key : BitVec 32) : BitVec 128 :=
  if c.getLsbD 18 || c.getLsbD 19 then c
  else if c.getLsbD 16 then (if c.extractLsb' 32 32 = key then c.extractLsb' 18 110 ++ 1#1 ++ 0#1 ++ c.extractLsb' 0 16 else c)
  else c.extractLsb' 18 110 ++ 1#1 ++ c.extractLsb' 16 1 ++ c.extractLsb' 0 16

/-- Operations of a sweep body on the lane's own element: fields are read and written, words are emitted, and the segment goes on or ends with its context as
R161 gives; `nld` reads the neighbour as it stood before the group, or as it ended where the lane has waited for it; `swake` of an element outside the group
waits for the group's commit (R161, R162, R163, R164, R346). -/
def SweepBodiesOperate : Prop :=
  ∀ (rd r r2 f : BitVec 5) (c j : Nat) (p : Pass) (l : Lane) (s : State), s.run.cur = .lane c j → s.passAt c = some p → s.laneAt c j = some l →
    l.count < 2048 → p.fmt < 7 →
    (let on (m : Lane) : Lane := { m with idx := l.idx + 1, count := l.count + 1 }
     let v := (l.rx r).extractLsb' 0 32
     let near := j = 0 ∨ ∃ i m, j = i + 1 ∧ s.laneAt c i = some m ∧ (m.st = .idle ∨ ∃ k, m.st = .ended k)
     (f.toNat < 6 → ∃ t, exec (.cld rd f) s = .next t ∧ LaneRetires c j s t (on (l.wx rd (ctxField p l f.toNat)))) ∧
     (f.toNat < 3 → l.elem = 0 → ∃ t, exec (.nld rd f) s = .next t ∧ LaneRetires c j s t (on (l.wx rd 0#64))) ∧
     (∀ i m, f.toNat < 3 → 0 < l.elem → l.near = true → j = i + 1 → s.laneAt c i = some m → ∃ t, exec (.nld rd f) s = .next t ∧
       LaneRetires c j s t (on (l.wx rd (ctxField p { m with elem := l.elem - 1, ctx := m.leftCtx, data := m.leftData } f.toNat)))) ∧
     (∀ x d, f.toNat < 3 → 0 < l.elem → l.near = false → p.snap.find? (fun q => decide (q.1 = l.elem - 1)) = some (l.elem - 1, x, d) →
       ∃ t, exec (.nld rd f) s = .next t ∧ LaneRetires c j s t (on (l.wx rd (ctxField p { l with elem := l.elem - 1, ctx := x, data := d } f.toNat)))) ∧
     (∃ t, exec (.cst r 0#5) s = .next t ∧ LaneRetires c j s t (on { l with data := natToBytes p.elemBytes (l.rx r).toNat })) ∧
     (∃ t, exec (.cst r 1#5) s = .next t ∧ LaneRetires c j s t (on { l with ctx := l.ctx.extractLsb' 96 32 ++ v ++ l.ctx.extractLsb' 0 64 })) ∧
     (∃ t, exec (.cst r 2#5) s = .next t ∧ LaneRetires c j s t (on { l with ctx := v ++ l.ctx.extractLsb' 0 96 })) ∧
     (p.ecnt + (p.lanes.map (fun m => m.emits.length)).sum < p.ecap →
       ∃ t, exec (.semit r) s = .next t ∧ LaneRetires c j s t (on { l with emits := l.emits ++ [v] })) ∧
     (∃ t, exec .swaitStep s = .next t ∧ LaneEnds c j s t (laneEnded l (ctxStepped l.ctx (l.idx + 1)) false)) ∧
     (near → ∃ t, exec .swaitNb s = .next t ∧ LaneRetires c j s t (on { l with near := true })) ∧
     (¬ near → (∃ m, 0 < j ∧ s.laneAt c (j - 1) = some m) → ∃ t, exec .swaitNb s = .next t ∧ t.laneAt c j = some { l with st := .neighbour }) ∧
     (v = 0#32 → ∃ t, exec (.swaitCnt r) s = .next t ∧ LaneRetires c j s t (on l)) ∧
     (v ≠ 0#32 → ∃ t, exec (.swaitCnt r) s = .next t ∧ LaneEnds c j s t (laneEnded l (ctxCounting l.ctx v.toNat (l.idx + 1)) false)) ∧
     (l.ctx.getLsbD 17 = true → ∃ t, exec (.swaitKey r) s = .next t ∧
       LaneRetires c j s t (on { l with ctx := l.ctx.extractLsb' 18 110 ++ 0#1 ++ l.ctx.extractLsb' 0 17 })) ∧
     (l.ctx.getLsbD 17 = false → ∃ t, exec (.swaitKey r) s = .next t ∧ LaneEnds c j s t (laneEnded l (ctxSleeping l.ctx v (l.idx + 1)) true)) ∧
     (∃ t, exec .sdone s = .next t ∧ LaneEnds c j s t (laneEnded l (ctxEnded l.ctx (l.idx + 1)) false)) ∧
     ((l.rx r).toNat < p.count → (∀ m ∈ p.lanes, m.elem ≠ (l.rx r).toNat) → ∃ t, exec (.swake r r2) s = .next t ∧ t.laneAt c j = some (on l) ∧
       (t.passAt c).map Pass.bodyWakes = some (p.bodyWakes ++ [((l.rx r).toNat, (l.rx r2).extractLsb' 0 32)]) ∧ t.cores = s.cores ∧ SameMem s t))

/-- `swake` of a core on a context in its own scratchpad, which no pass sweeps, and no earlier store on its way: the context takes the wake, and nothing else changes; an address that is
no multiple of 16 raises cause 6. The body operations raise cause 2 outside a body (R161, R164, R345, R346). -/
def CoresWakeContexts : Prop :=
  ∀ (rd rs1 rs2 f : BitVec 5) (off n : Nat) (s : State), s.run.cur = .core n →
    (let c := s.coreAt n
     let illegal := Host.Outcome.next (s.takeTrapK n 2 (c.iw.setWidth 64) 0xFF)
     (c.rx rs1 = ownPad off → PadWritable n s off 16 → c.sb = [] → c.remStores = [] → c.posting = false → c.watches = [] → s.sweptElement n (c.rx rs1) = none →
       ∃ t, exec (.swake rs1 rs2) s = .next t ∧ CoreBecomes n s t c c.next ∧ OthersKept n s t ∧ BesidesMemory s t ∧
         PadTakes n s t off 16 (ctxWoken (BitVec.ofNat 128 (s.mem.read (kPad n off) 16)) ((c.rx rs2).extractLsb' 0 32)).toNat) ∧
     ((c.rx rs1).toNat % 16 ≠ 0 → exec (.swake rs1 rs2) s = .next (s.takeTrapK n 6 (c.rx rs1) 2)) ∧
     ∀ i ∈ [Instr.cld rd f, .nld rd f, .cst rs1 f, .semit rs1, .swaitStep, .swaitNb, .swaitCnt rs1, .swaitKey rs1, .sdone], exec i s = illegal)

/-- Register r, v register and mask of a workspace whose byte `o` is `b o` (R68). -/
def wsX (b : Nat → Byte) (r : Nat) : Word := BitVec.ofNat 64 (bytesToNat ((List.range 8).map (fun i => b (8 * r + i))))
def wsV (b : Nat → Byte) (r : Nat) : BitVec 512 := BitVec.ofNat 512 (bytesToNat ((List.range 64).map (fun i => b (256 + 64 * r + i))))
def wsM (b : Nat → Byte) (r : Nat) : Word := BitVec.ofNat 64 (bytesToNat ((List.range 8).map (fun i => b (2304 + 8 * r + i))))

/-- Controls of a core: `ckpt.step` counts, saturating; `dsw` writes dsel as a CSR write would; `wsw` to another workspace of the own scratchpad leaves the
registers in the old one and takes them from the new one, and raises cause 7 for an address that is no multiple of 256; `dbg.stepdrain` sets the bit of a
core that names this one as buddy, in supervisor mode only (R68, R71, R72, R234, R347, R350, R352). -/
def ControlsOfACoreAct : Prop :=
  ∀ (rs1 rs2 : BitVec 5) (n : Nat) (s : State), s.run.cur = .core n → n < Config.cores →
    (let c := s.coreAt n
     let v := c.rx rs1
     let illegal := Host.Outcome.next (s.takeTrapK n 2 (c.iw.setWidth 64) 0xFF)
     (∃ t, exec .ckptStep s = .next t ∧ Retires n s t { c with
       csr := { c.csr with ckstep := if c.csr.ckstep = 0xFFFFFFFF#32 then c.csr.ckstep else c.csr.ckstep + 1#32 } } c.next) ∧
     (v.toNat < 16 → s.tableIn c.ten (v.setWidth 4) = true → ∃ t, exec (.dsw rs1) s = .next t ∧
       Retires n s t { c with csr := { c.csr with dsel := v.setWidth 4 } } c.next) ∧
     (16 ≤ v.toNat ∨ s.tableIn c.ten (v.setWidth 4) = false → exec (.dsw rs1) s = illegal) ∧
     (∀ o p, v = ownPad o → c.csr.wsp = BitVec.ofNat 42 (0x22000000000 + p) → p + 2368 ≤ 0x40000 → o % 256 = 0 → o + 2368 ≤ 0x3FFB8 → o + 2368 ≤ p ∨ p + 2368 ≤ o →
       c.sb = [] → c.watches = [] → ∃ t, exec (.wsw rs1) s = .next t ∧
         (∀ i, i < 2368 → t.mem.byte (kPad n (p + i)) = c.wsByte i) ∧ (∀ a, (a < kPad n p ∨ kPad n p + 2368 ≤ a) → t.mem.byte a = s.mem.byte a) ∧
         (t.coreAt n).csr = { c.csr with wsp := BitVec.ofNat 42 (0x22000000000 + o) } ∧ (t.coreAt n).pc = c.next ∧
         (let b (i : Nat) : Byte := s.mem.byte (kPad n (o + i))
          ∀ r : BitVec 5, (t.coreAt n).rx r = (if r = 0#5 then 0#64 else wsX b r.toNat) ∧ (t.coreAt n).rv r = wsV b r.toNat ∧
            (r.toNat < 8 → (t.coreAt n).rm r.toNat = wsM b r.toNat))) ∧
     (∀ o, v = ownPad o → o < 0x40000 → o % 256 ≠ 0 → exec (.wsw rs1) s = .next (s.takeTrapK n 7 v 2)) ∧
     (c.mode = .s → v.toNat < 5120 → buddyOf (s.pair v.toNat) = n → s.savedIn v.toNat = none → v.toNat ≠ n → ∃ t, exec (.dbgStepdrain rs1 rs2) s = .next t ∧
       CoreBecomes n s t c c.next ∧ (t.coreAt v.toNat).unfed = { (s.coreAt v.toNat).unfed with stepdrain := (c.rx rs2).getLsbD 0 } ∧
       (∀ k, k ≠ n → k ≠ v.toNat → (t.coreAt k).unfed = (s.coreAt k).unfed) ∧ OutsideKept s t) ∧
     (c.mode = .u ∨ 5120 ≤ v.toNat ∨ buddyOf (s.pair v.toNat) ≠ n → exec (.dbgStepdrain rs1 rs2) s = illegal))

/-- `yield.slot` of the running tenant's core retires and stops the tenant as at an edge: with 180,000 cycles left in the entry the tenant it may be given to
runs next, with fewer none; the yielding core is noted. In the cycle of an edge that has just passed nothing is given up (R355). On a core of no task it only
retires, which is the model's reading (log 30). `rebuild` on a server core in supervisor mode answers 1 for a sealed body, 2 without one, starts or joins the rebuild of a void
one and answers when it has ended; elsewhere it raises cause 2 (R214, R226, R227, R348, R349). -/
def SlotsAreYieldedAndBodiesRebuilt : Prop :=
  (∀ (rs1 : BitVec 5) (n : Nat) (s : State), s.run.cur = .core n →
    (let c := s.coreAt n
     let named := if rs1 ≠ 0#5 ∧ (c.rx rs1).toNat < 16 then some (c.rx rs1).toNat else none
     (c.task = none → ∃ t, exec (.yieldSlot rs1) s = .next t ∧ Retires n s t c c.next) ∧
     (∀ k, c.task = some k → s.tabs.epoch = s.time.gtc → ∃ t, exec (.yieldSlot rs1) s = .next t ∧ Retires n s t c c.next) ∧
     ∀ k e, c.task = some k → s.disp.active = some k.ten → s.disp.drain = none → s.edgeAt = some e → s.tabs.epoch ≠ s.time.gtc → ∃ t, exec (.yieldSlot rs1) s = .next t ∧
       CoreBecomes n s t c c.next ∧ OthersKept n s t ∧ SameMem s t ∧ t.tabs = s.tabs ∧ t.disp = { s.disp with
         drain := some ⟨some k.ten, s.time.gtc, s.tabs.epoch, false, if e < s.time.gtc + 180000 then none else s.donate k.ten named, false, some n, none⟩ })) ∧
  ∀ (rd rs1 : BitVec 5) (n : Nat) (s : State), s.run.cur = .core n →
    (let c := s.coreAt n
     let i := ((c.rx rs1).extractLsb' 0 12).toNat
     let e := s.cap i
     (c.mode = .u ∨ s.isServer n = false → exec (.rebuild rd rs1) s = .next (s.takeTrapK n 2 (c.iw.setWidth 64) 0xFF)) ∧
     (c.mode = .s → s.isServer n = true →
       (c.contrib = .none → e.st = .sealed → ∃ t, exec (.rebuild rd rs1) s = .next t ∧ Retires n s t (c.wx rd 1#64) c.next) ∧
       (c.contrib = .none → e.st = .free ∨ e.st = .installing ∨ e.st = .deleted → ∃ t, exec (.rebuild rd rs1) s = .next t ∧ Retires n s t (c.wx rd 2#64) c.next) ∧
       (c.contrib = .none → e.st = .void → ∃ t, exec (.rebuild rd rs1) s = .next t ∧ t.cap i = { e with rb := true } ∧
         t.tabs.jobs = s.tabs.jobs ++ (if e.rb then [] else [(n, some i)]) ∧
         t.coreAt n = { c with contrib := .rebuild i (!e.rb), wait := .rebuild }) ∧
       ∀ k mine, c.contrib = .rebuild k mine → (s.cap k).rb = false → ∃ t, exec (.rebuild rd rs1) s = .next t ∧
         Retires n s t (c.wx rd (if mine then 0#64 else 3#64)) c.next))

/-- The combining operations of votes, with what an idle rank contributes (R14, R353). -/
noncomputable def voteOps : List ((BitVec 5 → BitVec 5 → Instr) × Nat × Bool × BitVec 32 × (BitVec 32 → BitVec 32 → BitVec 32)) :=
  [(.voteAnd, 0, false, 0xFFFFFFFF#32, fun a b => a &&& b), (.voteOr, 1, false, 0#32, fun a b => a ||| b),
   (.voteMax, 2, false, 0#32, fun a b => BitVec.ofNat 32 (max a.toNat b.toNat)), (.voteSum, 3, false, 0#32, fun a b => a + b),
   (.voteAndP, 0, true, 0xFFFFFFFF#32, fun a b => a &&& b), (.voteOrP, 1, true, 0#32, fun a b => a ||| b),
   (.voteMaxP, 2, true, 0#32, fun a b => BitVec.ofNat 32 (max a.toNat b.toNat)), (.voteSumP, 3, true, 0#32, fun a b => a + b)]

/-- The last voter of a field ends the vote: every voter takes the combined value, zero-extended, in its own rd and goes on, the field's clocks are level at their
largest, and a `.p` form names the plan in force; a voter who is not the last waits (R28, R127, R224, R353). That a core of no task votes alone is the
model's reading (log 70). -/
def VotesMeet : Prop :=
  ∀ q ∈ voteOps, ∀ (rd rs1 : BitVec 5) (n : Nat) (s : State), s.run.cur = .core n → (s.coreAt n).sb = [] → (s.coreAt n).contrib = .none →
    (s.coreAt n).remStores = [] → (s.coreAt n).posting = false → (s.coreAt n).lead ≠ some n →
    (s.coreAt n).iw.extractLsb' 7 5 = rd →
    (let c := s.coreAt n
     let mine := (c.rx rs1).extractLsb' 0 32
     (c.task = none → ∃ t, exec (q.1 rd rs1) s = .next t ∧ Retires n s t ((c.clocked c.swm).wx rd (mine.setWidth 64)) c.next) ∧
     (∀ m ∈ s.voters n, m ≠ n → (s.coreAt m).contrib = .none → ∃ t, exec (q.1 rd rs1) s = .next t ∧
       t.coreAt n = { c.clocked c.swm with contrib := .vote q.2.1 q.2.2.1 mine, wait := .vote } ∧ (∀ k, k ≠ n → { t.coreAt k with fwd := [] } = { s.coreAt k with fwd := [] }) ∧ OutsideKept s t) ∧
     ∀ (k : Task) (f : Field) (val : Nat → BitVec 32), c.task = some k → s.fieldOf k = some f → (s.voters n).Nodup → val n = mine →
       (∀ m ∈ s.voters n, m ≠ n → (s.coreAt m).contrib = .vote q.2.1 q.2.2.1 (val m)) →
       (let r := (s.voters n).foldl (fun a m => q.2.2.2.2 a (val m)) q.2.2.2.1
        let clock (m : Nat) : Nat := if m = n then max c.csr.lclk c.swm else (s.coreAt m).csr.lclk
        let top := f.cores.foldl (fun a m => max a (clock m)) 0
        ∃ t, exec (q.1 rd rs1) s = .next t ∧ SameMem s t ∧
          (∀ m ∈ s.voters n, (t.coreAt m).pc = (s.coreAt m).next ∧ (t.coreAt m).wait = .none ∧
            ∀ g : BitVec 5, (t.coreAt m).rx g = if g ≠ 0#5 ∧ g = (s.coreAt m).iw.extractLsb' 7 5 then r.setWidth 64 else (s.coreAt m).rx g) ∧
          (∀ m ∈ f.cores, (t.coreAt m).csr.lclk = top) ∧ t.fieldOf k = some (if q.2.2.1 then { f with plan := r.toNat % 16 } else f)))

/-- Following: a core that names a barrier and an active rank of its team waits, noting the barrier's phase and the leader; past the completion it takes on the
leader's next instruction. What a leader retires in user mode reaches each follower, which goes on while its next address and the outcome of a branch are the leader's
and detaches when one is not (R24, R25, R351). The leader of a core that itself follows is the one it has at the first execution (log 82). -/
def FollowersTakeTheirLeadersInstructions : Prop :=
  (∀ (rs1 rs2 : BitVec 5) (n : Nat) (s : State), s.run.cur = .core n → (s.coreAt n).lead = none →
    (let c := s.coreAt n
     let b := (c.rx rs1).toNat
     let j := (c.rx rs2).toNat
     (c.contrib = .none → 128 ≤ b ∨ 16 ≤ j ∨ s.rankIdle n j = true → exec (.follow rs1 rs2) s = .next (s.takeTrapK n 2 (c.iw.setWidth 64) 0xFF)) ∧
     (c.contrib = .none → b < 128 → j < 16 → s.rankIdle n j = false → ∃ t, exec (.follow rs1 rs2) s = .next t ∧ OthersKept n s t ∧ OutsideKept s t ∧
       t.coreAt n = { c with
         contrib := .follow b ((c.bar.getD b 0#64).getLsbD 57) (Tbl.get 0 c.bdone b) ((s.coreAt (16 * clusterOf n + j)).lead.getD (16 * clusterOf n + j)) false
         fwd := [], wait := .follow }) ∧
     ∀ q ph done l seen, c.contrib = .follow q ph done l seen →
       ((c.bar.getD q 0#64).getLsbD 57 = ph → ∃ t, exec (.follow rs1 rs2) s = .next t ∧ t.coreAt n = { c with wait := .follow }) ∧
       (∀ f rest, (c.bar.getD q 0#64).getLsbD 57 ≠ ph → l ≠ n → c.fwd = f :: rest → c.frzReq = false → c.stepping = false →
         ∃ t, exec (.follow rs1 rs2) s = .next t ∧ OutsideKept s t ∧ (∀ k, k ≠ n → t.coreAt k = s.coreAt k) ∧ t.coreAt n = { c with
           lead := some l, pc := f.pc, lastRet := s.time.gtc, wait := .none, contrib := .none, reply := .none }))) ∧
  ∀ (n : Nat) (s : State), s.run.cur = .core n → Tbl.wf Core.reset s.cores = true →
    (let c := s.coreAt n
     ∃ t, exec .fenceOwn s = .next t ∧
       (c.mode = .u → ∀ k, k ≠ n → (s.coreAt k).lead = some n → (s.coreAt k).contrib = .none → t.coreAt k = { s.coreAt k with
         fwd := (s.coreAt k).fwd ++ [⟨c.iw, c.pc, c.next, false, false⟩] }) ∧
       ∀ l f rest, c.lead = some l → l ≠ n → c.fwd = f :: rest → c.frzReq = false → c.stepping = false →
         (f.next = c.next ∧ f.taken = false → (t.coreAt n).lead = some l ∧ (t.coreAt n).fwd = rest) ∧
         (f.next ≠ c.next ∨ f.taken = true → (t.coreAt n).lead = none ∧ (t.coreAt n).fwd = []))

/-! Events of the dispatcher, of power, of the clocks and of slots. -/

/-- An error counter (R244). -/
def errCounter (s : State) (i : Nat) : Nat := Tbl.get 0 s.tabs.errs i

/-- It has risen by one, saturating. -/
def CountsOne (s t : State) (i : Nat) : Prop := errCounter t i = min (2 ^ 64 - 1) (errCounter s i + 1)

/-- The journal entry of sequence number `j` shows this STATE and STATUS (R192). -/
def EntryShows (t : State) (j state status : Nat) : Prop :=
  t.mem.read (kCtrl (journalOff j)) 8 = j % 2 ^ 64 ∧ t.mem.read (kCtrl (journalOff j + 9)) 1 = state ∧ t.mem.read (kCtrl (journalOff j + 16)) 4 = status

/-! Events of homes, caches and the host directory. -/

/-- No host agent holds anything and no core owns a line at its home. -/
def HomesQuiet (s : State) : Prop := s.home.dir = [] ∧ ∀ l ∈ s.home.llc, l.ov = false

/-! Events from outside: host agents, the directory, CXL, other modules, dead agents and links. -/

/-- The module has sent this to a host or to another module, and nothing else has changed. -/
def Sends (s t : State) (o : Out) : Prop := t = { s with net := { s.net with outs := s.net.outs ++ [o] } }

/-- `v` bytes written at `key`, every other byte as before. -/
def BytesWritten (s t : State) (key : Nat) (data : List Byte) : Prop :=
  ∀ a, t.mem.byte a = if key ≤ a ∧ a < key + data.length then data.getD (a - key) 0#8 else s.mem.byte a

/-- MIR of a line after a write at its home: it clears when a replica of the line leaves (R119, R144). -/
def mirLeft (s : State) (l : LlcLine) : Bool := l.mir && s.home.replicas.all (fun r => !decide (r.line = l.line))

/-- A line has been read at its home: it is the most recently used, a resident one as it stood, and no byte and no core has changed (R116, R124). -/
def ReadAtHome (s t : State) (line : Nat) : Prop :=
  t.mem = s.mem ∧ t.cores = s.cores ∧ (∃ l, t.home.llc.head? = some l ∧ l.line = line) ∧ ∀ l, s.llcFind line = some l → t.llcFind line = some l

/-- A command of block `b` has started, with this sequence value, and none waits behind it (R207). -/
def BlockWaits (s : State) (b : Nat) (v : Word) : Prop := (s.block b).running = some (v, 0) ∧ (s.block b).pending = none

/-- The block at this offset shows the status of the command with this sequence value, and no command of it waits or runs (R207). -/
def BlockEnded (t : State) (b off : Nat) (v : Word) (status : Nat) : Prop :=
  t.mem.read (kCtrl (off + 48)) 8 = status ∧ t.mem.read (kCtrl (off + 40)) 8 = v.toNat ∧ (t.block b).pending = none ∧ (t.block b).running = none

/-- Which bit of a page-table entry permits the access (R148). -/
def permitBit (k : Access) : Nat := if k = .fetch then 8 else if k = .load then 6 else 7

end Sys2Proof

/-! The statements. -/

open Sys2Proof Sys2Proof.Machine

/-- Decoding the word of a well-formed instruction gives the instruction back, whatever its operands. -/
def Obligations.DecodeOfEncodeGivesTheInstruction : Prop :=
  ∀ (i : Instr) (w : IWord), i.wf = true → encode i = some w → decode w = .ok i

/-- Each word that decodes has one meaning: it is the word of the instruction, and that is well formed (R40, R45). -/
def Obligations.EncodeOfDecodeGivesTheWord : Prop :=
  ∀ (w : IWord) (i : Instr), decode w = .ok i → i.wf = true ∧ encode i = some w

/-- Words written out from the spec's encodings and examples decode to the instructions they stand for. -/
def Obligations.SpecExampleWordsDecode : Prop :=
  decode 0x43F55513#32 = .ok (.srai 10#5 10#5 63#6) ∧ decode 0x01DE0E3B#32 = .ok (.addw 28#5 28#5 29#5) ∧
    decode 0x02C58533#32 = .ok (.mul 10#5 11#5 12#5) ∧ decode 0x02C5C53B#32 = .ok (.divw 10#5 11#5 12#5) ∧
    decode 0x00000073#32 = .ok .ecall ∧ decode 0x10200073#32 = .ok .sret

/-- A step in which nothing is due and the schedule is empty runs exactly one instruction of the acting core: the one that the word at its pc decodes to (on a server core in supervisor mode, or in the text of its task's capsule under its decode table), or the oldest one its leader has forwarded; the step is exec of it, one cycle later and with the word noted (R24, R38, R40). That an empty schedule lets the acting agent run, and that one cycle passes, are the model's choices (logs 5 and 6). -/
def Obligations.StepRunsTheInstruction : Prop := StepRunsTheDecodedServerInstruction ∧ StepRunsTheDecodedTaskInstruction ∧ StepRunsTheForwardedInstruction

/-- A turn of the schedule whose cycles may all pass runs the agent it names, or makes the event it names happen, or lets the server abort a launch. The
schedule, the gaps of its turns and the act by which the server aborts are the model's choices (logs 5, 6 and 23); no rule names them. -/
def Obligations.StepFollowsTheSchedule : Prop :=
  ∀ (s : State) (g : Nat) (rest : List Turn), s.due = none → g ≤ s.gapLimit g →
    (∀ a, s.run.sched = ⟨g, .run a⟩ :: rest →
      step s = turn { ({ s with run := { s.run with sched := rest } }).pass g with
        run := { ({ s with run := { s.run with sched := rest } }).run with cur := a } }) ∧
    (∀ i, schedulable i = true → s.run.sched = ⟨g, .event i⟩ :: rest →
      step s = exec i (({ s with run := { s.run with sched := rest } }).pass g)) ∧
    (∀ j, s.run.sched = ⟨g, .abort j⟩ :: rest → step s = .next ((({ s with run := { s.run with sched := rest } }).pass g).serverAbort j))

/-- No step stops: every state has a next one, whatever the acting agent meets (the model's own; the spec stops the module nowhere). -/
def Obligations.EveryStepGoesOn : Prop := ∀ s : State, GoesOn s

/-- Every step, of whatever agent and whatever event, keeps the canonical form of memory and of the tables of cores and clusters, so that equal contents are equal
data; other statements take parts of it as a premise. -/
def Obligations.EveryStepKeepsTheCanonicalForm : Prop := ∀ s t : State, Canonical s → step s = .next t → Canonical t

/-- What reset leaves (R8, R20, R78, R120, R193, R209, R233): the canonical form, gtc 0, TBASE 2^24, the journal empty with HEAD and TAIL 1, no slot table
running, the CSRs of the Reset column, the server clusters with power and every other cluster gated. That srstate is 1 and dsel 0 there is the model's choice (log 1: no
rule gives a value), and so are clear memory and the mode S (logs 3 and 4). -/
def Obligations.ResetStateIsAsTheSpecSays : Prop :=
  Canonical State.reset ∧ (∀ c, (State.reset.clusterAt c).power = if State.reset.tabs.servers.contains c then .awake else .gated) ∧ (∀ a, State.reset.mem.byte a = 0#8) ∧ State.reset.time.gtc = 0 ∧ State.reset.time.tbase = 2 ^ 24 ∧
    State.reset.tabs.head = 1 ∧ State.reset.tabs.tail = 1 ∧ State.reset.tabs.run = false ∧
    ∀ n, (State.reset.coreAt n).mode = .s ∧ State.reset.csrRead n .lease = 64#64 ∧ State.reset.csrRead n .acfg = 0#64 ∧
      State.reset.csrRead n .srstate = 1#64 ∧ State.reset.csrRead n .vmsel = 8#64 ∧ State.reset.csrRead n .scbchk = 0#64 ∧
      State.reset.csrRead n .dsel = 0#64 ∧ State.reset.csrRead n .sstatus = 0#64 ∧ State.reset.csrRead n .sie = 0#64

/-- Every OP, OP-32, OP-IMM and OP-IMM-32 instruction, multiply and divide, `lui` and `auipc` retire on a core for all operands and write rd with the result of the rules; a write of x0 is discarded; nothing else changes (R66, R251, R254, R255, R256). -/
def Obligations.RegisterAndImmediateOperations : Prop := XRegistersReadWhatWasWritten ∧ RegisterOperationsWriteTheirResult ∧ ImmediateOperationsWriteTheirResult

/-- A sweep lane executes the same register operations on its own registers: its index moves on, and nothing but the lane changes
(R160). -/
def Obligations.LanesExecuteTheScalarOperations : Prop :=
  (∀ p ∈ registerOps, ∀ (rd rs1 rs2 : BitVec 5) (c j : Nat) (l : Lane) (s : State), s.run.cur = .lane c j → s.laneAt c j = some l →
    l.count < 2048 → ∃ t, exec (p.1 rd rs1 rs2) s = .next t ∧
      LaneRetires c j s t { l.wx rd (p.2 (l.rx rs1) (l.rx rs2)) with idx := l.idx + 1, count := l.count + 1 }) ∧
  ∀ p ∈ immediateOps, ∀ (rd rs1 : BitVec 5) (i : BitVec 12) (c j : Nat) (l : Lane) (s : State), s.run.cur = .lane c j →
    s.laneAt c j = some l → l.count < 2048 → ∃ t, exec (p.1 rd rs1 i) s = .next t ∧
      LaneRetires c j s t { l.wx rd (p.2 (l.rx rs1) i) with idx := l.idx + 1, count := l.count + 1 }

/-- A branch retires to its target when its condition holds and to pc + 4 when it does not; `jal` and `jalr` write the link and retire to their target; of each, a taken target that is no multiple of 4 retires nothing and raises cause 0 with stval the target (R37, R252, R253). -/
def Obligations.BranchesAndJumpsGoToTheirTarget : Prop := BranchesGoWhereTheirConditionSays ∧ JumpsLinkAndGo

/-- A load of readable bytes of the own scratchpad gives rd the bytes, the core's own waiting stores over them; a store to writable bytes retires into the store buffer and changes no byte of memory yet (R125, R172, R257 to R260). -/
def Obligations.LoadsAndStoresOfTheOwnScratchpad : Prop := LoadsReadTheOwnScratchpad ∧ StoresEnterTheStoreBuffer

/-- A load or store whose address is no multiple of its size raises cause 4 or 6, and one whose address does not decode cause 5 or 7, with stval the address (R86, R260). -/
def Obligations.BadAddressesTrap : Prop := MisalignedAccessesTrap ∧ UndecodableAddressesFault

/-- Every trap of a core is taken as its route says, whatever its cause, stval and access kind. -/
def Obligations.TrapsGoWhereTheyAreRouted : Prop :=
  ∀ (s : State) (n cause : Nat) (tval : Word) (kacc : Nat), TrapTaken n s (s.takeTrapK n cause tval kacc) cause tval

/-- `ecall` raises cause 8 in user mode and 9 in supervisor mode with stval 0 and the trap's pc its own address; `ebreak` raises cause 3 with stval the pc; both
retire nothing. Their words are 0x0000_0073 and 0x0010_0073, and any other SYSTEM word with funct3 000 but those of `sret` and `wfi` decodes to nothing, so that a
step raises cause 2 with it (R265). -/
def Obligations.EnvironmentCallsTakeTheirTrap : Prop :=
  (∀ (s : State) (n : Nat), s.run.cur = .core n →
    (∃ t, exec .ecall s = .next t ∧ TrapTaken n s t (if (s.coreAt n).mode = .u then 8 else 9) 0#64) ∧
    ∃ t, exec .ebreak s = .next t ∧ TrapTaken n s t 3 (s.coreAt n).pc) ∧
  decode 0x00000073#32 = .ok .ecall ∧ decode 0x00100073#32 = .ok .ebreak ∧
  ∀ w : IWord, w.extractLsb' 0 7 = 0x73#7 → w.extractLsb' 12 3 = 0#3 → w ≠ 0x00000073#32 → w ≠ 0x00100073#32 → w ≠ 0x10200073#32 → w ≠ 0x10500073#32 →
    (∃ e, decode w = .error e) ∧ ∀ (s : State) (n : Nat), s.run.cur = .core n → runWord none w s = .next (s.takeTrap n 2 (w.setWidth 64))

/-- `sret` restores mode, status and pc, and `wfi` retires when an enabled interrupt is pending and waits else; both raise cause 2 in user mode (R266, R267). -/
def Obligations.ReturnsAndWaitsForInterrupts : Prop := SretReturnsToTheSavedModeAndAddress ∧ WfiRetiresOnAPendingInterrupt

/-- An interrupt is taken only in S, only between instructions, and only when SIE is 1 and (sip and sie) has bit 9 or bit 1 set: otherwise nothing happens, and the
pending bits stay. It enters S with the interrupt bit and code 9 before code 1, stval 0, and sepc the address of the next instruction (R271). -/
def Obligations.InterruptsAreTakenInSupervisorModeOnly : Prop :=
  ∀ (s : State) (n : Nat),
    ((s.coreAt n).mode = .u ∨ (s.coreAt n).midway = true ∨ (s.csrRead n .sstatus).getLsbD 1 = false ∨ (s.csrRead n .sip &&& s.csrRead n .sie) = 0#64 →
      exec (.interrupt n) s = .next s) ∧
    (s.interruptNow n = true → ∃ t, exec (.interrupt n) s = .next t ∧ (t.coreAt n).pc = (s.coreAt n).sup.stvec ∧ (t.coreAt n).mode = .s ∧
      (t.coreAt n).sup = { (s.coreAt n).sup with
        sepc := (s.coreAt n).pc &&& 0xFFFFFFFFFFFFFFFC#64, stval := 0#64
        scause := 1#1 ++ (if (s.csrRead n .sip &&& s.csrRead n .sie).getLsbD 9 = true then 9#63 else 1#63), spp := true, spie := true, sie := false } ∧
      (t.coreAt n).x = (s.coreAt n).x ∧ (∀ k, k ≠ n → t.coreAt k = s.coreAt k) ∧ OutsideKept s t)

/-- A CSR instruction that the mode may execute writes rd with the old value and the CSR with the new one, as the CSR stores it; every other one raises cause 2 with its word and writes nothing (R78, R79, R263, R264). -/
def Obligations.CsrInstructionsAct : Prop := CsrInstructionsReadAndWrite ∧ ForbiddenCsrAccessesAreIllegal ∧ CsrReadsGiveWhatWritesLeave

/-- Every integer vector operation, on 32-bit lanes or on packed elements, gives each active element of vd the result of the rules and keeps the others (R46, R48, R273, R278, R279). -/
def Obligations.LaneAndPackedIntegerOperations : Prop := LaneOperationsComputeEachActiveLane ∧ PackedOperationsComputeEachActiveElement

/-- Every floating operation gives each active lane or element one rounded result of its exact value, and leaves the others; absolute
value and negation change the sign bit alone (R277, R280, R281). -/
def Obligations.FloatOperationsComputeEachActiveElement : Prop :=
  (∀ p ∈ floatOps, ∀ (rd rs1 rs2 : BitVec 5) (stall : BitVec 3) (n : Nat) (s : State), s.run.cur = .core n → VectorReady n s →
    ∃ t w, exec (p.1 rd rs1 rs2 stall) s = .next t ∧ VectorRetires n s t p.2.1 stall rd.toNat w ∧
      ∀ j, j < 16 → vlane w j = (if (s.coreAt n).active j then
        p.2.2 (s.coreAt n) (vlane ((s.coreAt n).rv rs1) j) (vlane ((s.coreAt n).rv rs2) j) (vlane ((s.coreAt n).rv rd) j)
        else vlane ((s.coreAt n).rv rd) j)) ∧
  (∀ p ∈ halfOps, ∀ (rd rs1 rs2 : BitVec 5) (stall : BitVec 3) (n : Nat) (s : State), s.run.cur = .core n → VectorReady n s →
    ∃ t w, exec (p.1 rd rs1 rs2 stall) s = .next t ∧ VectorRetires n s t 4 stall rd.toNat w ∧
      ∀ e, e < 32 → velem w 16 e = (if (s.coreAt n).active e then
        p.2.2 (s.coreAt n) p.2.1 (velem ((s.coreAt n).rv rs1) 16 e) (velem ((s.coreAt n).rv rs2) 16 e) (velem ((s.coreAt n).rv rd) 16 e) % 2 ^ 16
        else velem ((s.coreAt n).rv rd) 16 e)) ∧
  ∀ (rd rs1 : BitVec 5) (stall : BitVec 3) (n : Nat) (s : State), s.run.cur = .core n → VectorReady n s →
    (∃ t w, exec (.vfabsF32 rd rs1 stall) s = .next t ∧ VectorRetires n s t 3 stall rd.toNat w ∧
      ∀ j, j < 16 → vlane w j = (if (s.coreAt n).active j then 0#1 ++ (vlane ((s.coreAt n).rv rs1) j).extractLsb' 0 31 else vlane ((s.coreAt n).rv rd) j)) ∧
    ∃ t w, exec (.vfnegF32 rd rs1 stall) s = .next t ∧ VectorRetires n s t 3 stall rd.toNat w ∧
      ∀ j, j < 16 → vlane w j = (if (s.coreAt n).active j then
        ~~~(vlane ((s.coreAt n).rv rs1) j).extractLsb' 31 1 ++ (vlane ((s.coreAt n).rv rs1) j).extractLsb' 0 31 else vlane ((s.coreAt n).rv rd) j)

/-- A compare or `vfclass` sets the bits of the active lanes in its mask; mask logic computes all 64 bits (R282). -/
def Obligations.ComparesAndMaskLogic : Prop := ComparesWriteMasks ∧ MaskLogicComputesAllBits

/-- Permutes move lanes, reductions fold the active lanes in the tree of R284, and scans accumulate them in ascending order (R283, R284, R285, R288). -/
def Obligations.PermutesReductionsAndScans : Prop := PermutesMoveLanes ∧ ReductionsFoldTheActiveLanes ∧ ScansAccumulateTheActiveLanes

/-- A conversion converts each active element of its part, keeps every other element, steps the generator when it rounds stochastically, and collects events in the mask its word names (R109, R286, R287). -/
def Obligations.ConversionsConvertAndCollectEvents : Prop := ConversionsConvertTheActiveElements ∧ ConversionsCollectEventsInAMask

/-- A custom-0 instruction that would underrun raises cause 24 under scbchk.EN; `vrep` of one `vand` word repeats and staggers it, and raises cause 2 for more than 16 repetitions (R48, R289). -/
def Obligations.UnderrunsAndRepetitions : Prop := UnderrunsTrapUnderTheCheck ∧ VrepRepeatsAndStaggers

/-- Vector loads of the own scratchpad write the active elements of vd and keep the others; a vector store puts the active elements' bytes into the store buffer (R47, R125, R258, R294, R298). -/
def Obligations.VectorLoadsAndStores : Prop := VectorLoadsReadTheOwnScratchpad ∧ VectorStoresEnterTheStoreBuffer

/-- Gathers and scatters load and store the word of each active lane at its own address, and the lane-slice forms in each lane's own slice (R47, R114, R296, R297). -/
def Obligations.GathersScattersAndLaneSlices : Prop := GathersAndScattersReachEachActiveLane ∧ LaneSlicesBelongToTheirLanes

/-- A hint whose address may not be read only counts, one that names the own scratchpad only retires, and one on a line at its home moves it as R298 gives (R241, R298). -/
def Obligations.HintsMoveLinesAndNeverTrap : Prop := HintsNeverTrap ∧ HintsMoveTheLine

/-- Moves between x registers, lanes and masks write their destination and wait for what they read; `wcfg` writes a consistent window entry or raises cause 28, and `wrd` reads one (R47, R94, R98, R299). -/
def Obligations.MovesAndWindowEntries : Prop := MovesBetweenRegisterFiles ∧ WindowEntriesAreChecked

/-- Matrix instructions of a core without the lease raise cause 26; `mlease`, `mlease.try` and `mrel` take and free it, and a free one is granted in rank order (R306, R307, R308). The answer 0 of `mlease.try` on a free lease that others wait for, and the time of a grant, are the model's choices (log 87). -/
def Obligations.LeasesGuardTheArray : Prop := MatrixInstructionsNeedTheLease ∧ LeasesAreTakenAndFreed ∧ FreeLeasesAreGrantedInRankOrder

/-- An INT8 `mma` adds its dot products to the tile in saturating chunks; an `mma` of any operand format consumes an entry of each ring, waits for one, or raises cause 25 (R112, R310, R315). -/
def Obligations.MultipliesAccumulateAndConsume : Prop := Int8MultiplyAccumulates ∧ MultiplyConsumesItsOperands

/-- Rings: `rcfg` writes a descriptor with count and head 0 or raises cause 25; `rrel` clears V; `rstat` reads the descriptor; `rpop` advances HEAD
modulo the depth and takes one from CNT, or waits at an empty ring; `rpeek` gives the address of an entry that has been filled (R73, R312, R313). -/
def Obligations.RingsAreConfiguredPeekedAndPopped : Prop :=
  ∀ (rd r r2 : BitVec 5) (n : Nat) (s : State), s.run.cur = .core n →
    (let c := s.coreAt n
     let b := c.rx r
     let k := c.rx r2
     let q := c.ring r
     let depth := (k.extractLsb' 0 10).toNat + 1
     let esz := (k.extractLsb' 12 4).toNat
     let good := b.toNat % 128 = 0 ∧ k.toNat < 2 ^ 20 ∧ k.extractLsb' 10 2 = 0#2 ∧ (k.extractLsb' 16 4).toNat < 8 ∧ esz ≤ 9 ∧
       b.toNat + depth * (64 * 2 ^ esz) ≤ 0x400000
     (rd.toNat < 16 → good → ¬ ringBusy s n rd → ∃ t, exec (.rcfg rd r r2) s = .next t ∧
       Retires n s t (c.setRing rd
         (1#1 ++ 0#2 ++ 0#11 ++ 0#10 ++ k.extractLsb' 16 4 ++ k.extractLsb' 12 4 ++ k.extractLsb' 0 10 ++ b.extractLsb' 0 22)) c.next) ∧
     (rd.toNat < 16 → ¬ good ∨ ringBusy s n rd → exec (.rcfg rd r r2) s = .next (s.takeTrapK n 25 (BitVec.ofNat 64 rd.toNat) 0xFF)) ∧
     (r.toNat < 16 → ¬ ringBusy s n r → ∃ t, exec (.rrel r) s = .next t ∧
       Retires n s t (c.setRing r (0#1 ++ q.extractLsb' 0 63)) c.next) ∧
     (r.toNat < 16 → ∃ t, exec (.rstat rd r) s = .next t ∧ Retires n s t (c.wx rd q) c.next) ∧
     (r.toNat < 16 → ringV q = true → ringCnt q ≠ 0 → ∃ t, exec (.rpop r) s = .next t ∧ Retires n s t (c.setRing r (ringPop q)) c.next) ∧
     (r.toNat < 16 → ringV q = true → ringCnt q = 0 → ∃ t, exec (.rpop r) s = .next t ∧ t.coreAt n = { c with wait := .pop }) ∧
     (r.toNat < 16 → ringV q = true → k.toNat < ringDepth q → k.toNat < ringCnt q → ∃ t, exec (.rpeek rd r r2) s = .next t ∧
       Retires n s t (c.wx rd (BitVec.ofNat 64
         (0x22000400000 + ringBase q + (ringHead q + k.toNat) % ringDepth q * (64 * 2 ^ ringEsz q)))) c.next) ∧
     (r.toNat < 16 → ringV q = false → exec (.rpop r) s = .next (s.takeTrapK n 25 (BitVec.ofNat 64 r.toNat) 0xFF) ∧
       exec (.rpeek rd r r2) s = .next (s.takeTrapK n 25 (BitVec.ofNat 64 r.toNat) 0xFF)))

/-- `macc.clr` clears a tile, `macc.ld` loads its rows, `macc.st` puts each row, from row 0 or from the row that its progress word names, into the store buffer as one store, and `mstat`, `mprog` and their clearing forms read status and progress (R317 to R321). -/
def Obligations.TilesAreClearedLoadedStoredAndRead : Prop := ClearZeroesTheTile ∧ StatusAndProgressWordsAreRead ∧ AccumulatorLoadsReadRows ∧ AccumulatorStoresPutEachRowIntoTheBuffer

/-- The holder of the lower team and the holder of the higher one meet in a gang reduction of two teams: the lower team's tile takes, element by
element, its own value combined with the other's, and both cores retire (R113, R323). -/
def Obligations.GangReductionCombinesTwoTeams : Prop :=
  ∀ (rs1 : BitVec 5) (acc : BitVec 3) (float : Bool) (a b n m : Nat) (k : Task) (f : Field) (s : State), s.run.cur = .core n →
    (s.coreAt n).rx rs1 = 2#64 → (s.coreAt n).task = some k → s.fieldOf k = some f → f.teams = [a, b] → a ≠ b → k.team < 2 →
    s.holderCore a = some (if k.team = 0 then n else m) → s.holderCore b = some (if k.team = 0 then m else n) → n ≠ m →
    clusterOf n = (if k.team = 0 then a else b) → clusterOf m = (if k.team = 0 then b else a) → (s.coreAt n).sb = [] →
    (s.coreAt m).contrib = .gred float acc.toNat 2 → (s.clusterAt a).badRow = none → ((s.clusterAt a).prog.getD acc.toNat 0#64).getLsbD 7 = false →
    TileClean s a acc.toNat → TileClean s b acc.toNat →
    ∃ t, exec (if float then .gredF32 rs1 acc else .gredI32 rs1 acc) s = .next t ∧ (t.coreAt n).pc = (s.coreAt n).next ∧
      (t.coreAt m).pc = (s.coreAt m).next ∧ (t.coreAt n).wait = .none ∧ (t.coreAt m).wait = .none ∧ SameMem s t ∧
      (∀ i, i < 64 → t.accRow b acc.toNat i = s.accRow b acc.toNat i) ∧
      ∀ i j, i < 64 → j < 96 → accElem t a acc.toNat i j =
        if float then (accAdd (accElem s a acc.toNat i j) (Fmt.fp32.decode (accElem s b acc.toNat i j))).1 % 2 ^ 32
        else (BitVec.ofInt 32 (addSat (accElem s a acc.toNat i j) (BitVec.ofNat 32 (accElem s b acc.toNat i j)).toInt)).toNat

/-- An atomic on an aligned, writable word of the own scratchpad, with nothing to drain or confirm and no request on its way, retires: memory takes the new value at once, rd the
old one (a 32-bit one sign-extended), and nothing else changes; an aggregated add of a core of no task is an add, since that such a core acts alone is the
model's choice (log 70). A misaligned address traps with cause 6 (R328, R329, R330). -/
def Obligations.AtomicsUpdateTheOwnScratchpad : Prop :=
  (∀ p ∈ amoOps, ∀ (rd rs1 rs2 : BitVec 5) (so : BitVec 3) (off n : Nat) (s : State), s.run.cur = .core n →
    (let c := s.coreAt n
     let old := s.mem.read (kPad n off) p.2.1
     let arg (r : BitVec 5) : Nat := (c.rx r).toNat % 2 ^ (8 * p.2.1)
     c.rx rs1 = ownPad off → PadWritable n s off p.2.1 → c.sb = [] → c.watches = [] → c.reply = .none → c.remAsked = false → (∀ g, c.wait ≠ .atomicOp g) →
     c.remStores = [] → c.cxl = [] →
     ∃ t, exec (p.1 rd rs1 rs2 so) s = .next t ∧
       CoreBecomes n s t ((amoCore s n so).wx rd ((BitVec.ofNat (8 * p.2.1) old).signExtend 64)) c.next ∧ OthersKept n s t ∧ BesidesMemory s t ∧
       PadTakes n s t off p.2.1 (p.2.2 old (arg rs2) (arg rd)))) ∧
  (∀ p ∈ [(Instr.amoAggaddD, 8), (Instr.amoAggaddW, 4)], ∀ (rd rs1 rs2 : BitVec 5) (so : BitVec 3) (off n : Nat) (s : State), s.run.cur = .core n →
    (let c := s.coreAt n
     let old := s.mem.read (kPad n off) p.2
     c.rx rs1 = ownPad off → PadWritable n s off p.2 → c.sb = [] → c.watches = [] → c.reply = .none → c.remAsked = false → (∀ g, c.wait ≠ .atomicOp g) →
     c.remStores = [] → c.cxl = [] → c.task = none →
     c.contrib = .none → c.iw.extractLsb' 7 5 = rd → ∃ t, exec (p.1 rd rs1 rs2 so) s = .next t ∧
       CoreBecomes n s t ((amoCore s n so).wx rd ((BitVec.ofNat (8 * p.2) old).signExtend 64)) c.next ∧ OthersKept n s t ∧ BesidesMemory s t ∧
       PadTakes n s t off p.2 (old + (c.rx rs2).toNat))) ∧
  ∀ p ∈ amoOps, ∀ (rd rs1 rs2 : BitVec 5) (so : BitVec 3) (n : Nat) (s : State), s.run.cur = .core n → (s.coreAt n).reply = .none → (s.coreAt n).remAsked = false →
    (∀ g, (s.coreAt n).wait ≠ .atomicOp g) → ((s.coreAt n).rx rs1).toNat < 0x22000000000 → ((s.coreAt n).rx rs1).toNat % p.2.1 ≠ 0 →
    exec (p.1 rd rs1 rs2 so) s = .next (s.takeTrapK n 6 ((s.coreAt n).rx rs1) 3)

/-- Fences with an empty store buffer and nothing unconfirmed retire: a release raises the clock to the store mark SWM, an acquire moves no clock; a far
fence of one other core that stands at a boundary makes that core serialise, and both end at the larger of their clocks and store marks (R127, R175, R180, R262, R331, R332). -/
def Obligations.FencesRaiseTheClock : Prop :=
  ∀ (rd rs1 rs2 : BitVec 5) (fm pred succ : BitVec 4) (scope : BitVec 3) (n : Nat) (s : State), s.run.cur = .core n →
    (let c := s.coreAt n
     c.sb = [] → c.remStores = [] → c.cxl = [] →
     (∃ t, exec (.fence rd rs1 fm pred succ) s = .next t ∧ Retires n s t (c.clocked c.swm) c.next) ∧
     (∃ t, exec (.fenceR scope) s = .next t ∧ Retires n s t (c.clocked c.swm) c.next) ∧
     (∃ t, exec (.fenceA scope) s = .next t ∧ Retires n s t (acquired s c scope) c.next) ∧
     (∃ t, exec (.fenceS scope) s = .next t ∧ Retires n s t (acquired s (c.clocked c.swm) scope) c.next) ∧
     (∃ t, exec .fenceOwn s = .next t ∧ Retires n s t c c.next) ∧
     (c.task = none → ∃ t, exec (.fenceFar rs1 rs2) s = .next t ∧ Retires n s t (c.clocked c.swm) c.next) ∧
     ∀ m, c.rx rs2 = 1#64 → s.logicalCore n (c.rx rs1).toNat = some m → m ≠ n → (s.coreAt m).sb = [] → s.within m = false →
       (let d := s.coreAt m
        let top := max (max c.csr.lclk c.swm) (max d.csr.lclk d.swm)
        ∃ t, exec (.fenceFar rs1 rs2) s = .next t ∧ CoreBecomes n s t (c.clocked top) c.next ∧ (t.coreAt m).unfed = (d.clocked top).unfed ∧
          (∀ k, k ≠ n → k ≠ m → (t.coreAt k).unfed = (s.coreAt k).unfed) ∧ OutsideKept s t))

/-- `waita` on the own scratchpad retires with the value when it meets the condition, and takes SCM; otherwise the core sleeps, registered at the
scratchpad's watch table. `wfe` clears EV and retires, or waits while EV is 0; `sev` sets EV of the core it names, unless a `wfe` of that core has consumed
the events of the cycle, and is discarded when no entry is valid (R126, R183, R333, R334, R335). -/
def Obligations.WaitsEndWhenTheirConditionHolds : Prop :=
  (∀ p ∈ waitaOps, ∀ (rd rs1 rs2 : BitVec 5) (off n : Nat) (s : State), s.run.cur = .core n →
    (let c := s.coreAt n
     let old := s.mem.read (kPad n off) p.2.2
     let holds := decide (old = (c.rx rs2).toNat % 2 ^ (8 * p.2.2)) = p.2.1
     c.wait = .none → c.rx rs1 = ownPad off → PadReadable n s off p.2.2 → c.sb = [] →
     (∀ w ∈ s.home.waiters, w.2 ≠ n) → (∀ k, ∀ w ∈ (s.coreAt k).watches, w.1 ≠ n) →
     (holds → ∃ t, exec (p.1 rd rs1 rs2) s = .next t ∧
       Retires n s t ((c.clocked c.scm).wx rd ((BitVec.ofNat (8 * p.2.2) old).signExtend 64)) c.next) ∧
     (¬ holds → c.watches.length < 16 → ∃ t, exec (p.1 rd rs1 rs2) s = .next t ∧
       t.coreAt n = { c with watches := c.watches ++ [(n, off / 128)], reply := .none, remAsked := false, wait := .waita true } ∧
       (∀ k, k ≠ n → t.coreAt k = s.coreAt k) ∧ OutsideKept s t))) ∧
  ∀ (rs1 : BitVec 5) (n : Nat) (s : State), s.run.cur = .core n →
    (let c := s.coreAt n
     (c.ev = true → ∃ t, exec .wfe s = .next t ∧ Retires n s t { c with ev := false } c.next) ∧
     (c.ev = false → ∃ t, exec .wfe s = .next t ∧ t.coreAt n = { c with wait := .event } ∧ (∀ k, k ≠ n → t.coreAt k = s.coreAt k) ∧ OutsideKept s t) ∧
     (s.logicalCore n (c.rx rs1).toNat = none → ∃ t, exec (.sev rs1) s = .next t ∧ Retires n s t c c.next) ∧
     ∀ m, s.logicalCore n (c.rx rs1).toNat = some m → ∃ t, exec (.sev rs1) s = .next t ∧
       CoreBecomes n s t (if m = n then { c with ev := c.ev || !s.noted (.wfe n) } else c) c.next ∧
       (m ≠ n → (t.coreAt m).unfed = { (s.coreAt m).unfed with ev := (s.coreAt m).ev || !s.noted (.wfe m) }) ∧
       (∀ k, k ≠ n → k ≠ m → (t.coreAt k).unfed = (s.coreAt k).unfed) ∧ OutsideKept s t)

/-- Messages. `rbcfg` writes an allowed descriptor or raises cause 2. `msg.send` of bytes of the own scratchpad that the plan in force allows, to a valid
logical core whose buffer takes it, puts them on their way; outside the plan it raises cause 7 with D. A message of the live incarnation lands in its slot,
its counter rises by one and EV is set unless a `wfe` has consumed the events of the cycle; one whose buffer is not valid, or whose core stands frozen,
waits; one of a dead incarnation is dropped and counted. `msg.wait` takes c messages or waits (R74, R182, R183, R203, R224, R336, R337, R338). That a byte of
the argument block beneath a message keeps its value is the model's choice (log 100). -/
def Obligations.MessagesCarryBlocks : Prop :=
  (∀ (rs1 num : BitVec 5) (n : Nat) (s : State), s.run.cur = .core n →
    (let c := s.coreAt n
     (rbAllowed (c.rx rs1) → ∃ t, exec (.rbcfg rs1 num) s = .next t ∧ Retires n s t { c with rb := c.rb.setIfInBounds num.toNat (c.rx rs1) } c.next) ∧
     (¬ rbAllowed (c.rx rs1) → exec (.rbcfg rs1 num) s = .next (s.takeTrapK n 2 (c.iw.setWidth 64) 0xFF)))) ∧
  (∀ (rs1 rs2 : BitVec 5) (off n : Nat) (s : State), s.run.cur = .core n →
    (let c := s.coreAt n
     let w := c.rx rs2
     let d := (w.extractLsb' 0 13).toNat
     let b := (w.extractLsb' 16 4).toNat
     let slot := (w.extractLsb' 20 12).toNat
     let size := 64 * 2 ^ (w.extractLsb' 32 2).toNat
     c.rx rs1 = ownPad off → off % 64 = 0 → off + size ≤ 0x40000 → s.inWs n off size = false → s.anyPoison (kPad n off) size = false →
     (w.extractLsb' 32 2).toNat < 3 → w.extractLsb' 13 3 = 0#3 → w.extractLsb' 34 30 = 0#30 →
     (s.inPlan n d b slot = false → exec (.msgSend rs1 rs2) s = .next (s.takeTrapK n 7 (BitVec.ofNat 64 d) 2)) ∧
     ∀ m, s.inPlan n d b slot = true → s.logicalCore n d = some m → s.inFlight n < 4 → rbRejects ((s.coreAt m).rb.getD b 0#64) slot size = false →
       ∃ t, exec (.msgSend rs1 rs2) s = .next t ∧ CoreBecomes n s t c c.next ∧ OthersKept n s t ∧
         NetBecomes s t { s.net with msgs := s.net.msgs ++ [⟨n, m, b, slot, c.ten, c.inc, seenBytes n s off size, s.run.cmds, []⟩] })) ∧
  (∀ (src dst : Nat) (m : Msg) (pre post : List Msg) (s : State), s.net.msgs = pre ++ m :: post → (∀ x ∈ pre, x.src = src → x.dst ≠ dst) →
    m.src = src → m.dst = dst →
    (let d := (s.coreAt dst).rb.getD m.buf 0#64
     let at_ := (d.extractLsb' 0 18).toNat + m.slot * (64 * 2 ^ (d.extractLsb' 56 2).toNat)
     (m.srcInc ≠ (s.coreAt src).inc → ∃ t, exec (.messageLanding src dst) s = .next t ∧ t.net.msgs = pre ++ post ∧ t.cores = s.cores ∧
       Tbl.get 0 t.tabs.errs 14 = min (2 ^ 64 - 1) (Tbl.get 0 s.tabs.errs 14 + 1)) ∧
     (m.srcInc = (s.coreAt src).inc → d.getLsbD 63 = false ∨ (s.coreAt dst).frz.isSome = true → exec (.messageLanding src dst) s = .next s) ∧
     (m.srcInc = (s.coreAt src).inc → d.getLsbD 63 = true → rbRejects d m.slot m.bytes.length = false → (s.coreAt dst).frz = none →
       (s.coreAt dst).watches = [] →
       ∃ t, exec (.messageLanding src dst) s = .next t ∧ t.net.msgs = pre ++ post ∧
         t.coreAt dst = { s.coreAt dst with
           mc := (s.coreAt dst).mc.setIfInBounds m.buf ((s.coreAt dst).mc.getD m.buf 0#32 + 1#32)
           ev := (s.coreAt dst).ev || !s.noted (.wfe dst) } ∧
         (∀ k, k ≠ dst → t.coreAt k = s.coreAt k) ∧
         (∀ i, i < m.bytes.length → t.mem.byte (kPad dst at_ + i) =
           if s.inArgs dst (at_ + i) 1 then s.mem.byte (kPad dst at_ + i) else m.bytes.getD i 0#8) ∧
         ∀ a, (a < kPad dst at_ ∨ kPad dst at_ + m.bytes.length ≤ a) → t.mem.byte a = s.mem.byte a))) ∧
  ∀ (rd rs1 num : BitVec 5) (n : Nat) (s : State), s.run.cur = .core n →
    (let c := s.coreAt n
     let k := (c.rx rs1).extractLsb' 0 32
     let mc := c.mc.getD num.toNat 0#32
     (k.toNat ≤ mc.toNat → ∃ t, exec (.msgWait rd rs1 num) s = .next t ∧
       Retires n s t (({ c with mc := c.mc.setIfInBounds num.toNat (mc - k) } : Core).wx rd (mc.setWidth 64)) c.next) ∧
     (mc.toNat < k.toNat → ∃ t, exec (.msgWait rd rs1 num) s = .next t ∧ t.coreAt n = { c with wait := .message } ∧
       (∀ k, k ≠ n → t.coreAt k = s.coreAt k) ∧ OutsideKept s t))

/-- Barriers are configured, count the arrivals or bytes of their mode, discard those of the other mode, complete at TGT, and are waited for; arrivals of one cycle add up (R75, R235 to R237, R339, R340, R371). -/
def Obligations.BarriersCountArrivals : Prop := BarrierWordsCountArrivals ∧ ArrivalsOfOneCycleAddUp

/-- Engine queues. `epush` of a record in the own scratchpad to an engine that works on a command and has room puts the command there with its tenant, core
and launch, reserves a result element for RES, and raises the clock to SWM; with a full queue, or RES and eight elements, it holds. A port push does the same
for the host, or is held behind those held before. `epop` stores the element that ended first, takes its mark and answers its TAG, answers all ones with no
element, holds while none has ended, and raises cause 50 for a fault (R177, R197, R198, R199, R201, R341, R342, R371, R374). A push that reads a buffer
unsealed in the same cycle waits as well, since `unseal` looks at CNT after the pushes of its cycle (R240). -/
def Obligations.EnginesTakeCommands : Prop :=
  (∀ (rs1 eng : BitVec 5) (off n : Nat) (s : State), s.run.cur = .core n → n < Config.cores → eng = 0#5 ∨ (4 ≤ eng.toNat ∧ eng.toNat < 8) →
    (let c := s.coreAt n
     let e := if eng = 0#5 then clusterOf n else 1000 + 4 * dieOf (clusterOf n) + (eng.toNat - 4)
     let raw := BitVec.ofNat 512 (bytesToNat (seenBytes n s off 64))
     let x := s.engAt e
     let d := c.clocked c.swm
     let full := (x.shd ≠ none ∧ 6 ≤ x.queue.length) ∨ (rawRes raw = true ∧ 8 ≤ c.results.length)
     let late := s.unsealedNow (rawField raw 8 8) (rawField raw 24 8) = true
     c.rx rs1 = ownPad off → RecordReadable n s off → c.sb = [] → c.remStores = [] → c.cxl = [] →
     (full ∨ late → ∃ t, exec (.epush rs1 eng) s = .next t ∧ t.coreAt n = { d with wait := .hold } ∧ (∀ k, k ≠ n → t.coreAt k = s.coreAt k) ∧ OutsideKept s t) ∧
     ((∃ b, x.cur = some b ∧ b.start = 1) → ¬ full → ¬ late → InTurn s x.last n → s.sealRefs (rawField raw 8 8) (rawField raw 24 8) = [] →
       ∃ t, exec (.epush rs1 eng) s = .next t ∧ OthersKept n s t ∧ CommandsAside s t ∧
         CoreBecomes n s t { d with results := if rawRes raw then c.results ++ [reservedElement raw s.run.cmds] else c.results } c.next ∧
         EngineTakes { x with last := some (s.time.gtc, n) } (t.engAt e)
           ⟨raw, s.run.cmds, some n, c.ten, c.asid, c.csr.lcore.toNat, c.jseq, rawField raw 32 4, 0, 0, [], none⟩ ∧
         ∀ u, u ≠ e → t.engAt u = s.engAt u))) ∧
  (∀ (e : Nat) (raw : BitVec 512) (s : State), e < 16 →
    (let x := s.engAt (1000 + e)
     let full := (x.shd ≠ none ∧ 6 ≤ x.queue.length) ∨ (rawRes raw = true ∧ 8 ≤ x.results.length)
     s.unsealedNow (rawField raw 8 8) (rawField raw 24 8) = false →
     (full ∨ x.held ≠ [] → ∃ t, exec (.portCommandPush e raw) s = .next t ∧ t.engAt (1000 + e) = { x with held := x.held ++ [raw] } ∧ t.cores = s.cores) ∧
     ((∃ b, x.cur = some b ∧ b.start = 1) → ¬ full → x.held = [] → s.sealRefs (rawField raw 8 8) (rawField raw 24 8) = [] →
       ∃ t, exec (.portCommandPush e raw) s = .next t ∧ CommandsAside s t ∧ t.cores = s.cores ∧
         EngineTakes { x with results := if rawRes raw then x.results ++ [reservedElement raw s.run.cmds] else x.results } (t.engAt (1000 + e))
           ⟨raw, s.run.cmds, none, rawField raw 5 1, rawField raw 6 2, 0xFFFFFFFF, 0, rawField raw 32 4, 0, 0, [], none⟩))) ∧
  (∀ (e : Nat) (s : State), e < 16 →
    (let x := s.engAt (1000 + e)
     x.held = [] →
     (∀ k r rest, k = 8 ∨ k = 16 → x.results = r :: rest → ∃ t, exec (.portResultPop e k) s = .next t ∧ CommandsAside s t ∧ t.cores = s.cores ∧
       t.engAt (1000 + e) = if r.ended then { x with results := rest, latch := if k = 16 then x.latch else some (r.fidx ++ r.status ++ r.done) } else x) ∧
     ∃ t, exec (.portResultLatchRead e) s = .next t ∧ CommandsAside s t ∧ t.cores = s.cores ∧ t.engAt (1000 + e) = { x with latch := none })) ∧
  ∀ (rd rs1 : BitVec 5) (off n : Nat) (s : State), s.run.cur = .core n →
    (let c := s.coreAt n
     (c.results = [] → ∃ t, exec (.epop rd rs1) s = .next t ∧ Retires n s t (c.wx rd 0xFFFFFFFFFFFFFFFF#64) c.next) ∧
     (c.results ≠ [] → (∀ r ∈ c.results, r.ended = false) → ∃ t, exec (.epop rd rs1) s = .next t ∧ t.coreAt n = { c with wait := .pop }) ∧
     (∀ r, endedFirst c.results r → r.status = 1#16 →
       exec (.epop rd rs1) s = .next (s.takeTrapK n 50 (r.fidx.setWidth 64) 0xFF)) ∧
     (∀ r, endedFirst c.results r → r.status ≠ 1#16 → c.rx rs1 = ownPad off → PadWritable n s off 16 → c.sb.length < 32 →
       ∃ t, exec (.epop rd rs1) s = .next t ∧ Retires n s t (({ c with
         results := c.results.erase r
         sb := c.sb ++ [⟨.scratch n off, (natToBytes 8 r.tag.toNat ++ natToBytes 4 r.done.toNat ++ natToBytes 2 r.status.toNat ++
           natToBytes 2 r.fidx.toNat).map some, c.asid⟩] } : Core).clocked r.mark |>.wx rd r.tag) c.next))

/-- An engine's current command copies one sector of at most 128 bytes between two scratchpads of its tenant, each piece within one block: the bytes arrive, the
barrier report goes on its way, and the engine moves on. A command whose source does not decode ends by a fault: cause 50 with its address in a fault record,
and no byte of a scratchpad changes (R86, R199, R200, R205). -/
def Obligations.SectorsCopyOrFault : Prop :=
  ∀ (e src off dst to_ : Nat) (c : Cmd) (s : State),
    (let x := s.engAt e
     x.cur = some c → c.pend = none → c.start = 1 → s.engAsking e = false → c.raw.extractLsb' 0 8 = 1#8 → rawField c.raw 1 1 % 2 = 0 → rawRes c.raw = false → c.sector = 0 → c.refs = [] →
     rawField c.raw 4 1 = 0 → rawField c.raw 32 4 = 0 → rawField c.raw 36 4 = 0 → 0 < rawField c.raw 24 8 → rawField c.raw 24 8 ≤ 128 →
     x.shd = none → x.queue = [] → x.held = [] →
     (let len := rawField c.raw 24 8
      rawField c.raw 8 8 = padAddr src off → rawField c.raw 16 8 = padAddr dst to_ → src < 5120 → dst < 5120 → off % 128 + len ≤ 128 → to_ % 128 + len ≤ 128 →
      off + len ≤ 0x40000 → to_ + len ≤ 0x40000 → s.padOpenTo c.ten src = true → s.padOpenTo c.ten dst = true → s.inWs src off len = false →
      s.inWs dst to_ len = false → s.inArgs dst to_ len = false → s.inSeal dst to_ len = false → s.anyPoison (kPad src off) len = false →
      s.anyPoison (kPad dst to_) len = false → (s.coreAt dst).watches = [] →
      ∃ t, exec (.sectorComplete e) s = .next t ∧ t.engAt e = { x with cur := none } ∧ t.time = s.time ∧ t.home = s.home ∧ t.tabs = s.tabs ∧
        (∀ k, t.coreAt k = s.coreAt k) ∧ t.mem.readBytes (kPad dst to_) len = s.mem.readBytes (kPad src off) len ∧
        (∀ a, (a < kPad dst to_ ∨ kPad dst to_ + len ≤ a) → t.mem.byte a = s.mem.byte a) ∧
        t.net.reports = s.net.reports ++ (match c.core with
          | some m => if c.raw.getLsbD 9 then [⟨m, rawField c.raw 2 1, none, len, x.ewm, 10000 + e, s.agentInc (10000 + e)⟩] else []
          | none => [])) ∧
     (2 ^ 55 ≤ rawField c.raw 8 8 → (s.fq c.ten).next - (s.fq c.ten).head < 1024 →
      ∃ t, exec (.sectorFault e) s = .next t ∧ t.engAt e = { x with cur := none } ∧ (∀ k, t.coreAt k = s.coreAt k) ∧
        (t.fq c.ten).next = (s.fq c.ten).next + 1 ∧ (∀ a, a < space 5 → t.mem.byte a = s.mem.byte a) ∧
        (let r := kCtrl (0x2000000 + c.ten * 0x20000 + 64 * ((s.fq c.ten).next % 1024))
         t.mem.read (r + 8) 2 = 50 ∧ t.mem.read (r + 16) 8 = rawField c.raw 8 8)))

/-- Stage queues pass records of 64 bytes from stage to stage; `seal`, `unseal` and `sealrd` take, free and read entries of the seal table (R145, R146, R194, R195, R343, R344). -/
def Obligations.StageQueuesAndSealedBuffers : Prop := StageQueuesPassRecords ∧ SealsTakeAndFreeEntries

/-- Sweep passes. `sweep` with a descriptor of no poisoned word that keeps its limits waits for the engine with a pass of the descriptor's, and raises cause 29
with stval all ones for another; it stands behind every earlier arrival, and among the arrivals of its cycle by its core's number. A pass that has waited for a cycle starts with
the first group's elements, or ends at once when its cursor stands at the end; a group with no element to write commits, and after the last group the pass
ends (R157, R158, R159, R163, R169, R345, R364). -/
def Obligations.SweepPassesRun : Prop :=
  (∀ (rd rs1 : BitVec 5) (n : Nat) (s : State), s.run.cur = .core n →
    (let c := s.coreAt n
     let k := s.clusterAt (clusterOf n)
     c.sb = [] → c.remStores = [] → c.posting = false → c.sweepTrap = none → Tbl.wf Cluster.gated s.clusters = true →
     k.pass = none → (∀ q ∈ k.passes, q.core ≠ n) → s.descPoisoned n (c.rx rs1) = none →
     (s.passOf n rd (c.rx rs1) = none → exec (.sweep rd rs1) s = .next (s.takeTrapK n 29 0xFFFFFFFFFFFFFFFF#64 0xFF)) ∧
     ∀ p, s.passOf n rd (c.rx rs1) = some p → ∃ t, exec (.sweep rd rs1) s = .next t ∧ p.core = n ∧ p.rd = rd.toNat ∧ p.desc = (c.rx rs1).toNat ∧
       (∃ l r, k.passes = l ++ r ∧ (∀ q ∈ l, q.arrived < s.time.gtc ∨ q.core < n) ∧ (∀ q, r.head? = some q → s.time.gtc ≤ q.arrived ∧ n < q.core) ∧
         t.clusterAt (clusterOf n) = { k with passes := l ++ p :: r }) ∧ t.coreAt n = { c.clocked c.swm with wait := .sweep } ∧ SameMem s t)) ∧
  (∀ (cl d off : Nat) (p : Pass) (rest : List Pass) (s : State), DescAt cl d off p s →
    (let k := s.clusterAt cl
     k.pass = none → k.passes = p :: rest → p.arrived < s.time.gtc → s.stopPending p = false → (s.coreAt p.core).wait = .sweep → p.wakes = [] →
     p.recordWaits = none →
     (p.count ≤ p.cur → ∃ t, exec (.sweepPassStart cl) s = .next t ∧ PassEnds cl d off p p.count s t) ∧
     ∀ ctx, p.cur = 0 → 0 < p.count → 0 < p.width → GroupReads p s (min p.width p.count) ctx → (∀ e, (ctx e).getLsbD 19 = false) →
       ∃ t q, exec (.sweepPassStart cl) s = .next t ∧ t.passAt cl = some q ∧ q.loaded = true ∧ q.lanes.length = min p.width p.count ∧ SameMem s t ∧
         ∀ j l, q.lanes[j]? = some l → l.elem = j ∧ ((ctx j).getLsbD 16 = true ∨ (ctx j).getLsbD 18 = true → l.st = .idle))) ∧
  ∀ (cl d off : Nat) (p : Pass) (s : State), DescAt cl d off p s → s.passAt cl = some p → p.loaded = true → (∀ l ∈ p.lanes, l.st = .idle ∧ l.visited = false ∧ l.emits = [] ∧ l.ctx = l.leftCtx) →
    (∀ l ∈ p.lanes, ∀ q ∈ [(p.ctxAddr l.elem, 16), (p.dataAddr l.elem, p.elemBytes), (p.skipAddr l.elem, 8)], ∀ k, s.planeShut p q.1 q.2 k = false) →
    p.wakes = [] → p.bodyWakes = [] → p.recordWaits = none → p.count ≤ p.cur + p.width → s.stopPending p = false →
    ∃ t, exec (.groupCommit cl) s = .next t ∧ PassEnds cl d off p p.count s t

/-- The operations of a sweep body act on the lane's own element and end its segment as R161 gives; a core's `swake` wakes a context in memory; the body operations raise cause 2 outside a body (R161 to R164, R346). -/
def Obligations.SweepBodiesAndWakes : Prop := SweepBodiesOperate ∧ CoresWakeContexts

/-- The controls of a core act: `ckpt.step`, `dsw`, `wsw`, `dbg.stepdrain`, `yield.slot` and `rebuild` (R72, R214, R227, R234, R347 to R350, R352). -/
def Obligations.ControlsYieldsAndRebuilds : Prop := ControlsOfACoreAct ∧ SlotsAreYieldedAndBodiesRebuilt

/-- The last voter of a field ends the vote for all; a core that follows takes its leader's instructions until its next address differs (R24, R25, R28, R351, R353). -/
def Obligations.VotesAndFollowing : Prop := VotesMeet ∧ FollowersTakeTheirLeadersInstructions

/-- A jump or a taken branch of user mode to the task-exit address ends the task: the core holds it no longer, its workspace holds the registers (a jump's rd
written), NRUN falls where the task's field has started, the launch counts it, and with the last task of the field every core of the field is free (R18, R70,
R71, R242, R250, R252, R253). When a field has started is the model's reading (log 42). -/
def Obligations.TaskExitEndsTheTask : Prop :=
  ∀ (n : Nat) (k : Task) (l : Launch) (f : Field) (s : State), s.run.cur = .core n → (s.coreAt n).mode = .u →
    (s.coreAt n).task = some k → s.launch k.jseq = some l → s.fieldOf k = some f →
    (let c := s.coreAt n
     let o := c.csr.wsp.toNat - 0x22000000000
     let ends (i : Instr) (d : Core) : Prop := ∃ t, exec i s = .next t ∧ (t.coreAt n).task = none ∧
       (t.cap k.caps).nrun = (if s.fieldStarted n then (s.cap k.caps).nrun - 1#16 else (s.cap k.caps).nrun) ∧
       (∃ m, t.launch k.jseq = some m ∧ m.ntask = l.ntask + 1) ∧ (∀ i, i < 2368 → t.mem.byte (kPad n (o + i)) = d.wsByte i) ∧
       (f.tasks (l.stage k.stage) ≤ f.ended.length + 1 → ∀ m ∈ f.cores, (t.coreAt m).task = none)
     0x22000000000 ≤ c.csr.wsp.toNat → o + 2368 ≤ 0x40000 →
     (∀ (rd : BitVec 5) (j : BitVec 20), c.pc + immJ j = 0x3E400000000#64 → ends (.jal rd j) (c.wx rd c.next)) ∧
     (∀ (rd rs1 : BitVec 5) (i : BitVec 12), (c.rx rs1 + BitVec.ofInt 64 i.toInt) &&& ~~~1#64 = 0x3E400000000#64 → ends (.jalr rd rs1 i) (c.wx rd c.next)) ∧
     ∀ p ∈ branchOps, ∀ (rs1 rs2 : BitVec 5) (hi : BitVec 7) (lo : BitVec 5), p.2 (c.rx rs1) (c.rx rs2) → c.pc + immB hi lo = 0x3E400000000#64 →
       ends (p.1 rs1 rs2 hi lo) c)

/-- Launches. A new sequence value that lands puts the slot's record behind those of earlier cycles and, among those of its own cycle, in slot order; 0 and the
pending value do not. The parse, a cycle later or more, gives the record the number HEAD: a completion address that is no multiple of 64 refuses it with status 3; a good one without dependences starts. A launch whose named entry ended
badly ends with STATE 4 and status 4; one whose tasks have all ended writes its completion record and ends with STATE 3; one that the server aborts, which is the model's choice of when
(log 23), ends with STATE 5 and status 7, and its saved tasks are abandoned and counted off NCTX. Each end writes the completion record where the address
still translates, here to host memory, and none where it does not (R186, R187, R188, R189, R190, R191, R192, R242). -/
def Obligations.LaunchesLandAndEnd : Prop :=
  (∀ (slot : Nat) (seq : BitVec 8) (s : State), slot < 256 →
    (seq = 0#8 ∨ seq = s.pendingSeq slot → ∃ t, exec (.launchLanding slot seq) s = .next t ∧ t.disp = s.disp ∧ t.tabs = s.tabs) ∧
    (seq ≠ 0#8 → seq ≠ s.pendingSeq slot → ∃ t, exec (.launchLanding slot seq) s = .next t ∧ t.tabs = s.tabs ∧
      ∃ l r, s.disp.landings.filter (fun m => decide (m.slot ≠ slot)) = l ++ r ∧ (∀ m ∈ l, m.cycle < s.time.gtc ∨ m.slot < slot) ∧
        (∀ m, r.head? = some m → s.time.gtc ≤ m.cycle ∧ slot < m.slot) ∧
        t.disp = { s.disp with landings := l ++ ⟨slot, s.mem.readBytes (kCtrl (256 * slot)) 255 ++ [seq], s.time.gtc⟩ :: r })) ∧
  (∀ (a : Landing) (rest : List Landing) (s : State), s.disp.landings = a :: rest → s.journalFull = false → a.cycle < s.time.gtc →
    (let l := s.launchOf a
     (l.caddr.toNat % 64 ≠ 0 → ∃ t, exec .launchParse s = .next t ∧ EntryShows t l.jseq 4 3 ∧ t.tabs.head = s.tabs.head + 1 ∧ t.disp.landings = rest ∧
       t.disp.launches = s.disp.launches ∧ Tbl.get 0#64 t.tabs.status a.slot = a.seq ++ BitVec.ofNat 56 l.jseq) ∧
     ∀ u e, s.caddrPage l = .ok (u, some e) → u.parseStatus l a.record true = 0 → l.dep0 = 0 → l.dep1 = 0 → l.over = false →
       (∀ m ∈ u.disp.launches, m.jseq ≠ l.jseq) → ∃ t, exec .launchParse s = .next t ∧ EntryShows t l.jseq 2 0 ∧ t.tabs.head = s.tabs.head + 1 ∧
         t.disp.launches = u.disp.launches ++ [{ l with running := true }] ∧ Tbl.get 0#64 t.tabs.status a.slot = a.seq ++ BitVec.ofNat 56 l.jseq)) ∧
  ∀ (l : Launch) (s : State), s.disp.launches = [l] →
    (let stored : Prop := ∀ n, (s.coreAt n).sb = [] ∧ (s.coreAt n).remStores = [] ∧ (s.coreAt n).cxl = []
     let ends (t : State) (status : Nat) (page : Option TlbEntry) : Prop := t.disp.launches = [] ∧ ∀ e, page = some e →
       t.mem.read (e.key l.caddr.toNat) 8 = l.jseq % 2 ^ 64 ∧ t.mem.read (e.key l.caddr.toNat + 8) 4 = status
     ∀ page, s.caddrPage l = .ok (s, page) → (∀ e, page = some e → e.bk = 1 ∧ e.key l.caddr.toNat + 64 ≤ space 2) → s.home.replicas = [] →
    (l.running = false → s.depBad l = true → ∃ t, exec (.launchCompletion l.jseq) s = .next t ∧ EntryShows t l.jseq 4 4 ∧ ends t 4 page) ∧
    (l.running = true → l.over = true → stored → s.engineWorks (fun c => decide (c.jseq = l.jseq)) = false →
      ∃ t, exec (.launchCompletion l.jseq) s = .next t ∧ EntryShows t l.jseq 3 0 ∧ ends t 0 page) ∧
    (s.abortable l = true → stored → let t := s.serverAbort l.jseq
      EntryShows t l.jseq 5 7 ∧ ends t 7 page ∧ (∀ f ∈ t.disp.fields, f.jseq ≠ l.jseq) ∧
        (∀ p ∈ (Tbl.get Ctx.empty t.disp.ctxs l.ten).cores, p.2.ofLaunch l.jseq = false) ∧
        (t.cap l.caps).nctx = (s.cap l.caps).nctx - BitVec.ofNat 16 ((Tbl.get Ctx.empty s.disp.ctxs l.ten).tasksOf l.jseq)))

/-- Placement and power. A field that may be placed takes free clusters, the first free ones when it has no gang and none is kept for another stage, and power
is called for; a rank is loaded with its
registers, CSRs and argument block, over a zeroed workspace, and with the last rank of a field NRUN rises for its tasks (log 42); a cluster that the rule gates loses its power; one that has waited for its power has it, with
its SRAM zero (R13, R17, R19, R20, R69, R78, R80, R242, R370). -/
def Obligations.FieldsArePlacedAndLoaded : Prop :=
  (∀ (j st : Nat) (l : Launch) (teams held : List Nat) (s : State), s.launch j = some l → l.running = true → (l.stage st).waits = true →
    s.slotActive l.ten = true → s.stageTurn l st = true → s.picks l st = some (teams, held) → ∃ t, exec (.fieldPlacement j st) s = .next t ∧
      t.disp.fields = s.disp.fields ++ [⟨j, st, (l.stage st).placed, teams, held, [], [], 0⟩] ∧
      ((s.cap l.caps).gang st = none → s.keptStages l st = [] → teams = (s.freeClusters l.ten).take ((l.stage st).teams (l.stage st).placed)) ∧
      ∀ c ∈ teams ++ held, c ∈ s.freeClusters l.ten ∧ (t.clusterAt c).user = some l.ten ∧ (t.clusterAt c).power ≠ .gated) ∧
  (∀ (n ten team : Nat) (f : Field) (l : Launch) (s : State), s.disp.active = some ten → s.slotActive ten = true → s.loadField ten n = some f →
    s.launch f.jseq = some l → f.teams.idxOf? (clusterOf n) = some team → (s.coreAt n).sb = [] → (s.coreAt n).watches = [] → s.coreQuiet n = true →
    l.args.length = 9 → s.fieldOf (taskAt l f team (n % 16)) = some f →
    (let k := taskAt l f team (n % 16)
     let lcore : BitVec 32 := BitVec.ofNat 4 k.stage ++ BitVec.ofNat 28 k.index
     let seed := l.jseed ^^^ (lcore.setWidth 64 * 0x9E3779B97F4A7C15#64)
     k.idle = false → ∃ t, exec (.taskLoad n) s = .next t ∧ (t.coreAt n).task = some k ∧ (t.coreAt n).mode = .u ∧
       (∀ r : BitVec 5, (t.coreAt n).rx r = if r = 1#5 then 0x3E400000000#64 else if r = 10#5 then 0x2200003FFB8#64
         else if r = 11#5 then BitVec.ofNat 64 k.index else 0#64) ∧
       (∀ r, (t.coreAt n).rv r = 0#512) ∧ (t.coreAt n).csr.lcore = lcore ∧ (t.coreAt n).csr.ptag = BitVec.ofNat 16 l.asid ++ 0#12 ++ BitVec.ofNat 4 l.ten ∧
       (t.coreAt n).csr.srstate = (if seed = 0#64 then 1#64 else seed) ∧ (t.coreAt n).csr.wsp = 0x2200003F000#42 ∧
       (t.cap l.caps).nrun = (s.cap l.caps).nrun + (if ({ f with loaded := k.logical :: f.loaded } : Field).full then
         BitVec.ofNat 16 (f.tasks (l.stage k.stage) - f.ended.length) else 0#16) ∧ (∀ i, i < 2368 → t.mem.byte (kPad n (0x3F000 + i)) = 0#8) ∧
       ∀ i, i < 9 → t.mem.read (kPad n (0x3FFB8 + 8 * i)) 8 = (l.args.getD i 0#64).toNat)) ∧
  ∀ (c : Nat) (s : State),
    (s.gateable c = true → s.owned c = false ∨ (s.clusterWanted c = false ∧ (s.clusterAt c).idleSince + 65536 ≤ s.time.gtc) →
      ∃ t, exec (.powerGate c) s = .next t ∧ (t.clusterAt c).power = .gated) ∧
    ∀ r, (s.clusterAt c).power = .waking r → Memory.wf s.mem = true →
      (s.time.gtc < r → exec (.clusterWake c) s = .next s) ∧
      (r ≤ s.time.gtc → ∃ t, exec (.clusterWake c) s = .next t ∧ (t.clusterAt c).power = .awake ∧ (t.clusterAt c).acc = [] ∧
        (∀ i, i < 32 → ((t.clusterAt c).seals.getD i ⟨true, 0, 0, 0⟩).s = false) ∧
        ∀ a, t.mem.byte a = if kPad (16 * c) 0 ≤ a ∧ a < kPad (16 * c + 16) 0 then 0#8 else s.mem.byte a)

/-- Clocks. A self-tick raises every core's clock by one, never above the ceiling; a rebase at the limit reduces every clock and mark and drops shared copies;
throttling withholds issue cycles and counts them; a core that has retired nothing for 3,600,000 cycles freezes with code 52; an idle lease falls free
after 65,536 cycles; a quiescent tenant raises cause 49 once (R35, R120, R121, R129, R221, R243, R308). That throttling delays the vector unit of every core
that does not stand as after reset is the model's choice (log 34). -/
def Obligations.ClocksMoveAsTheRulesSay : Prop :=
  ∀ s : State, Tbl.wf Core.reset s.cores = true →
    (∃ t, exec .selfTick s = .next t ∧ t.time = { s.time with ticks := s.time.ticks + 1 } ∧ t.mem = s.mem ∧ ∀ n, n < 5120 →
      t.coreAt n = { s.coreAt n with csr := { (s.coreAt n).csr with
        lclk := if (s.coreAt n).csr.lclk < s.ceil then (s.coreAt n).csr.lclk + 1 else (s.coreAt n).csr.lclk } }) ∧
    (s.ceil < 2 ^ 31 + 2 ^ 30 → exec .rebase s = .next s) ∧
    (2 ^ 31 + 2 ^ 30 ≤ s.ceil → (∀ n, (s.coreAt n).sb = []) → ∃ t, exec .rebase s = .next t ∧
      (let b := s.ceil - 2 ^ 24
       t.ceil = 2 ^ 24 ∧ CountsOne s t 20 ∧ SameMem s t ∧
         (∀ n, (t.coreAt n).csr.lclk = (s.coreAt n).csr.lclk - b ∧ (t.coreAt n).swm = (s.coreAt n).swm - b ∧ (t.coreAt n).scm = (s.coreAt n).scm - b ∧
           (t.coreAt n).x = (s.coreAt n).x ∧ ∀ a ∈ (t.coreAt n).l1, a.owned = true) ∧
         t.home.llc = s.home.llc.map (fun (l : LlcLine) => { l with wts := l.wts - b, rts := l.rts - b }))) ∧
    (∀ k, ∃ t, exec (.throttle k) s = .next t ∧ errCounter t 18 = min (2 ^ 64 - 1) (errCounter s 18 + k) ∧ t.time = s.time ∧
      ∀ n, s.coreAt n ≠ Core.reset → t.coreAt n = { s.coreAt n with vnext := max (s.coreAt n).vnext s.time.gtc + k }) ∧
    (∀ n, s.watched52 n (s.coreAt n) = true → (s.coreAt n).lastRet + 3600000 ≤ s.time.gtc → ∃ t, exec (.watchdogFreeze n) s = .next t ∧
      (t.coreAt n).frz = some ⟨52, (s.coreAt n).pc, (s.coreAt n).pc, true, s.time.gtc⟩ ∧ (t.coreAt n).x = (s.coreAt n).x ∧ CountsOne s t 9) ∧
    (∀ c h, s.leaseIdle c = true → 65537 ≤ (s.clusterAt c).lidle → (s.clusterAt c).holder = some h →
      ∃ t, exec (.leaseRevocation c) s = .next t ∧ t.clusterAt c = { s.clusterAt c with holder := none, lastHolder := some h, lidle := 0 } ∧
        t.cores = s.cores ∧ SameMem s t) ∧
    ∀ k, s.disp.active = some k → s.slotActive k = true → s.quiescent k = true → s.disp.quietRaised.contains k = false →
      65536 ≤ Tbl.get 0 s.disp.quiet k → (s.fq k).next - (s.fq k).head < 1024 → ∃ t, exec (.quiescence k) s = .next t ∧ (t.fq k).next = (s.fq k).next + 1 ∧
        t.disp.quietRaised = k :: s.disp.quietRaised ∧ CountsOne s t 21 ∧ t.mem.read (kCtrl (fqOff k + 64 * ((s.fq k).next % 1024) + 8)) 2 = 49

/-- Slots. An edge at its time moves to the next valid entry and, when another tenant follows, begins the drain of the running one; the drain's end saves each core
of the tenant's teams and frees it, and lets the next tenant run; a drain that overruns raises cause 48 and forfeits an entry; a good checkpoint stream sets LAST
and NEXT and leaves its image, a bad one interrupts the server; a module reset leaves every core as after reset (R82, R209, R210, R211, R213, R229, R233,
R234). That it keeps the bytes of LPDDR, host and pool memory, and the values of a core after reset that no rule gives, are the model's choices (logs 39, 1
and 3). -/
def Obligations.SlotsTurnOver : Prop :=
  (∀ (e i k : Nat) (s : State), s.edgeAt = some e → e ≤ s.time.gtc → s.ceil < 2 ^ 31 → s.tabs.badCfg = [] → s.tabs.fwPend = none → s.disp.drain = none →
    s.disp.active = some k → s.disp.forfeit = [] → s.tabs.stream = none → (validSlots s.tabs.slots).find? (fun j => decide (s.tabs.cur < j)) = some i →
    (let next := ((s.tabs.slots.getD i 0#32).extractLsb' 22 4).toNat
     ∃ t, exec .slotEdge s = .next t ∧ t.tabs.cur = i ∧ t.tabs.epoch = e ∧ t.disp.active = some k ∧ t.cores = s.cores ∧ t.mem = s.mem ∧
       (next ≠ k ∨ s.ckptDue k = true → t.disp.drain = some ⟨some k, s.time.gtc, e, false, some next, false, none,
         if s.ckptDue k then some (s.ckpt k).ordered else none⟩) ∧ (next = k → s.ckptDue k = false → t.disp.drain = none))) ∧
  (∀ (d : Drain) (s : State), s.disp.drain = some d → d.update = false →
    (∀ u, d.ten = none → d.next = some u → s.tabs.stream = none → s.disp.ctxs = [] → ∃ t, exec .drainEnd s = .next t ∧ t.disp.active = some u ∧ t.disp.drain = none) ∧
    (∀ k, d.ten = some k → d.next = none → Tbl.wf Core.reset s.cores = true → s.drainReady k = true → (∀ n, (s.coreAt n).sb = []) →
      ∃ t, exec .drainEnd s = .next t ∧ t.disp.active = none ∧ t.disp.drain = none ∧ ∀ n ∈ s.teamCoresOf k, (t.coreAt n).task = none ∧
        ∃ c, (n, c) ∈ (Tbl.get Ctx.empty t.disp.ctxs k).cores ∧ c.x = (s.coreAt n).x ∧ c.v = (s.coreAt n).v ∧ c.pc = (s.coreAt n).pc ∧
          c.task = (s.coreAt n).task ∧ c.csr.lclk = max (s.coreAt n).csr.lclk (s.coreAt n).swm)) ∧
  (∀ (d : Drain) (k : Nat) (s : State), s.disp.drain = some d → d.ten = some k → d.overrun = false → d.started + 90000 ≤ s.time.gtc →
    (s.fq k).next - (s.fq k).head < 1024 → ∃ t, exec .slotOverrun s = .next t ∧ t.disp.drain = some { d with overrun := true } ∧
      t.disp.forfeit = s.disp.forfeit ++ [k] ∧ (t.fq k).next = (s.fq k).next + 1 ∧
      t.mem.read (kCtrl (fqOff k + 64 * ((s.fq k).next % 1024) + 8)) 2 = 48) ∧
  (∀ (k : Nat) (ordered : Bool) (s : State), s.tabs.stream = some (k, ordered) →
    (s.home.dir = [] → (∀ l ∈ s.home.llc, l.ov = false) → ∃ t, exec (.checkpointEnd k true) s = .next t ∧ t.tabs.stream = none ∧ (t.ckpt k).last = s.gtcWord ∧
      (t.ckpt k).next = (s.ckpt k).next + (s.ckpt k).ckn.setWidth 64 ∧ t.tabs.images.head? = some (s.image k)) ∧
    ∃ t, exec (.checkpointEnd k false) s = .next t ∧ t.tabs.stream = none ∧ (t.ckpt k).last = (s.ckpt k).last ∧ t.tabs.images = s.tabs.images ∧
      ∀ c ∈ s.tabs.servers, ∀ r, r < 16 → (t.coreAt (16 * c + r)).sup.seip = true) ∧
  ∀ s : State, Memory.wf s.mem = true → ∃ t, exec .moduleReset s = .next t ∧ t.time.gtc = 0 ∧ t.tabs.head = 1 ∧ t.tabs.tail = 1 ∧ t.tabs.run = false ∧
    (∀ n, t.coreAt n = Core.reset) ∧ (∀ a, a < space 3 → t.mem.byte a = s.mem.byte a) ∧ ∀ a, space 3 ≤ a → a < space 4 → t.mem.byte a = 0#8

/-- Leases and ownership at a home that no host holds. A request extends the line's lease and gives the core a copy that ends with its own lease; ownership
marks the line and its owner; a store on an owned line takes a time past the copy's end; a store to a scratchpad is written in its turn, after those that left the package; a recall asks the
owner, whose answer brings data and times home, and one of a dead incarnation is dropped (R114, R122, R123, R125, R128, R182). -/
def Obligations.HomesGrantLeases : Prop :=
  (∀ (n line : Nat) (l : LlcLine) (s : State), n < 5120 → s.lineAtHome line = true → HomesQuiet s → s.llcFind line = some l →
    (s.coreAt n).validCopy line = false → ((l1Drop (s.coreAt n).l1 line).filter (fun b => decide (b.line % 64 = line % 64))).length < 8 →
    (let c := s.coreAt n
     let len := c.csr.lease.toNat
     let rts := min s.ceil (max l.rts (max (l.wts + len - 1) (c.csr.lclk + len - 1)))
     let clk := max c.csr.lclk l.wts
     ∃ t, exec (.homeRequest n line) s = .next t ∧ t.llcFind line = some { l with rts := rts } ∧ (t.coreAt n).csr.lclk = clk ∧ SameMem s t ∧
       l1Find (t.coreAt n).l1 line = some ⟨line, false, 0#2, 0#2, false, l.wts, min rts (clk + len - 1), false, s.memLine line⟩)) ∧
  (∀ (n key : Nat) (l : LlcLine) (st : Store) (rest : List Store) (s : State), HomesQuiet s → s.llcFind (lineOf key) = some l →
    (s.coreAt n).sb = st :: rest → st.place = .cached key → (∀ a, l1Find (s.coreAt n).l1 (lineOf key) = some a → a.owned = false) →
    ((l1Drop (s.coreAt n).l1 (lineOf key)).filter (fun b => decide (b.line % 64 = lineOf key % 64))).length < 8 →
    ∃ t a, exec (.ownershipRequest n (lineOf key)) s = .next t ∧ t.llcFind (lineOf key) = some { l with ov := true, owner := n } ∧ SameMem s t ∧
      l1Find (t.coreAt n).l1 (lineOf key) = some a ∧ a.owned = true ∧ a.hown = 3#2 ∧ a.wts = l.wts ∧ a.fin = l.rts ∧ a.data = s.memLine (lineOf key)) ∧
  (∀ (n : Nat) (st : Store) (rest : List Store) (s : State), (s.coreAt n).sb = st :: rest → (s.coreAt n).remStores = [] → (s.coreAt n).posting = false →
    (∀ m off, st.place = .scratch m off → s.inWs m off st.bytes.length = false → (s.coreAt m).watches = [] → ∃ t, exec (.storePerform n) s = .next t ∧
      (t.coreAt n).sb = rest ∧ ∀ a, t.mem.byte a = (if kPad m off ≤ a ∧ a < kPad m off + st.bytes.length then
        (st.bytes.getD (a - kPad m off) none).getD (s.mem.byte a) else s.mem.byte a)) ∧
    ∀ key a, st.place = .cached key → s.home.dir = [] → l1Find (s.coreAt n).l1 (lineOf key) = some a → a.owned = true → a.watch = false →
      s.watched (lineOf key) = false →
      (let time := max (s.coreAt n).csr.lclk (a.fin + 1)
       time ≤ s.ceil → ∃ t b, exec (.storePerform n) s = .next t ∧ (t.coreAt n).sb = rest ∧ l1Find (t.coreAt n).l1 (lineOf key) = some b ∧ b.owned = true ∧
         b.wts = time ∧ b.fin = time ∧ b.data = overlay a.data (key % 128) st.bytes ∧ (t.coreAt n).swm = max (s.coreAt n).swm time ∧
         (t.coreAt n).csr.lclk = (s.coreAt n).csr.lclk ∧ SameMem s t)) ∧
  ∀ (n line : Nat) (l : LlcLine) (s : State), s.llcFind line = some l → l.ov = true → l.owner = n →
    ((∀ r ∈ s.home.recalls, r.1 ≠ line) → ∃ t, exec (.ownerRecall line) s = .next t ∧ t.cores = s.cores ∧
      t.home = { s.home with recalls := s.home.recalls ++ [(line, n, (s.coreAt n).inc)] }) ∧
    ∀ i a, (∃ r ∈ s.home.recalls, r.1 = line ∧ r.2.1 = n) → l1Find (s.coreAt n).l1 line = some a → a.owned = true →
      (BitVec.ofNat 16 i = (s.coreAt n).inc → ∃ t b, exec (.ownerRecallAnswer line n i) s = .next t ∧
        t.llcFind line = some { l with ov := false, wts := a.wts, rts := a.fin } ∧ l1Find (t.coreAt n).l1 line = some b ∧ b.owned = false ∧ b.fin = a.fin ∧
        (a.hdirty = 3#2 → t.memLine line = a.data) ∧ (a.hdirty = 0#2 → SameMem s t)) ∧
      (BitVec.ofNat 16 i ≠ (s.coreAt n).inc → ∃ t, exec (.ownerRecallAnswer line n i) s = .next t ∧ t.home = s.home ∧ t.cores = s.cores ∧ CountsOne s t 14)

/-- Write-backs and waiters. A dirty owned line moves to the victim buffer and is granted; its data arrive with its times and OV clears; a clean owned line is
dropped with a notice; the write of a watched line wakes every registered core, and a core that no table holds reads again (R126, R133, R333). -/
def Obligations.WriteBacksAndWakesArrive : Prop :=
  (∀ (n line : Nat) (a : L1Line) (s : State), l1Find (s.coreAt n).l1 line = some a → a.owned = true →
    (a.hdirty ≠ 0#2 → (s.coreAt n).vb.length < 8 → ∃ t, exec (.evictionWriteBackRequest n line) s = .next t ∧ t.home = s.home ∧ t.mem = s.mem ∧
      t.coreAt n = { s.coreAt n with l1 := l1Drop (s.coreAt n).l1 line, vb := (s.coreAt n).vb ++ [{ a with granted := false }] }) ∧
    ∀ l, a.hdirty = 0#2 → s.llcFind line = some l → ∃ t, exec (.cleanOwnedNotice n line) s = .next t ∧ t.mem = s.mem ∧
      t.coreAt n = { s.coreAt n with l1 := l1Drop (s.coreAt n).l1 line } ∧ t.llcFind line = some { l with ov := false }) ∧
  (∀ (n line : Nat) (s : State), ∃ t, exec (.writeBackGrant n line) s = .next t ∧ t.home = s.home ∧ t.mem = s.mem ∧
    t.coreAt n = { s.coreAt n with vb := (s.coreAt n).vb.map (fun a => if a.line = line then { a with granted := true } else a) }) ∧
  (∀ (n line i : Nat) (a : L1Line) (l : LlcLine) (s : State), l1Find (s.coreAt n).vb line = some a → s.llcFind line = some l →
    BitVec.ofNat 16 i = (s.coreAt n).inc →
    (a.granted = true → ∃ t, exec (.writeBackData n line i) s = .next t ∧ t.llcFind line = some { l with ov := false, wts := a.wts, rts := a.fin } ∧
      t.coreAt n = { s.coreAt n with vb := l1Drop (s.coreAt n).vb line } ∧ (a.hdirty = 3#2 → t.memLine line = a.data)) ∧
    (a.granted = false → exec (.writeBackData n line i) s = .next s)) ∧
  ∀ (n line : Nat) (s : State),
    (line ∈ s.home.wakes → (line, n) ∈ s.home.waiters → (s.coreAt n).wait = .waita true → ∃ t, exec (.waiterWake line) s = .next t ∧
      (t.coreAt n).wait = .waita false ∧ (∀ w ∈ t.home.waiters, w.1 ≠ line) ∧ line ∉ t.home.wakes ∧ t.mem = s.mem) ∧
    ((s.coreAt n).wait = .waita true → s.registered n = false → ∃ t, exec (.waitaReread n) s = .next t ∧
      t.coreAt n = { s.coreAt n with wait := .waita false } ∧ t.mem = s.mem)

/-- Hosts and the directory. A write at a home that nobody else holds takes RTS + 1 as both times and writes its bytes; an engine's mark follows and a zeroing
operation writes zeros; a read there changes no time and makes its line the most recently used. What a host names by an effective address is decoded first; a
request that names no memory of a home is aborted, and a write of a dead incarnation is dropped. A request that meets no entry is granted in a 64 KiB entry and answered with the half; one that conflicts
sends recalls and no data. An answered recall leaves S or nothing, with dirty data written home; an answer of a
dead incarnation is dropped. An aligned AtomicOp of a host at a home is performed and answers
the old value; that a misaligned one is aborted is the model's reading (log 37). Quiet siblings merge (R86, R116, R124, R136, R137, R138, R139, R141, R182). -/
def Obligations.HostsAndDirectory : Prop :=
  (∀ (key : Nat) (data : List Byte) (l : LlcLine) (s : State), HomesQuiet s → s.writesHome key data = true → s.llcFind (lineOf key) = some l →
    l.rts + 1 ≤ s.ceil →
    (let l' := { l with mir := mirLeft s l, wts := l.rts + 1, rts := l.rts + 1 }
     (∀ a ten asid ea, a < 4 → ea % 128 + data.length ≤ 128 → s.hostPlace ten asid ea data.length .store = .ok (s, .home key) →
       ∃ t, exec (.homeWrite (.host a (s.agentInc (12000 + a)) ten asid) ea data) s = .next t ∧ t.llcFind (lineOf key) = some l' ∧ BytesWritten s t key data ∧
         t.cores = s.cores) ∧
     (∀ a inc ten asid ea, a < 4 → ea % 128 + data.length ≤ 128 → inc ≠ s.agentInc (12000 + a) →
       ∃ t, exec (.homeWrite (.host a inc ten asid) ea data) s = .next t ∧ t.home = s.home ∧ t.cores = s.cores ∧ CountsOne s t 14) ∧
     (∀ e, e < 320 ∨ (1000 ≤ e ∧ e < 1016) → ∃ t, exec (.homeWrite (.engine e) key data) s = .next t ∧ t.llcFind (lineOf key) = some l' ∧ BytesWritten s t key data ∧
       (t.engAt e).ewm = max (s.engAt e).ewm (l.rts + 1)) ∧
     ∃ t, exec (.homeWrite .zeroing key data) s = .next t ∧ t.llcFind (lineOf key) = some l' ∧ BytesWritten s t key (data.map (fun _ => 0#8)))) ∧
  (∀ (key n : Nat) (s : State), HomesQuiet s → 0 < n → key % 128 + n ≤ 128 → s.atHome key n = true →
    (∀ a inc ten asid ea, a < 4 → ea % 128 + n ≤ 128 → s.hostPlace ten asid ea n .load = .ok (s, .home key) →
      ∃ t, exec (.engineHomeRead (.host a inc ten asid) ea n) s = .next t ∧ ReadAtHome s t (lineOf key) ∧
      t.net.outs = s.net.outs ++ [.answer (natToBytes n (s.mem.read key n)) (!s.anyPoison key n)]) ∧
    ∀ e, ∃ t, exec (.engineHomeRead (.engine e) key n) s = .next t ∧ ReadAtHome s t (lineOf key) ∧ t.net = s.net) ∧
  (∀ (agent half : Nat) (a : HostAddr) (want : HostHold) (p : HostPlace) (s : State), agent < 4 → half < 2 →
    s.hostHalf a half (if want = .e ∨ want = .m then .store else .load) = .ok (s, p) → (∀ key, p ≠ .home key) →
    ∃ t, exec (.hostRequest agent a half want) s = .next t ∧ Sends s t .hostAbort) ∧
  (∀ (agent line half : Nat) (a : HostAddr) (want : HostHold) (s : State), agent < 4 → half < 2 → want ≠ .i → s.lineAtHome line = true →
    s.hostHalf a half (if want = .e ∨ want = .m then .store else .load) = .ok (s, .home (line * 128 + 64 * half)) →
    (HomesQuiet s → ∃ t e, exec (.hostRequest agent a half want) s = .next t ∧ t.home.dir = [e] ∧ e.slice = sliceOf line ∧ e.sz = 0 ∧
      e.base = line / 512 * 512 ∧ (∀ h, h < 2 → t.hostHold agent line h = (if want = .s then 1 else if want = .e then 2 else 3)) ∧ t.mem = s.mem ∧
      t.net.outs = s.net.outs ++
        [.hostData agent line half want ((s.memLine line).extractLsb' (512 * half) 512) (s.anyPoison (line * 128 + 64 * half) 64)]) ∧
    ∀ e b, s.home.dir = [e] → e.slice = sliceOf line → e.sz = 9 → e.base = line → b < 4 → b ≠ agent → want ≠ .s → agGet e.ag b half ≠ 0 →
      ∃ t, exec (.hostRequest agent a half want) s = .next t ∧ (⟨b, line, half, false⟩ : HostRecall) ∈ t.home.hostRecalls ∧ t.net = s.net ∧ t.mem = s.mem) ∧
  (∀ (r : HostRecall) (e : DirEntry) (s : State), s.home.hostRecalls = [r] → s.home.dir = [e] → e.slice = sliceOf r.line → e.sz = 9 → e.base = r.line →
    r.agent < 4 → r.half < 2 →
    (let left := if r.toShared then min 1 (agGet e.ag r.agent r.half) else 0
     let inc := s.agentInc (12000 + r.agent)
     (∀ i d, i ≠ inc → ∃ t, exec (.hostRecallAnswer r.agent r.line r.half ⟨i, d⟩) s = .next t ∧ t.home = s.home ∧ CountsOne s t 14) ∧
     (∃ t, exec (.hostRecallAnswer r.agent r.line r.half ⟨inc, none⟩) s = .next t ∧ t.home.hostRecalls = [] ∧ t.hostHold r.agent r.line r.half = left ∧
       t.mem = s.mem) ∧
     ∀ d l, 2 ≤ agGet e.ag r.agent r.half → (∀ b, b < 4 → b ≠ r.agent → agGet e.ag b r.half = 0) → s.llcFind r.line = some l → l.ov = false →
       l.rts + 1 ≤ s.ceil → ∃ t, exec (.hostRecallAnswer r.agent r.line r.half ⟨inc, some d⟩) s = .next t ∧ t.home.hostRecalls = [] ∧
         t.hostHold r.agent r.line r.half = left ∧ t.mem.read (r.line * 128 + 64 * r.half) 64 = d.toNat ∧
         t.llcFind r.line = some { l with mir := mirLeft s l, wts := l.rts + 1, rts := l.rts + 1 })) ∧
  (∀ (a : HostAddr) (key n : Nat) (op : HostAtomic) (v c : Word) (s : State), n = 4 ∨ n = 8 →
    (a.ea.toNat % n ≠ 0 → ∃ t, exec (.hostAtomicop a n op v c) s = .next t ∧ Sends s t .hostAbort) ∧
    ∀ l, a.ea.toNat % n = 0 → s.hostPlace a.ten a.asid a.ea.toNat n .atomic = .ok (s, .home key) → key % n = 0 → HomesQuiet s → s.atHome key n = true → s.anyPoison key n = false → s.llcFind (lineOf key) = some l → l.rts + 1 ≤ s.ceil →
      (let old := s.mem.read key n
       let m := 2 ^ (8 * n)
       ∃ t, exec (.hostAtomicop a n op v c) s = .next t ∧ t.net.outs = s.net.outs ++ [.answer (natToBytes n old) true] ∧
         t.mem.read key n = (match op with
           | .fetchAdd => (old + v.toNat) % m
           | .swap => v.toNat % m
           | .cas => if old = c.toNat % m then v.toNat % m else old) ∧ ∀ a, a < key ∨ key + n ≤ a → t.mem.byte a = s.mem.byte a)) ∧
  ∀ (a b : DirEntry) (s : State), s.home.dir = [a, b] → s.home.hostRecalls = [] → a.slice = b.slice → a.sz = b.sz → 0 < a.sz → a.sz < 9 →
    b.base = a.base + dirLines a.sz → a.base % dirLines (a.sz - 1) = 0 → a.ag = b.ag → a.last + 2 ^ 20 ≤ s.time.gtc → b.last + 2 ^ 20 ≤ s.time.gtc →
    ∃ t, exec (.directoryMerge a.base a.sz) s = .next t ∧ t.home = { s.home with dir := [{ a with sz := a.sz - 1, last := max a.last b.last }] } ∧
      t.mem = s.mem ∧ t.cores = s.cores

/-- Outside the module. A CXL transaction is performed in the core's order: a write changes memory, a read gives its bytes or an error. An AtomicOp changes memory
and gives the old value once the core's earlier transactions are performed; an unsupported one is cause 27, any other error and a timeout are cause 7. A request of another module is performed here or answered
with an error, and a reply gives its bytes, or its error; one of a dead link peer is dropped. A dead agent's incarnation rises and it owns nothing; a failed flit is counted, and the port goes down after 16
failed replays (R87, R142, R175, R182, R245, R328, R356, R357). That a request of another module is performed with the times of R124, that a number of no
agent does nothing, and that a port beyond 35 changes nothing are the model's choices (logs 38 and 46). -/
def Obligations.TheOutsideAnswersAndAsks : Prop :=
  (∀ (n : Nat) (rest : List CxlReq) (s : State),
    (∀ key bytes, (s.coreAt n).cxl = .write key bytes :: rest → ∃ t, exec (.cxlTransactionCompletion n true) s = .next t ∧
      t.coreAt n = { s.coreAt n with cxl := rest } ∧ ∀ a, t.mem.byte a = (if key ≤ a ∧ a < key + bytes.length then
        (bytes.getD (a - key) none).getD (s.mem.byte a) else s.mem.byte a)) ∧
    (∀ key k, (s.coreAt n).cxl = .read key k :: rest → ∃ t, exec (.cxlTransactionCompletion n true) s = .next t ∧ t.mem = s.mem ∧
      t.coreAt n = { s.coreAt n with cxl := rest, reply := (s.coreAt n).reply.more (s.mem.readBytes key k), wait := .none }) ∧
    ∀ key k, (s.coreAt n).cxl = .read key k :: rest → ∃ t, exec (.cxlTransactionCompletion n false) s = .next t ∧ t.mem = s.mem ∧
      t.coreAt n = { s.coreAt n with cxl := rest, reply := (s.coreAt n).reply.fail false, wait := .none }) ∧
  (∀ (n : Nat) (r : CxlReq) (rest : List CxlReq) (status : CplStatus) (s : State), (s.coreAt n).cxl = r :: rest → r.isAtomic = false →
    exec (.atomicopCompletion n status) s = .next s) ∧
  (∀ (n key k op : Nat) (v c : Word) (rest : List CxlReq) (s : State), (s.coreAt n).cxl = .atomic key k op v c :: rest →
    (let others := rest.filter (fun r => !r.isAtomic)
     let ea := (s.coreAt n).rx ((s.coreAt n).iw.extractLsb' 15 5)
     let m := 2 ^ (8 * k)
     let old := s.mem.read key k
     (∃ t, exec (.atomicopCompletion n .ok) s = .next t ∧
       t.coreAt n = { s.coreAt n with cxl := rest, reply := .value (s.mem.readBytes key k), wait := .none } ∧
       t.mem.read key k = (if op = 0 then (old + v.toNat % m) % m else if op = 1 then v.toNat % m else if old = c.toNat % m then v.toNat % m else old)) ∧
     ((s.coreAt n).contrib = .none →
       exec (.atomicopCompletion n .unsupported) s = .next ((s.updCore n (fun k => { k with cxl := others })).takeTrapK n 27 ea 3) ∧
       exec (.atomicopCompletion n .error) s = .next ((s.updCore n (fun k => { k with cxl := others })).takeTrapK n 7 ea 3) ∧
       ∀ since, (s.coreAt n).wait = .atomicOp since → since + 900000 ≤ s.time.gtc → ∃ u : State,
         exec (.atomicopTimeout n) s = .next ((u.updCore n (fun k => { k with cxl := others })).takeTrapK n 7 ea 3) ∧ u.cores = s.cores ∧
           (u.mem = s.mem ∨ u.mem = (s.hostPerform (.atomic key k op v c)).mem)))) ∧
  (∀ (ten asid off n : Nat) (v : Word) (s : State), ten < 16 → 0 < n → off % 128 + n ≤ 128 → off < 2 ^ 34 → off + n ≤ s.pkgBytes ten → HomesQuiet s →
    (let ea := BitVec.ofNat 64 (0x20000000000 + off)
     let old := s.mem.read (kPkg ten off) n
     (∃ t, exec (.remoteModuleRequest ten asid ea .load 0 v) s = .next t ∧ Sends s t (.answer [] false)) ∧
     (s.anyPoison (kPkg ten off) n = false → ∃ t, exec (.remoteModuleRequest ten asid ea .load n v) s = .next t ∧
       ReadAtHome s t (lineOf (kPkg ten off)) ∧ t.net.outs = s.net.outs ++ [.answer (natToBytes n old) true]) ∧
     (s.partPoison (kPkg ten off) n = false → ∃ t, exec (.remoteModuleRequest ten asid ea .check n v) s = .next t ∧
       ReadAtHome s t (lineOf (kPkg ten off)) ∧ t.net.outs = s.net.outs ++ [.answer (natToBytes n old) true]) ∧
     ∀ l, n ≤ 8 → s.partPoison (kPkg ten off) n = false → s.llcFind (lineOf (kPkg ten off)) = some l → l.rts + 1 ≤ s.ceil →
       ∃ t, exec (.remoteModuleRequest ten asid ea .store n v) s = .next t ∧ t.mem.read (kPkg ten off) n = v.toNat % 2 ^ (8 * n) ∧
         t.net.outs = s.net.outs ++ [.answer (natToBytes n old) true])) ∧
  (∀ (n : Nat) (ea : Word) (rest : List Out) (data : List Byte) (s : State), n < 10000 →
    (let inc := s.agentInc (13000 + (ea.extractLsb' 42 12).toNat)
     (∀ k, s.net.outs = .loadAsk n ea k :: rest →
       (∃ t, exec (.remoteModuleReply n data ⟨inc, .ok⟩) s = .next t ∧ t.net.outs = rest ∧ t.mem = s.mem ∧
         t.coreAt n = { s.coreAt n with reply := (s.coreAt n).reply.more (natToBytes k (bytesToNat data)), remAsked := false, wait := .none }) ∧
       (∀ page, ∃ t, exec (.remoteModuleReply n data ⟨inc, if page then .page else .access⟩) s = .next t ∧ t.net.outs = rest ∧ t.mem = s.mem ∧
         t.coreAt n = { s.coreAt n with reply := (s.coreAt n).reply.fail page, remAsked := false, wait := .none }) ∧
       ∀ i st, i ≠ inc → ∃ t, exec (.remoteModuleReply n data ⟨i, st⟩) s = .next t ∧ t.net = s.net ∧ t.cores = s.cores ∧ CountsOne s t 14) ∧
     ∀ bytes, s.net.outs = .storeAsk n ea bytes :: rest → ∃ t, exec (.remoteModuleReply n data ⟨inc, .ok⟩) s = .next t ∧ t.net.outs = rest ∧ t.mem = s.mem ∧
       t.coreAt n = { s.coreAt n with remStores := (s.coreAt n).remStores.tail })) ∧
  (∀ (a : Nat) (s : State),
    (a < 5120 → ∃ t, exec (.agentDeclaredDead a) s = .next t ∧ (t.coreAt a).inc = (s.coreAt a).inc + 1#16 ∧ t.mem = s.mem ∧ (t.coreAt a).vb = [] ∧
      (∀ l ∈ (t.coreAt a).l1, l.owned = false) ∧ ∀ l ∈ t.home.llc, l.ov = true → l.owner ≠ a) ∧
    (let known := (10000 ≤ a ∧ a < 10320) ∨ (11000 ≤ a ∧ a < 11016) ∨ (12000 ≤ a ∧ a < 12004) ∨ (13000 ≤ a ∧ a < 13000 + 2304)
     (known → ∃ t, exec (.agentDeclaredDead a) s = .next t ∧ t.agentInc a = s.agentInc a + 1#16 ∧ t.mem = s.mem ∧ t.cores = s.cores) ∧
       (5120 ≤ a → ¬ known → exec (.agentDeclaredDead a) s = .next s))) ∧
  ∀ (port : Nat) (replay : Bool) (s : State), (36 ≤ port → exec (.linkFlitCrcFail port replay) s = .next s) ∧ (port < 36 → port ∉ s.tabs.linkDown →
    (let fails := Tbl.get 0 s.tabs.linkFails port
     ∃ t, exec (.linkFlitCrcFail port replay) s = .next t ∧ CountsOne s t 6 ∧ Tbl.get 0 t.tabs.linkFails port = (if replay then fails + 1 else 0) ∧
       (replay = true ∧ 15 ≤ fails → t.tabs.linkDown = port :: s.tabs.linkDown ∧ CountsOne s t 7) ∧
       (replay = false ∨ fails < 15 → t.tabs.linkDown = s.tabs.linkDown)))

/-- Faults, scrubs and counters. One wrong bit is corrected and counted; two poison the word and are counted; bad timestamps become the ceiling and no leased copy
stays; a bad EMARK becomes the ceiling; a core whose arithmetic fails its check takes cause 51 at its next instruction boundary; a word of an accumulator tile is poisoned;
a bit in a configuration table breaks its digest; a TLB entry that a bit strikes leaves. A scrub does the
same; a pass is counted; an illegal word is cause 2 with stval the word; a write clears a counter (R40, R131, R138, R215, R244, R245, R246, R247). -/
def Obligations.FaultsAreCountedAndPoison : Prop :=
  (∀ (lpddr : Bool) (key : Nat) (s : State),
    (∃ t, exec (.singleFault (.singleBit lpddr)) s = .next t ∧ CountsOne s t (if lpddr then 2 else 0) ∧ t.mem = s.mem ∧ t.home = s.home ∧ t.cores = s.cores) ∧
    (∃ t, exec (.singleFault (.doubleBit lpddr key)) s = .next t ∧ CountsOne s t (if lpddr then 3 else 1) ∧ t.poisoned key = true ∧ t.mem = s.mem ∧
      t.cores = s.cores) ∧
    (∃ t, exec (.patrolScrubRead (.corrected lpddr key)) s = .next t ∧ CountsOne s t (if lpddr then 2 else 0) ∧ t.mem = s.mem ∧ t.home = s.home) ∧
    (∃ t, exec (.patrolScrubRead (.uncorrectable lpddr key)) s = .next t ∧ CountsOne s t (if lpddr then 3 else 1) ∧ t.poisoned key = true ∧ t.mem = s.mem) ∧
    ∀ llc : Bool, ∃ t, exec (.patrolPass llc) s = .next t ∧ CountsOne s t (if llc then 4 else 5) ∧ t.mem = s.mem ∧ t.home = s.home ∧ t.cores = s.cores) ∧
  (∀ (line : Nat) (l : LlcLine) (s : State), Tbl.wf Core.reset s.cores = true → s.llcFind line = some l →
    ∃ t, exec (.singleFault (.timestamp line)) s = .next t ∧ t.llcFind line = some { l with wts := s.ceil, rts := s.ceil } ∧ CountsOne s t 10 ∧
      t.mem = s.mem ∧ ∀ n, (t.coreAt n).l1 = (s.coreAt n).l1.filter (fun a => a.owned || !decide (a.line = line))) ∧
  (∀ (slice n table : Nat) (s : State),
    (slice < 256 → ∃ t, exec (.singleFault (.emark slice)) s = .next t ∧ t.emark slice = s.ceil ∧ CountsOne s t 10 ∧ t.mem = s.mem) ∧
    (∀ (ten asid va c : Nat) (pre post : List TlbEntry) (e : TlbEntry),
      (let hits (x : TlbEntry) : Prop := x.ten = ten ∧ x.asid = asid ∧ x.va ≤ va ∧ va < x.va + x.size
       hits e → (∀ x ∈ pre, ¬ hits x) →
       (n < 5120 → (s.coreAt n).tlb = pre ++ e :: post → ∃ t, exec (.singleFault (.tlb n ten asid va)) s = .next t ∧
         t.coreAt n = { s.coreAt n with tlb := pre ++ post } ∧ t.mem = s.mem) ∧
       (c < 320 → (s.clusterAt c).tlb = pre ++ e :: post → ∃ t, exec (.singleFault (.clusterTlb c ten asid va)) s = .next t ∧
         t.clusterAt c = { s.clusterAt c with tlb := pre ++ post } ∧ t.mem = s.mem))) ∧
    (n < 5120 → (s.busy n || s.isServer n) = true → ∃ t, exec (.singleFault (.coreArithmetic n)) s = .next t ∧
      t.coreAt n = { s.coreAt n with check := true } ∧ CountsOne s t 8 ∧ t.mem = s.mem ∧ ∀ k, k ≠ n → t.coreAt k = s.coreAt k) ∧
    (s.run.cur = .core n → s.runs n = true → (s.coreAt n).check = true → (s.coreAt n).midway = false →
      s.sweeping n = false → s.trapsSelf n 51 = true → ∃ t, turn s = .next t ∧ (t.coreAt n).check = false ∧
        (t.coreAt n).pc = (s.coreAt n).sup.stvec ∧ (t.coreAt n).sup.scause = 51#64 ∧ (t.coreAt n).sup.stval = BitVec.ofNat 64 (2 ^ 63 + n) ∧
        SameMem s t) ∧
    (∀ c tile row j, c < 320 → tile < 8 → row < 64 → j < 96 → (64 * tile + row, j) ∉ (s.clusterAt c).accPoison →
      ∃ t, exec (.singleFault (.accumulator c tile row j)) s = .next t ∧ CountsOne s t 1 ∧ t.mem = s.mem ∧ t.cores = s.cores ∧
        t.clusterAt c = { s.clusterAt c with accPoison := (64 * tile + row, j) :: (s.clusterAt c).accPoison }) ∧
    (table < 4 → s.tabs.badCfg.contains table = false → ∃ t, exec (.singleFault (.config table)) s = .next t ∧ t.tabs.badCfg = table :: s.tabs.badCfg ∧
      t.mem = s.mem)) ∧
  (∀ (word : IWord) (n : Nat) (s : State), s.run.cur = .core n → s.trapsSelf n 2 = true →
    ∃ t, exec (.illegalInstruction word) s = .next t ∧ TrapsSelf n s t 2 (word.setWidth 64)) ∧
  ∀ (i : Nat) (s : State), i < 32 → ∃ t, exec (.errorCounterClear i) s = .next t ∧ errCounter t i = 0 ∧ (∀ j, j ≠ i → errCounter t j = errCounter s j) ∧
    t.mem = s.mem ∧ t.cores = s.cores

/-- Translation. A core's own TLB answers first. A walk of a tenant whose level-2 entry maps a page gives that page to both TLBs, and sets A, and D for a write, at
the entry's home; an entry that is not valid is a page fault with stval the address. An invalidation of a range or of a tenant leaves only other entries in
every TLB; a granule's new owner is set, its bytes are zero and its entries leave. Each command ends with STATUS 0 (R147, R148, R149, R150, R152, R153, R208). -/
def Obligations.TranslationsWalkAndLeave : Prop :=
  (∀ (n : Nat) (va : Word) (k : Access) (s : State), n < 5120 → va.toNat < 2 ^ 41 →
    (let c := s.coreAt n
     let ptr := s.mem.read (kLpddr (partRoot (s.part c.ten) + 8 * c.asid)) 8
     let ea := ptr + 8 * natBits va.toNat 40 30
     let e := s.mem.read (kLpddr ea) 8
     (∀ x, c.tlb.find? (fun x => x.serves c.ten c.asid va.toNat k) = some x → ∃ t, exec (.pageWalk n va k) s = .next t ∧ t.mem = s.mem ∧ t.home = s.home ∧
       t.coreAt n = { c with tlb := tlbPut c.tlb x 64 }) ∧
     (HomesQuiet s → c.tlb = [] → (s.clusterAt (clusterOf n)).tlb = [] →
       (∀ l, (s.llcFind (lineOf (kLpddr (partRoot (s.part c.ten) + 8 * c.asid)))).isSome = true → s.llcFind (lineOf (kLpddr ea)) = some l → l.rts + 1 ≤ s.ceil → natBit e 0 = true → natBit e 1 = false → natBits e 23 14 = 0 →
         natBits e 11 10 = 0 → 10 ≤ natBits e 5 2 → natBits e 63 24 * 4096 % pageSize (natBits e 5 2) = 0 →
         s.frameOwner (natBits e 63 24 * 4096) = some c.ten → natBit e (permitBit k) = true →
         ∃ t x, exec (.pageWalk n va k) s = .next t ∧ (t.coreAt n).tlb = [x] ∧ (t.clusterAt (clusterOf n)).tlb = [x] ∧ x.ten = c.ten ∧ x.asid = c.asid ∧
           x.size = pageSize (natBits e 5 2) ∧ x.va = va.toNat / x.size * x.size ∧ x.pa = natBits e 63 24 * 4096 ∧ x.bk = 0 ∧ x.r = natBit e 6 ∧
           x.w = natBit e 7 ∧ x.x = natBit e 8 ∧
           t.mem.read (kLpddr ea) 8 = (e ||| 4096 ||| (if k = .store ∨ k = .atomic then 8192 else 0)) ∧
           ∀ a, a < kLpddr ea ∨ kLpddr ea + 8 ≤ a → t.mem.byte a = s.mem.byte a) ∧
       (natBit e 0 = false → s.runs n = true → c.wait = .none → c.reply = .none → c.lead = none → ∃ u : State,
         exec (.pageWalk n va k) s = .next (u.takeTrapK n (if k = .fetch then 12 else if k = .load then 13 else 15) va
           (if k = .fetch then 0 else if k = .load then 1 else if k = .store then 2 else 3)) ∧
         u.cores = s.cores ∧ u.mem = s.mem ∧ u.tabs = s.tabs ∧ u.disp = s.disp)))) ∧
  (∀ (v : Word) (s : State), BlockWaits s 0 v → s.trGood = true → s.tenGood s.trTen = true → Tbl.wf Core.reset s.cores = true →
    Tbl.wf Cluster.gated s.clusters = true → (∀ n, (s.coreAt n).sb = [] ∧ (s.coreAt n).cxl = []) →
    (s.trOp = 1 → ∃ t, exec .translationInvalidateRange s = .next t ∧ BlockEnded t 0 0x10080000 v 0 ∧
      (let stay (e : TlbEntry) : Bool := !(decide (e.ten = s.trTen) && decide (e.asid = s.trAsid) && decide (e.va < s.trVa + 4096 * s.trUnits) &&
         decide (s.trVa < e.va + e.size))
       (∀ n, t.coreAt n = { s.coreAt n with tlb := (s.coreAt n).tlb.filter stay }) ∧
         ∀ c, t.clusterAt c = { s.clusterAt c with tlb := (s.clusterAt c).tlb.filter stay })) ∧
    (s.trOp = 2 → ∃ t, exec .translationInvalidateTenant s = .next t ∧ BlockEnded t 0 0x10080000 v 0 ∧
      (∀ n, t.coreAt n = { s.coreAt n with tlb := (s.coreAt n).tlb.filter (fun e => !decide (e.ten = s.trTen)) }) ∧
      ∀ c, t.clusterAt c = { s.clusterAt c with tlb := (s.clusterAt c).tlb.filter (fun e => !decide (e.ten = s.trTen)) }) ∧
    (s.trOp = 3 → s.home.dir = [] → s.home.llc = [] → Memory.wf s.mem = true →
      (let lo := s.trVa * 2 ^ 21
       ∃ t, exec .setGranuleOwner s = .next t ∧ BlockEnded t 0 0x10080000 v 0 ∧
         t.frameOwner lo = (if natBit s.trOwn 7 then some (s.trOwn % 16) else none) ∧ (∀ a, lo ≤ a → a < lo + 2 ^ 21 → t.mem.byte a = 0#8) ∧
         (∀ a, a < lo ∨ lo + 2 ^ 21 ≤ a → a < space 1 → t.mem.byte a = s.mem.byte a) ∧
         ∀ n, t.coreAt n = { s.coreAt n with tlb := (s.coreAt n).tlb.filter (fun e => !(decide (e.bk = 0) && decide (e.pa < lo + 2 ^ 21) &&
           decide (lo < e.pa + e.size))) })))

/-- The other command blocks. OP 2 orders a checkpoint; OP 1 puts a good image back; one the safe tier does not hold, or whose signature fails,
is STATUS 1, one of another shape STATUS 2, and a SAFE that is no domain or pool address STATUS 5. The order of these tests, and the test of SAFE, are the
model's readings (logs 31 and 90). A firmware update waits for
the next edge. A decode table is installed or removed, but one that names an entry table 0 lacks is STATUS 1 and one in use STATUS 2 (R50, R52, R207, R208, R223,
R229, R230, R231). -/
def Obligations.CommandBlocksAct : Prop :=
  (∀ (v : Word) (s : State), BlockWaits s 1 v → s.ckGood = true →
    (s.ckOp = 2 → ∃ t, exec .checkpointTake s = .next t ∧ (t.ckpt s.ckTen).ordered = true ∧ (t.block 1).running = some (v, s.ckTen + 1) ∧
      (t.block 1).pending = none ∧ t.mem = s.mem ∧ t.cores = s.cores) ∧
    (∀ u, s.ckOp = 1 → s.safeGood s.ckTen s.ckSafe = .ok (u, false) → ∃ t, exec .checkpointRestore s = .next t ∧ BlockEnded t 1 0x10090000 v 5) ∧
    (s.ckOp = 1 → s.safeGood s.ckTen s.ckSafe = .ok (s, true) → s.launching s.ckTen = false →
      ((∀ i ∈ s.tabs.images, i.safe.toNat ≠ s.ckSafe) → ∃ t, exec .checkpointRestore s = .next t ∧ BlockEnded t 1 0x10090000 v 1 ∧ t.disp = s.disp) ∧
      ∀ i, s.tabs.images.find? (fun i => decide (i.safe.toNat = s.ckSafe)) = some i →
        (i.signed = false → ∃ t, exec .checkpointRestore s = .next t ∧ BlockEnded t 1 0x10090000 v 1 ∧ t.disp = s.disp) ∧
        (i.signed = true → s.shapeFits s.ckTen i = false → ∃ t, exec .checkpointRestore s = .next t ∧ BlockEnded t 1 0x10090000 v 2 ∧ t.disp = s.disp) ∧
        (i.signed = true → i.ten = s.ckTen → i.clusters = s.maskOf s.ckTen → i.frames = s.framesOf s.ckTen → i.shape = s.tabs.domain →
          s.home.llc = [] → (i.bytes.map Prod.fst).Nodup → ∃ t, exec .checkpointRestore s = .next t ∧
            BlockEnded t 1 0x10090000 v 0 ∧ Tbl.get Ctx.empty t.disp.ctxs s.ckTen = i.ctx ∧
            ∀ e ∈ i.bytes, s.ownsByte s.ckTen e.1 = true → t.mem.byte e.1 = e.2))) ∧
  (∀ (v : Word) (s : State), BlockWaits s 2 v →
    (s.blockField 2 0 1 ≠ 1 → ∃ t, exec .firmwareUpdate s = .next t ∧ BlockEnded t 2 0x10090800 v 1 ∧ t.tabs.fwPend = s.tabs.fwPend) ∧
    (let img := s.blockField 2 8 8
     let len := s.blockField 2 16 8
     s.blockField 2 0 1 = 1 → s.blockField 2 1 7 = 0 → s.blockField 2 24 16 = 0 → img % 4096 = 0 → 0 < len → len ≤ 2 ^ 28 → img + len ≤ 2 ^ 40 →
       s.tabs.bootRom = false → ∃ t, exec .firmwareUpdate s = .next t ∧ t.tabs.fwPend = some (BitVec.ofNat 64 img, BitVec.ofNat 64 len) ∧
         (t.block 2).running = some (v, 1) ∧ t.mem = s.mem ∧ t.cores = s.cores)) ∧
  ∀ (v : Word) (s : State), BlockWaits s 3 v → HomesQuiet s → 1 ≤ s.dtNum → s.dtNum ≤ 15 → s.dtTen ≤ 15 → s.dtAddr + 2048 ≤ 2 ^ 40 →
    (s.dtOp = 1 → tableGood (s.tableAt s.dtAddr) = false → ∃ t, exec .decodeTableInstall s = .next t ∧ BlockEnded t 3 0x10030000 v 1 ∧
      t.tabs.dec = s.tabs.dec) ∧
    (s.dtOp = 1 → tableGood (s.tableAt s.dtAddr) = true → s.tableUsed s.dtTen s.dtNum = true → ∃ t, exec .decodeTableInstall s = .next t ∧
      BlockEnded t 3 0x10030000 v 2 ∧ t.tabs.dec = s.tabs.dec) ∧
    (s.dtOp = 1 → tableGood (s.tableAt s.dtAddr) = true → s.tableUsed s.dtTen s.dtNum = false → ∃ t, exec .decodeTableInstall s = .next t ∧
      BlockEnded t 3 0x10030000 v 0 ∧ Tbl.get [] t.tabs.dec (16 * s.dtTen + s.dtNum) = s.tableAt s.dtAddr) ∧
    (s.dtOp = 2 → s.tableUsed s.dtTen s.dtNum = true → ∃ t, exec .decodeTableRemove s = .next t ∧ BlockEnded t 3 0x10030000 v 2 ∧
      t.tabs.dec = s.tabs.dec) ∧
    (s.dtOp = 2 → s.tableUsed s.dtTen s.dtNum = false → ∃ t, exec .decodeTableRemove s = .next t ∧ BlockEnded t 3 0x10030000 v 0 ∧
      Tbl.get [] t.tabs.dec (16 * s.dtTen + s.dtNum) = [])

/-- Capsules. A portable form that can be read and keeps every limit is sealed, with its signed digest, for the current generation and firmware; one at an address that is no multiple of 4,096 leaves the
entry free with STATUS 1; an entry in use is STATUS 2. A sealed entry that nothing uses is deleted; one with saved contexts is not (STATUS 3). A rebuild of a void
body starts or joins the one under way, one of a sealed body is STATUS 1; its end, in the order of its server core's requests, makes the body from the form
and seals it. Each command waits for its turn among its server core's requests.
The first use of a void body starts its rebuild and waits, or is cause 30 where the partition
forbids it (R10, R11, R225, R226, R227, R228, R366, R368, R372). -/
def Obligations.CapsulesAreInstalledAndRebuilt : Prop :=
  (∀ (v : Word) (s : State), BlockWaits s 4 v → s.cpGood = true → s.cpOp = 1 → s.jobTurn none = true →
    ((s.cap s.cpNum).st = .sealed ∨ (s.cap s.cpNum).st = .void → ∃ t, exec .capsuleInstall s = .next t ∧ BlockEnded t 4 0x10088000 v 2 ∧
      t.tabs.caps = s.tabs.caps) ∧
    ((s.cap s.cpNum).st = .free ∨ (s.cap s.cpNum).st = .deleted →
      (s.cpForm % 4096 ≠ 0 → ∃ t, exec .capsuleInstall s = .next t ∧ BlockEnded t 4 0x10088000 v 1 ∧ (t.cap s.cpNum).st = .free) ∧
      ∀ s4, s.cpForm % 4096 = 0 → s.cpForm < 2 ^ 41 → partV (s.part s.cpTen) = true →
        ((s.updCap s.cpNum (fun _ => { Caps.free with st := .installing })).blockStart 4 (2 * s.cpNum)).readForm s.cpTen s.cpForm readParts = .ok (s4, true) →
        formGood (s4.formRead s.cpTen s.cpForm) = true → ∃ t, exec .capsuleInstall s = .next t ∧ (t.cap s.cpNum).st = .sealed ∧
          (t.cap s.cpNum).ten = s.cpTen ∧ (t.cap s.cpNum).gen = s4.tabs.gen ∧ (t.cap s.cpNum).fw = s4.tabs.fw ∧ (t.cap s.cpNum).nctx = 0#16 ∧
          (t.cap s.cpNum).nrun = 0#16 ∧ (t.cap s.cpNum).nins = s4.formRead s.cpTen s.cpForm 8 4 ∧
          (t.cap s.cpNum).sig = Config.sm2Sign (t.cap s.cpNum).digest ∧ t.mem.read (kCtrl (0x10088000 + 48)) 8 = 0)) ∧
  (∀ (v : Word) (s : State), BlockWaits s 4 v → s.cpGood = true → s.cpTen = (s.cap s.cpNum).ten → s.jobTurn none = true →
    (s.cpOp = 2 → (s.cap s.cpNum).st = .sealed →
      ((s.cap s.cpNum).nctx = 0#16 → (s.cap s.cpNum).nrun = 0#16 → (∀ l ∈ s.disp.launches, l.caps ≠ s.cpNum) → ∃ t, exec .capsuleDelete s = .next t ∧
        BlockEnded t 4 0x10088000 v 0 ∧ (t.cap s.cpNum).st = .deleted) ∧
      ((s.cap s.cpNum).nctx ≠ 0#16 → ∃ t, exec .capsuleDelete s = .next t ∧ BlockEnded t 4 0x10088000 v 3 ∧ t.tabs.caps = s.tabs.caps)) ∧
    (s.cpOp = 3 → (s.cap s.cpNum).st = .sealed → ∃ t, exec .capsuleRebuild s = .next t ∧ BlockEnded t 4 0x10088000 v 1 ∧ t.tabs.caps = s.tabs.caps) ∧
    (s.cpOp = 3 → (s.cap s.cpNum).st = .void → (s.cap s.cpNum).rb = false → ∃ t, exec .capsuleRebuild s = .next t ∧ (t.cap s.cpNum).rb = true ∧
      t.tabs.jobs = s.tabs.jobs.map (fun j => if j.2 = none then (j.1, some s.cpNum) else j) ∧ (t.block 4).running = some (v, 2 * s.cpNum + 2) ∧
      (t.block 4).pending = none ∧ t.mem = s.mem) ∧
    (s.cpOp = 3 → (s.cap s.cpNum).st = .void → (s.cap s.cpNum).rb = true → ∃ t, exec .capsuleRebuild s = .next t ∧
      t.tabs.jobs = s.tabs.jobs.filter (fun j => decide (j.2 ≠ none)) ∧ (t.block 4).running = some (v, 2 * s.cpNum + 1) ∧ t.mem = s.mem)) ∧
  (∀ (v : Word) (s : State), BlockWaits s 4 v → s.jobTurn none = false → (s.cpOp = 1 → exec .capsuleInstall s = .next s) ∧
    exec .capsuleDelete s = .next s ∧ exec .capsuleRebuild s = .next s) ∧
  (∀ (n : Nat) (v : Word) (s : State), (s.cap n).rb = true → (s.cap n).st = .void →
    (s.jobTurn (some n) = false → exec (.rebuildEnd n) s = .next s) ∧
    ∀ u, s.jobTurn (some n) = true → s.readForm (s.cap n).ten (s.cap n).pf.toNat readParts = .ok (u, true) →
      (let r := u.formRead (s.cap n).ten (s.cap n).pf.toNat
       let body := bodyBytes (u.nativeBody (s.cap n).ten r)
       formGood r = true → (s.cap n).sameForm r = true → (u.block 4).running = some (v, 2 * n + 2) → (u.block 4).pending = none → u.cpOp = 3 →
       ∃ t, exec (.rebuildEnd n) s = .next t ∧ t.cap n = { u.cap n with
           rb := false, st := .sealed, gen := u.tabs.gen, fw := u.tabs.fw, digest := Config.sm3 body, sig := Config.sm2Sign (Config.sm3 body) } ∧
         (Memory.wf u.mem = true → body.length ≤ 0x400000 → t.mem.readBytes (kText (textBase n)) body.length = body) ∧
         t.mem.read (kCtrl (0x10088000 + 48)) 8 = 0 ∧ t.mem.read (kCtrl (0x10088000 + 40)) 8 = v.toNat ∧ (t.block 4).running = none ∧
         ∀ j ∈ t.tabs.jobs, j.2 ≠ some n)) ∧
  ∀ (n : Nat) (k : Task) (s : State), (s.coreAt n).task = some k → (s.coreAt n).mode = .u → (s.cap k.caps).st = .void → s.runs n = true →
    (partRboff (s.part k.ten) = true → exec (.firstUseRebuild n) s = .next (s.takeTrap n 30 (BitVec.ofNat 64 k.caps))) ∧
    (partRboff (s.part k.ten) = false → ∃ t, exec (.firstUseRebuild n) s = .next t ∧ (t.cap k.caps).rb = true ∧
      t.coreAt n = { s.coreAt n with wait := .rebuild } ∧ t.mem = s.mem)

/-- Registers of the server. The shadow waits for an edge; RUN starts the table or drains the running tenant; a partition or pairing entry takes only values in its
limits, and one that releases ways waits for their lines; a fault queue's head moves within its records; a checkpoint's SAFE is written; a closed register
stays (R206, R209, R217, R220, R222, R229, R360). That RUN starts at the entry after CUR, that clearing RUN drains the tenant at once, and that a refused
access changes nothing are the model's readings (logs 15, 44 and 69). -/
def Obligations.ServerRegistersTakeTheirValues : Prop :=
  (∀ (i : Nat) (v : BitVec 32) (s : State), i < 64 → s.tabs.run = false → ∃ t, exec (.slotTableShadowWrite i v) s = .next t ∧
    t.tabs.shadow = s.tabs.shadow.setIfInBounds i (v &&& 0x83FFFFFF#32) ∧ t.tabs.pend = true ∧ t.tabs.slots = s.tabs.slots ∧ t.disp = s.disp ∧
    t.mem = s.mem) ∧
  (∀ (v : Word) (s : State),
    (s.tabs.run = false → v.getLsbD 16 = false → ∃ t, exec (.slotControlWrite v) s = .next t ∧ t.tabs.run = false ∧ t.tabs.dfl = v.extractLsb' 8 4 ∧
      t.disp = s.disp ∧ t.mem = s.mem) ∧
    (∀ k, s.tabs.run = true → v.getLsbD 16 = false → s.disp.active = some k → s.disp.drain = none → ∃ t, exec (.slotControlWrite v) s = .next t ∧
      t.tabs.run = false ∧ t.disp = { s.disp with drain := some ⟨some k, s.time.gtc, s.time.gtc, false, none, false, none, none⟩ } ∧ t.mem = s.mem) ∧
    ∀ i, s.tabs.run = false → v.getLsbD 16 = true → s.tabs.bootRom = false → s.tabs.badCfg = [] → s.tabs.pend = false → s.tabs.stream = none →
      s.disp.drain = none → s.disp.active = none → s.disp.forfeit = [] → s.disp.ctxs = [] →
      (validSlots s.tabs.slots).find? (fun j => decide (s.tabs.cur < j)) = some i → ∃ t, exec (.slotControlWrite v) s = .next t ∧ t.tabs.run = true ∧
        t.tabs.cur = i ∧ t.tabs.epoch = s.time.gtc ∧ t.disp.active = some ((s.tabs.slots.getD i 0#32).extractLsb' 22 4).toNat ∧ t.mem = s.mem) ∧
  (∀ (k off n : Nat) (v : Word) (s : State), k < 16 → 0 < n → n ≤ 8 → off + n ≤ 128 →
    (let p := overlay (overlay (s.part k) off ((natToBytes n v.toNat).map some)) 64
       ((natToBytes 8 ((s.part k).extractLsb' 512 64).toNat).map some)
     (s.partGood k p = false → exec (.partitionWrite k off n v) s = .next s) ∧
     (s.partWaits k off ((natToBytes n v.toNat).map some) = true → ∃ t, exec (.partitionWrite k off n v) s = .next t ∧ t.tabs = s.tabs ∧ t.mem = s.mem) ∧
     (s.partGood k p = true → s.launching k = false → s.partWaits k off ((natToBytes n v.toNat).map some) = false → ∃ t w, exec (.partitionWrite k off n v) s = .next t ∧
       t.part k = (if partV p = true ∧ partV (s.part k) = false then overlay p 64 ((natToBytes 8 w).map some) else p) ∧
       ∀ j, j ≠ k → t.part j = s.part j))) ∧
  (∀ (n : Nat) (v : Word) (s : State), n < 5120 →
    (let good := (∀ i, i < 6 → v.extractLsb' (2 * i) 2 ≠ 3#2) ∧ s.isServer (v.extractLsb' 51 13).toNat = true
     (¬ good → exec (.pairingWrite n v) s = .next s) ∧
     (good → ∃ t, exec (.pairingWrite n v) s = .next t ∧ t.pair n = v &&& 0xFFF8000000000FFF#64 ∧ (∀ m, m ≠ n → t.pair m = s.pair m) ∧ t.mem = s.mem ∧
       t.cores = s.cores))) ∧
  (∀ (k : Nat) (h : Word) (s : State), k < 16 →
    (h.toNat < (s.fq k).head ∨ (s.fq k).next < h.toNat → exec (.faultQueueHeadWrite k h) s = .next s) ∧
    ((s.fq k).head ≤ h.toNat → h.toNat ≤ (s.fq k).next → (s.fq k).waiting = [] → (∀ e c, (s.engAt e).cur = some c → c.pend = none) →
      ∃ t, exec (.faultQueueHeadWrite k h) s = .next t ∧ t.fq k = { s.fq k with head := h.toNat } ∧ t.mem = s.mem ∧ t.cores = s.cores)) ∧
  ∀ (v : Word) (s : State),
    (∀ k, k < 16 → ∃ t, exec (.registerWrite (0x100A0000 + 0x100 * k + 0x40) 8 v) s = .next t ∧ t.ckpt k = { s.ckpt k with safe := v } ∧
      (∀ j, j ≠ k → t.ckpt j = s.ckpt j) ∧ t.mem = s.mem ∧ t.cores = s.cores) ∧
    ∀ off n, 0x10000 ≤ off → off < 0x10000000 → n ≤ 8 → exec (.registerWrite off n v) s = .next s

/-- The Lens window. An order of LCTL to a frozen core resumes it at its pc, enters its trap handler with the recorded values, steps it once or ends its task; order 5
freezes a core that runs, with code 3. Orders 1 to 4 to a core that is not frozen, and 5 to one that is, are ignored. A write reaches a frozen core's registers, and
no others (R83, R222, R242, R270). When a field has started, so that NRUN counts its tasks, is the model's reading (log 42). -/
def Obligations.TheLensOrdersAndWrites : Prop :=
  ∀ (n : Nat) (k : Task) (s : State), n < 5120 → (s.coreAt n).task = some k → k.idle = false →
    (∀ f, (s.coreAt n).frz = some f →
      (∃ t, exec (.lctlResume n) s = .next t ∧ t.coreAt n = { s.coreAt n with frz := none, resume := 0 } ∧ t.mem = s.mem) ∧
      (∃ t, exec (.lctlTrapResume n) s = .next t ∧ (t.coreAt n).frz = none ∧ (t.coreAt n).pc = (s.coreAt n).sup.stvec ∧ (t.coreAt n).mode = .s ∧
        (t.coreAt n).sup.sepc = f.epc &&& 0xFFFFFFFFFFFFFFFC#64 ∧ (t.coreAt n).sup.scause = (BitVec.ofNat 63 f.code).setWidth 64 ∧
        (t.coreAt n).sup.stval = f.tval ∧ (t.coreAt n).x = (s.coreAt n).x ∧ t.mem = s.mem) ∧
      (∃ t, exec (.lctlStep n) s = .next t ∧ t.coreAt n = { s.coreAt n with frz := none, resume := 0, stepping := true, stepFrom := s.run.cmds } ∧ t.mem = s.mem) ∧
      (∃ t, exec (.lctlEndTask n) s = .next t ∧ (t.coreAt n).task = none ∧ (t.coreAt n).frz = none ∧
        (t.cap k.caps).nrun = (if s.fieldStarted n then (s.cap k.caps).nrun - 1#16 else (s.cap k.caps).nrun)) ∧
      exec (.lctlFreeze n) s = .next s ∧
      ∀ r : BitVec 5, ∀ v, r ≠ 0#5 → ∃ t, exec (.lensWrite n (8 * r.toNat) 8 v) s = .next t ∧ (t.coreAt n).rx r = v ∧
        (∀ q, q ≠ r → (t.coreAt n).rx q = (s.coreAt n).rx q) ∧ (t.coreAt n).csr = (s.coreAt n).csr ∧ (t.coreAt n).pc = (s.coreAt n).pc ∧ t.mem = s.mem) ∧
    ((s.coreAt n).frz = none →
      ((s.coreAt n).midway = false → ∃ t, exec (.lctlFreeze n) s = .next t ∧
        (t.coreAt n).frz = some ⟨3, (s.coreAt n).pc, (s.coreAt n).pc, false, s.time.gtc⟩ ∧ (t.coreAt n).x = (s.coreAt n).x ∧ t.mem = s.mem) ∧
      exec (.lctlResume n) s = .next s ∧ exec (.lctlTrapResume n) s = .next s ∧ exec (.lctlStep n) s = .next s ∧ exec (.lctlEndTask n) s = .next s ∧
      ∀ off k v, off + k ≤ 0x2000 → k ≤ 8 → exec (.lensWrite n off k v) s = .next s)
end

