-- ==== Sys2Proof/Laws/State.lean ====
section
/-! SUPPORT. What each update of the state leaves of its other fields, one lemma per field per update, and what it makes of its own. -/

namespace Sys2Proof.Machine

/-! `State.setCore`. -/

@[simp] theorem State.time_setCore (s : State) (n : Nat) (c : Core) : (s.setCore n c).time = s.time := rfl
@[simp] theorem State.clusters_setCore (s : State) (n : Nat) (c : Core) : (s.setCore n c).clusters = s.clusters := rfl
@[simp] theorem State.mem_setCore (s : State) (n : Nat) (c : Core) : (s.setCore n c).mem = s.mem := rfl
@[simp] theorem State.home_setCore (s : State) (n : Nat) (c : Core) : (s.setCore n c).home = s.home := rfl
@[simp] theorem State.tabs_setCore (s : State) (n : Nat) (c : Core) : (s.setCore n c).tabs = s.tabs := rfl
@[simp] theorem State.disp_setCore (s : State) (n : Nat) (c : Core) : (s.setCore n c).disp = s.disp := rfl
@[simp] theorem State.net_setCore (s : State) (n : Nat) (c : Core) : (s.setCore n c).net = s.net := rfl
@[simp] theorem State.engines_setCore (s : State) (n : Nat) (c : Core) : (s.setCore n c).engines = s.engines := rfl
@[simp] theorem State.run_setCore (s : State) (n : Nat) (c : Core) : (s.setCore n c).run = s.run := rfl

/-! `State.updCore`. -/

@[simp] theorem State.time_updCore (s : State) (n : Nat) (f : Core → Core) : (s.updCore n f).time = s.time := rfl
@[simp] theorem State.clusters_updCore (s : State) (n : Nat) (f : Core → Core) : (s.updCore n f).clusters = s.clusters := rfl
@[simp] theorem State.mem_updCore (s : State) (n : Nat) (f : Core → Core) : (s.updCore n f).mem = s.mem := rfl
@[simp] theorem State.home_updCore (s : State) (n : Nat) (f : Core → Core) : (s.updCore n f).home = s.home := rfl
@[simp] theorem State.tabs_updCore (s : State) (n : Nat) (f : Core → Core) : (s.updCore n f).tabs = s.tabs := rfl
@[simp] theorem State.disp_updCore (s : State) (n : Nat) (f : Core → Core) : (s.updCore n f).disp = s.disp := rfl
@[simp] theorem State.net_updCore (s : State) (n : Nat) (f : Core → Core) : (s.updCore n f).net = s.net := rfl
@[simp] theorem State.engines_updCore (s : State) (n : Nat) (f : Core → Core) : (s.updCore n f).engines = s.engines := rfl
@[simp] theorem State.run_updCore (s : State) (n : Nat) (f : Core → Core) : (s.updCore n f).run = s.run := rfl

/-! `State.updMe`. -/

@[simp] theorem State.time_updMe (s : State) (f : Core → Core) : (s.updMe f).time = s.time := rfl
@[simp] theorem State.clusters_updMe (s : State) (f : Core → Core) : (s.updMe f).clusters = s.clusters := rfl
@[simp] theorem State.mem_updMe (s : State) (f : Core → Core) : (s.updMe f).mem = s.mem := rfl
@[simp] theorem State.home_updMe (s : State) (f : Core → Core) : (s.updMe f).home = s.home := rfl
@[simp] theorem State.tabs_updMe (s : State) (f : Core → Core) : (s.updMe f).tabs = s.tabs := rfl
@[simp] theorem State.disp_updMe (s : State) (f : Core → Core) : (s.updMe f).disp = s.disp := rfl
@[simp] theorem State.net_updMe (s : State) (f : Core → Core) : (s.updMe f).net = s.net := rfl
@[simp] theorem State.engines_updMe (s : State) (f : Core → Core) : (s.updMe f).engines = s.engines := rfl
@[simp] theorem State.run_updMe (s : State) (f : Core → Core) : (s.updMe f).run = s.run := rfl

/-! `State.raise`. -/

@[simp] theorem State.time_raise (s : State) (n t : Nat) : (s.raise n t).time = s.time := rfl
@[simp] theorem State.clusters_raise (s : State) (n t : Nat) : (s.raise n t).clusters = s.clusters := rfl
@[simp] theorem State.mem_raise (s : State) (n t : Nat) : (s.raise n t).mem = s.mem := rfl
@[simp] theorem State.home_raise (s : State) (n t : Nat) : (s.raise n t).home = s.home := rfl
@[simp] theorem State.tabs_raise (s : State) (n t : Nat) : (s.raise n t).tabs = s.tabs := rfl
@[simp] theorem State.disp_raise (s : State) (n t : Nat) : (s.raise n t).disp = s.disp := rfl
@[simp] theorem State.net_raise (s : State) (n t : Nat) : (s.raise n t).net = s.net := rfl
@[simp] theorem State.engines_raise (s : State) (n t : Nat) : (s.raise n t).engines = s.engines := rfl
@[simp] theorem State.run_raise (s : State) (n t : Nat) : (s.raise n t).run = s.run := rfl

/-! `State.setIw`. -/

@[simp] theorem State.time_setIw (s : State) (n : Nat) (w : IWord) : (s.setIw n w).time = s.time := rfl
@[simp] theorem State.clusters_setIw (s : State) (n : Nat) (w : IWord) : (s.setIw n w).clusters = s.clusters := rfl
@[simp] theorem State.mem_setIw (s : State) (n : Nat) (w : IWord) : (s.setIw n w).mem = s.mem := rfl
@[simp] theorem State.home_setIw (s : State) (n : Nat) (w : IWord) : (s.setIw n w).home = s.home := rfl
@[simp] theorem State.tabs_setIw (s : State) (n : Nat) (w : IWord) : (s.setIw n w).tabs = s.tabs := rfl
@[simp] theorem State.disp_setIw (s : State) (n : Nat) (w : IWord) : (s.setIw n w).disp = s.disp := rfl
@[simp] theorem State.net_setIw (s : State) (n : Nat) (w : IWord) : (s.setIw n w).net = s.net := rfl
@[simp] theorem State.engines_setIw (s : State) (n : Nat) (w : IWord) : (s.setIw n w).engines = s.engines := rfl
@[simp] theorem State.run_setIw (s : State) (n : Nat) (w : IWord) : (s.setIw n w).run = s.run := rfl

/-! `State.setFwd`. -/

@[simp] theorem State.time_setFwd (s : State) (n : Nat) (f : Fwd) : (s.setFwd n f).time = s.time := rfl
@[simp] theorem State.clusters_setFwd (s : State) (n : Nat) (f : Fwd) : (s.setFwd n f).clusters = s.clusters := rfl
@[simp] theorem State.mem_setFwd (s : State) (n : Nat) (f : Fwd) : (s.setFwd n f).mem = s.mem := rfl
@[simp] theorem State.home_setFwd (s : State) (n : Nat) (f : Fwd) : (s.setFwd n f).home = s.home := rfl
@[simp] theorem State.tabs_setFwd (s : State) (n : Nat) (f : Fwd) : (s.setFwd n f).tabs = s.tabs := rfl
@[simp] theorem State.disp_setFwd (s : State) (n : Nat) (f : Fwd) : (s.setFwd n f).disp = s.disp := rfl
@[simp] theorem State.net_setFwd (s : State) (n : Nat) (f : Fwd) : (s.setFwd n f).net = s.net := rfl
@[simp] theorem State.engines_setFwd (s : State) (n : Nat) (f : Fwd) : (s.setFwd n f).engines = s.engines := rfl
@[simp] theorem State.run_setFwd (s : State) (n : Nat) (f : Fwd) : (s.setFwd n f).run = s.run := rfl

/-! `State.setCluster`. -/

@[simp] theorem State.time_setCluster (s : State) (c : Nat) (k : Cluster) : (s.setCluster c k).time = s.time := rfl
@[simp] theorem State.cores_setCluster (s : State) (c : Nat) (k : Cluster) : (s.setCluster c k).cores = s.cores := rfl
@[simp] theorem State.mem_setCluster (s : State) (c : Nat) (k : Cluster) : (s.setCluster c k).mem = s.mem := rfl
@[simp] theorem State.home_setCluster (s : State) (c : Nat) (k : Cluster) : (s.setCluster c k).home = s.home := rfl
@[simp] theorem State.tabs_setCluster (s : State) (c : Nat) (k : Cluster) : (s.setCluster c k).tabs = s.tabs := rfl
@[simp] theorem State.disp_setCluster (s : State) (c : Nat) (k : Cluster) : (s.setCluster c k).disp = s.disp := rfl
@[simp] theorem State.net_setCluster (s : State) (c : Nat) (k : Cluster) : (s.setCluster c k).net = s.net := rfl
@[simp] theorem State.engines_setCluster (s : State) (c : Nat) (k : Cluster) : (s.setCluster c k).engines = s.engines := rfl
@[simp] theorem State.run_setCluster (s : State) (c : Nat) (k : Cluster) : (s.setCluster c k).run = s.run := rfl

/-! `State.updCluster`. -/

@[simp] theorem State.time_updCluster (s : State) (c : Nat) (f : Cluster → Cluster) : (s.updCluster c f).time = s.time := rfl
@[simp] theorem State.cores_updCluster (s : State) (c : Nat) (f : Cluster → Cluster) : (s.updCluster c f).cores = s.cores := rfl
@[simp] theorem State.mem_updCluster (s : State) (c : Nat) (f : Cluster → Cluster) : (s.updCluster c f).mem = s.mem := rfl
@[simp] theorem State.home_updCluster (s : State) (c : Nat) (f : Cluster → Cluster) : (s.updCluster c f).home = s.home := rfl
@[simp] theorem State.tabs_updCluster (s : State) (c : Nat) (f : Cluster → Cluster) : (s.updCluster c f).tabs = s.tabs := rfl
@[simp] theorem State.disp_updCluster (s : State) (c : Nat) (f : Cluster → Cluster) : (s.updCluster c f).disp = s.disp := rfl
@[simp] theorem State.net_updCluster (s : State) (c : Nat) (f : Cluster → Cluster) : (s.updCluster c f).net = s.net := rfl
@[simp] theorem State.engines_updCluster (s : State) (c : Nat) (f : Cluster → Cluster) : (s.updCluster c f).engines = s.engines := rfl
@[simp] theorem State.run_updCluster (s : State) (c : Nat) (f : Cluster → Cluster) : (s.updCluster c f).run = s.run := rfl

/-! `State.updPass`. -/

@[simp] theorem State.time_updPass (s : State) (c : Nat) (f : Pass → Pass) : (s.updPass c f).time = s.time := rfl
@[simp] theorem State.cores_updPass (s : State) (c : Nat) (f : Pass → Pass) : (s.updPass c f).cores = s.cores := rfl
@[simp] theorem State.mem_updPass (s : State) (c : Nat) (f : Pass → Pass) : (s.updPass c f).mem = s.mem := rfl
@[simp] theorem State.home_updPass (s : State) (c : Nat) (f : Pass → Pass) : (s.updPass c f).home = s.home := rfl
@[simp] theorem State.tabs_updPass (s : State) (c : Nat) (f : Pass → Pass) : (s.updPass c f).tabs = s.tabs := rfl
@[simp] theorem State.disp_updPass (s : State) (c : Nat) (f : Pass → Pass) : (s.updPass c f).disp = s.disp := rfl
@[simp] theorem State.net_updPass (s : State) (c : Nat) (f : Pass → Pass) : (s.updPass c f).net = s.net := rfl
@[simp] theorem State.engines_updPass (s : State) (c : Nat) (f : Pass → Pass) : (s.updPass c f).engines = s.engines := rfl
@[simp] theorem State.run_updPass (s : State) (c : Nat) (f : Pass → Pass) : (s.updPass c f).run = s.run := rfl

/-! `State.updLane`. -/

@[simp] theorem State.time_updLane (s : State) (c j : Nat) (f : Lane → Lane) : (s.updLane c j f).time = s.time := rfl
@[simp] theorem State.cores_updLane (s : State) (c j : Nat) (f : Lane → Lane) : (s.updLane c j f).cores = s.cores := rfl
@[simp] theorem State.mem_updLane (s : State) (c j : Nat) (f : Lane → Lane) : (s.updLane c j f).mem = s.mem := rfl
@[simp] theorem State.home_updLane (s : State) (c j : Nat) (f : Lane → Lane) : (s.updLane c j f).home = s.home := rfl
@[simp] theorem State.tabs_updLane (s : State) (c j : Nat) (f : Lane → Lane) : (s.updLane c j f).tabs = s.tabs := rfl
@[simp] theorem State.disp_updLane (s : State) (c j : Nat) (f : Lane → Lane) : (s.updLane c j f).disp = s.disp := rfl
@[simp] theorem State.net_updLane (s : State) (c j : Nat) (f : Lane → Lane) : (s.updLane c j f).net = s.net := rfl
@[simp] theorem State.engines_updLane (s : State) (c j : Nat) (f : Lane → Lane) : (s.updLane c j f).engines = s.engines := rfl
@[simp] theorem State.run_updLane (s : State) (c j : Nat) (f : Lane → Lane) : (s.updLane c j f).run = s.run := rfl

/-! `State.setAccRow`. -/

@[simp] theorem State.time_setAccRow (s : State) (c tile i : Nat) (r : BitVec 3072) : (s.setAccRow c tile i r).time = s.time := rfl
@[simp] theorem State.cores_setAccRow (s : State) (c tile i : Nat) (r : BitVec 3072) : (s.setAccRow c tile i r).cores = s.cores := rfl
@[simp] theorem State.mem_setAccRow (s : State) (c tile i : Nat) (r : BitVec 3072) : (s.setAccRow c tile i r).mem = s.mem := rfl
@[simp] theorem State.home_setAccRow (s : State) (c tile i : Nat) (r : BitVec 3072) : (s.setAccRow c tile i r).home = s.home := rfl
@[simp] theorem State.tabs_setAccRow (s : State) (c tile i : Nat) (r : BitVec 3072) : (s.setAccRow c tile i r).tabs = s.tabs := rfl
@[simp] theorem State.disp_setAccRow (s : State) (c tile i : Nat) (r : BitVec 3072) : (s.setAccRow c tile i r).disp = s.disp := rfl
@[simp] theorem State.net_setAccRow (s : State) (c tile i : Nat) (r : BitVec 3072) : (s.setAccRow c tile i r).net = s.net := rfl
@[simp] theorem State.engines_setAccRow (s : State) (c tile i : Nat) (r : BitVec 3072) : (s.setAccRow c tile i r).engines = s.engines := rfl
@[simp] theorem State.run_setAccRow (s : State) (c tile i : Nat) (r : BitVec 3072) : (s.setAccRow c tile i r).run = s.run := rfl

/-! `State.setMem`. -/

@[simp] theorem State.time_setMem (s : State) (m : Mem) : (s.setMem m).time = s.time := rfl
@[simp] theorem State.cores_setMem (s : State) (m : Mem) : (s.setMem m).cores = s.cores := rfl
@[simp] theorem State.clusters_setMem (s : State) (m : Mem) : (s.setMem m).clusters = s.clusters := rfl
@[simp] theorem State.home_setMem (s : State) (m : Mem) : (s.setMem m).home = s.home := rfl
@[simp] theorem State.tabs_setMem (s : State) (m : Mem) : (s.setMem m).tabs = s.tabs := rfl
@[simp] theorem State.disp_setMem (s : State) (m : Mem) : (s.setMem m).disp = s.disp := rfl
@[simp] theorem State.net_setMem (s : State) (m : Mem) : (s.setMem m).net = s.net := rfl
@[simp] theorem State.engines_setMem (s : State) (m : Mem) : (s.setMem m).engines = s.engines := rfl
@[simp] theorem State.run_setMem (s : State) (m : Mem) : (s.setMem m).run = s.run := rfl

/-! `State.writeEntry`. -/

@[simp] theorem State.time_writeEntry (s : State) (e : JEntry) : (s.writeEntry e).time = s.time := State.time_setMem _ _
@[simp] theorem State.cores_writeEntry (s : State) (e : JEntry) : (s.writeEntry e).cores = s.cores := State.cores_setMem _ _
@[simp] theorem State.clusters_writeEntry (s : State) (e : JEntry) : (s.writeEntry e).clusters = s.clusters := State.clusters_setMem _ _
@[simp] theorem State.home_writeEntry (s : State) (e : JEntry) : (s.writeEntry e).home = s.home := State.home_setMem _ _
@[simp] theorem State.tabs_writeEntry (s : State) (e : JEntry) : (s.writeEntry e).tabs = s.tabs := State.tabs_setMem _ _
@[simp] theorem State.disp_writeEntry (s : State) (e : JEntry) : (s.writeEntry e).disp = s.disp := State.disp_setMem _ _
@[simp] theorem State.net_writeEntry (s : State) (e : JEntry) : (s.writeEntry e).net = s.net := State.net_setMem _ _
@[simp] theorem State.engines_writeEntry (s : State) (e : JEntry) : (s.writeEntry e).engines = s.engines := State.engines_setMem _ _
@[simp] theorem State.run_writeEntry (s : State) (e : JEntry) : (s.writeEntry e).run = s.run := State.run_setMem _ _

/-! `State.putRecord`. -/

@[simp] theorem State.time_putRecord (s : State) (ten i : Nat) (r cmd : BitVec 512) : (s.putRecord ten i r cmd).time = s.time := by
  unfold State.putRecord; exact (State.time_setMem _ _).trans (State.time_setMem _ _)
@[simp] theorem State.cores_putRecord (s : State) (ten i : Nat) (r cmd : BitVec 512) : (s.putRecord ten i r cmd).cores = s.cores := by
  unfold State.putRecord; exact (State.cores_setMem _ _).trans (State.cores_setMem _ _)
@[simp] theorem State.clusters_putRecord (s : State) (ten i : Nat) (r cmd : BitVec 512) : (s.putRecord ten i r cmd).clusters = s.clusters := by
  unfold State.putRecord; exact (State.clusters_setMem _ _).trans (State.clusters_setMem _ _)
@[simp] theorem State.home_putRecord (s : State) (ten i : Nat) (r cmd : BitVec 512) : (s.putRecord ten i r cmd).home = s.home := by
  unfold State.putRecord; exact (State.home_setMem _ _).trans (State.home_setMem _ _)
@[simp] theorem State.tabs_putRecord (s : State) (ten i : Nat) (r cmd : BitVec 512) : (s.putRecord ten i r cmd).tabs = s.tabs := by
  unfold State.putRecord; exact (State.tabs_setMem _ _).trans (State.tabs_setMem _ _)
@[simp] theorem State.disp_putRecord (s : State) (ten i : Nat) (r cmd : BitVec 512) : (s.putRecord ten i r cmd).disp = s.disp := by
  unfold State.putRecord; exact (State.disp_setMem _ _).trans (State.disp_setMem _ _)
@[simp] theorem State.net_putRecord (s : State) (ten i : Nat) (r cmd : BitVec 512) : (s.putRecord ten i r cmd).net = s.net := by
  unfold State.putRecord; exact (State.net_setMem _ _).trans (State.net_setMem _ _)
@[simp] theorem State.engines_putRecord (s : State) (ten i : Nat) (r cmd : BitVec 512) : (s.putRecord ten i r cmd).engines = s.engines := by
  unfold State.putRecord; exact (State.engines_setMem _ _).trans (State.engines_setMem _ _)
@[simp] theorem State.run_putRecord (s : State) (ten i : Nat) (r cmd : BitVec 512) : (s.putRecord ten i r cmd).run = s.run := by
  unfold State.putRecord; exact (State.run_setMem _ _).trans (State.run_setMem _ _)

/-! `State.count`. -/

@[simp] theorem State.time_count (s : State) (i k : Nat) : (s.count i k).time = s.time := by unfold State.count; rfl
@[simp] theorem State.cores_count (s : State) (i k : Nat) : (s.count i k).cores = s.cores := by unfold State.count; rfl
@[simp] theorem State.clusters_count (s : State) (i k : Nat) : (s.count i k).clusters = s.clusters := by unfold State.count; rfl
@[simp] theorem State.mem_count (s : State) (i k : Nat) : (s.count i k).mem = s.mem := by unfold State.count; rfl
@[simp] theorem State.home_count (s : State) (i k : Nat) : (s.count i k).home = s.home := by unfold State.count; rfl
@[simp] theorem State.disp_count (s : State) (i k : Nat) : (s.count i k).disp = s.disp := by unfold State.count; rfl
@[simp] theorem State.net_count (s : State) (i k : Nat) : (s.count i k).net = s.net := by unfold State.count; rfl
@[simp] theorem State.engines_count (s : State) (i k : Nat) : (s.count i k).engines = s.engines := by unfold State.count; rfl
@[simp] theorem State.run_count (s : State) (i k : Nat) : (s.count i k).run = s.run := by unfold State.count; rfl

/-! `State.setFq`. -/

@[simp] theorem State.time_setFq (s : State) (ten : Nat) (q : FaultQ) : (s.setFq ten q).time = s.time := rfl
@[simp] theorem State.cores_setFq (s : State) (ten : Nat) (q : FaultQ) : (s.setFq ten q).cores = s.cores := rfl
@[simp] theorem State.clusters_setFq (s : State) (ten : Nat) (q : FaultQ) : (s.setFq ten q).clusters = s.clusters := rfl
@[simp] theorem State.mem_setFq (s : State) (ten : Nat) (q : FaultQ) : (s.setFq ten q).mem = s.mem := rfl
@[simp] theorem State.home_setFq (s : State) (ten : Nat) (q : FaultQ) : (s.setFq ten q).home = s.home := rfl
@[simp] theorem State.disp_setFq (s : State) (ten : Nat) (q : FaultQ) : (s.setFq ten q).disp = s.disp := rfl
@[simp] theorem State.net_setFq (s : State) (ten : Nat) (q : FaultQ) : (s.setFq ten q).net = s.net := rfl
@[simp] theorem State.engines_setFq (s : State) (ten : Nat) (q : FaultQ) : (s.setFq ten q).engines = s.engines := rfl
@[simp] theorem State.run_setFq (s : State) (ten : Nat) (q : FaultQ) : (s.setFq ten q).run = s.run := rfl

/-! `State.updCap`. -/

@[simp] theorem State.time_updCap (s : State) (c : Nat) (f : Caps → Caps) : (s.updCap c f).time = s.time := rfl
@[simp] theorem State.cores_updCap (s : State) (c : Nat) (f : Caps → Caps) : (s.updCap c f).cores = s.cores := rfl
@[simp] theorem State.clusters_updCap (s : State) (c : Nat) (f : Caps → Caps) : (s.updCap c f).clusters = s.clusters := rfl
@[simp] theorem State.mem_updCap (s : State) (c : Nat) (f : Caps → Caps) : (s.updCap c f).mem = s.mem := rfl
@[simp] theorem State.home_updCap (s : State) (c : Nat) (f : Caps → Caps) : (s.updCap c f).home = s.home := rfl
@[simp] theorem State.disp_updCap (s : State) (c : Nat) (f : Caps → Caps) : (s.updCap c f).disp = s.disp := rfl
@[simp] theorem State.net_updCap (s : State) (c : Nat) (f : Caps → Caps) : (s.updCap c f).net = s.net := rfl
@[simp] theorem State.engines_updCap (s : State) (c : Nat) (f : Caps → Caps) : (s.updCap c f).engines = s.engines := rfl
@[simp] theorem State.run_updCap (s : State) (c : Nat) (f : Caps → Caps) : (s.updCap c f).run = s.run := rfl

/-! `State.setBlock`. -/

@[simp] theorem State.time_setBlock (s : State) (b : Nat) (k : Block) : (s.setBlock b k).time = s.time := rfl
@[simp] theorem State.cores_setBlock (s : State) (b : Nat) (k : Block) : (s.setBlock b k).cores = s.cores := rfl
@[simp] theorem State.clusters_setBlock (s : State) (b : Nat) (k : Block) : (s.setBlock b k).clusters = s.clusters := rfl
@[simp] theorem State.mem_setBlock (s : State) (b : Nat) (k : Block) : (s.setBlock b k).mem = s.mem := rfl
@[simp] theorem State.home_setBlock (s : State) (b : Nat) (k : Block) : (s.setBlock b k).home = s.home := rfl
@[simp] theorem State.disp_setBlock (s : State) (b : Nat) (k : Block) : (s.setBlock b k).disp = s.disp := rfl
@[simp] theorem State.net_setBlock (s : State) (b : Nat) (k : Block) : (s.setBlock b k).net = s.net := rfl
@[simp] theorem State.engines_setBlock (s : State) (b : Nat) (k : Block) : (s.setBlock b k).engines = s.engines := rfl
@[simp] theorem State.run_setBlock (s : State) (b : Nat) (k : Block) : (s.setBlock b k).run = s.run := rfl

/-! `State.setCkpt`. -/

@[simp] theorem State.time_setCkpt (s : State) (t : Nat) (k : Ckpt) : (s.setCkpt t k).time = s.time := rfl
@[simp] theorem State.cores_setCkpt (s : State) (t : Nat) (k : Ckpt) : (s.setCkpt t k).cores = s.cores := rfl
@[simp] theorem State.clusters_setCkpt (s : State) (t : Nat) (k : Ckpt) : (s.setCkpt t k).clusters = s.clusters := rfl
@[simp] theorem State.mem_setCkpt (s : State) (t : Nat) (k : Ckpt) : (s.setCkpt t k).mem = s.mem := rfl
@[simp] theorem State.home_setCkpt (s : State) (t : Nat) (k : Ckpt) : (s.setCkpt t k).home = s.home := rfl
@[simp] theorem State.disp_setCkpt (s : State) (t : Nat) (k : Ckpt) : (s.setCkpt t k).disp = s.disp := rfl
@[simp] theorem State.net_setCkpt (s : State) (t : Nat) (k : Ckpt) : (s.setCkpt t k).net = s.net := rfl
@[simp] theorem State.engines_setCkpt (s : State) (t : Nat) (k : Ckpt) : (s.setCkpt t k).engines = s.engines := rfl
@[simp] theorem State.run_setCkpt (s : State) (t : Nat) (k : Ckpt) : (s.setCkpt t k).run = s.run := rfl

/-! `State.setSlotStatus`. -/

@[simp] theorem State.time_setSlotStatus (s : State) (slot : Nat) (seq : Byte) (j : Nat) : (s.setSlotStatus slot seq j).time = s.time := rfl
@[simp] theorem State.cores_setSlotStatus (s : State) (slot : Nat) (seq : Byte) (j : Nat) : (s.setSlotStatus slot seq j).cores = s.cores := rfl
@[simp] theorem State.clusters_setSlotStatus (s : State) (slot : Nat) (seq : Byte) (j : Nat) : (s.setSlotStatus slot seq j).clusters = s.clusters := rfl
@[simp] theorem State.mem_setSlotStatus (s : State) (slot : Nat) (seq : Byte) (j : Nat) : (s.setSlotStatus slot seq j).mem = s.mem := rfl
@[simp] theorem State.home_setSlotStatus (s : State) (slot : Nat) (seq : Byte) (j : Nat) : (s.setSlotStatus slot seq j).home = s.home := rfl
@[simp] theorem State.disp_setSlotStatus (s : State) (slot : Nat) (seq : Byte) (j : Nat) : (s.setSlotStatus slot seq j).disp = s.disp := rfl
@[simp] theorem State.net_setSlotStatus (s : State) (slot : Nat) (seq : Byte) (j : Nat) : (s.setSlotStatus slot seq j).net = s.net := rfl
@[simp] theorem State.engines_setSlotStatus (s : State) (slot : Nat) (seq : Byte) (j : Nat) : (s.setSlotStatus slot seq j).engines = s.engines := rfl
@[simp] theorem State.run_setSlotStatus (s : State) (slot : Nat) (seq : Byte) (j : Nat) : (s.setSlotStatus slot seq j).run = s.run := rfl

/-! `State.updLaunch`. -/

@[simp] theorem State.time_updLaunch (s : State) (j : Nat) (f : Launch → Launch) : (s.updLaunch j f).time = s.time := rfl
@[simp] theorem State.cores_updLaunch (s : State) (j : Nat) (f : Launch → Launch) : (s.updLaunch j f).cores = s.cores := rfl
@[simp] theorem State.clusters_updLaunch (s : State) (j : Nat) (f : Launch → Launch) : (s.updLaunch j f).clusters = s.clusters := rfl
@[simp] theorem State.mem_updLaunch (s : State) (j : Nat) (f : Launch → Launch) : (s.updLaunch j f).mem = s.mem := rfl
@[simp] theorem State.home_updLaunch (s : State) (j : Nat) (f : Launch → Launch) : (s.updLaunch j f).home = s.home := rfl
@[simp] theorem State.tabs_updLaunch (s : State) (j : Nat) (f : Launch → Launch) : (s.updLaunch j f).tabs = s.tabs := rfl
@[simp] theorem State.net_updLaunch (s : State) (j : Nat) (f : Launch → Launch) : (s.updLaunch j f).net = s.net := rfl
@[simp] theorem State.engines_updLaunch (s : State) (j : Nat) (f : Launch → Launch) : (s.updLaunch j f).engines = s.engines := rfl
@[simp] theorem State.run_updLaunch (s : State) (j : Nat) (f : Launch → Launch) : (s.updLaunch j f).run = s.run := rfl

/-! `State.setStageQ`. -/

@[simp] theorem State.time_setStageQ (s : State) (q : StageQ) : (s.setStageQ q).time = s.time := rfl
@[simp] theorem State.cores_setStageQ (s : State) (q : StageQ) : (s.setStageQ q).cores = s.cores := rfl
@[simp] theorem State.clusters_setStageQ (s : State) (q : StageQ) : (s.setStageQ q).clusters = s.clusters := rfl
@[simp] theorem State.mem_setStageQ (s : State) (q : StageQ) : (s.setStageQ q).mem = s.mem := rfl
@[simp] theorem State.home_setStageQ (s : State) (q : StageQ) : (s.setStageQ q).home = s.home := rfl
@[simp] theorem State.tabs_setStageQ (s : State) (q : StageQ) : (s.setStageQ q).tabs = s.tabs := rfl
@[simp] theorem State.net_setStageQ (s : State) (q : StageQ) : (s.setStageQ q).net = s.net := rfl
@[simp] theorem State.engines_setStageQ (s : State) (q : StageQ) : (s.setStageQ q).engines = s.engines := rfl
@[simp] theorem State.run_setStageQ (s : State) (q : StageQ) : (s.setStageQ q).run = s.run := rfl

/-! `State.setEmark`. -/

@[simp] theorem State.time_setEmark (s : State) (slice v : Nat) : (s.setEmark slice v).time = s.time := rfl
@[simp] theorem State.cores_setEmark (s : State) (slice v : Nat) : (s.setEmark slice v).cores = s.cores := rfl
@[simp] theorem State.clusters_setEmark (s : State) (slice v : Nat) : (s.setEmark slice v).clusters = s.clusters := rfl
@[simp] theorem State.mem_setEmark (s : State) (slice v : Nat) : (s.setEmark slice v).mem = s.mem := rfl
@[simp] theorem State.tabs_setEmark (s : State) (slice v : Nat) : (s.setEmark slice v).tabs = s.tabs := rfl
@[simp] theorem State.disp_setEmark (s : State) (slice v : Nat) : (s.setEmark slice v).disp = s.disp := rfl
@[simp] theorem State.net_setEmark (s : State) (slice v : Nat) : (s.setEmark slice v).net = s.net := rfl
@[simp] theorem State.engines_setEmark (s : State) (slice v : Nat) : (s.setEmark slice v).engines = s.engines := rfl
@[simp] theorem State.run_setEmark (s : State) (slice v : Nat) : (s.setEmark slice v).run = s.run := rfl

/-! What an update makes of its own field. -/

@[simp] theorem State.mem_setMem (s : State) (m : Mem) : (s.setMem m).mem = m := rfl
@[simp] theorem State.coreAt_setMem (s : State) (m : Mem) (n : Nat) : (s.setMem m).coreAt n = s.coreAt n := rfl
@[simp] theorem State.coreAt_setCluster (s : State) (c n : Nat) (k : Cluster) : (s.setCluster c k).coreAt n = s.coreAt n := rfl
@[simp] theorem State.coreAt_updCluster (s : State) (c n : Nat) (f : Cluster → Cluster) : (s.updCluster c f).coreAt n = s.coreAt n := rfl
@[simp] theorem State.coreAt_count (s : State) (i k n : Nat) : (s.count i k).coreAt n = s.coreAt n := by simp only [State.coreAt, State.cores_count]
@[simp] theorem State.coreAt_setFq (s : State) (ten n : Nat) (q : FaultQ) : (s.setFq ten q).coreAt n = s.coreAt n := rfl
@[simp] theorem State.coreAt_updCap (s : State) (c n : Nat) (f : Caps → Caps) : (s.updCap c f).coreAt n = s.coreAt n := rfl
@[simp] theorem State.coreAt_updLaunch (s : State) (j n : Nat) (f : Launch → Launch) : (s.updLaunch j f).coreAt n = s.coreAt n := rfl
@[simp] theorem State.clusterAt_setMem (s : State) (m : Mem) (c : Nat) : (s.setMem m).clusterAt c = s.clusterAt c := rfl
@[simp] theorem State.clusterAt_setCore (s : State) (n c : Nat) (k : Core) : (s.setCore n k).clusterAt c = s.clusterAt c := rfl
@[simp] theorem State.clusterAt_updCore (s : State) (n c : Nat) (f : Core → Core) : (s.updCore n f).clusterAt c = s.clusterAt c := rfl
@[simp] theorem State.pair_updCore (s : State) (n k : Nat) (f : Core → Core) : (s.updCore n f).pair k = s.pair k := rfl
@[simp] theorem State.cap_updCore (s : State) (n c : Nat) (f : Core → Core) : (s.updCore n f).cap c = s.cap c := rfl
@[simp] theorem State.fq_updCore (s : State) (n k : Nat) (f : Core → Core) : (s.updCore n f).fq k = s.fq k := rfl
@[simp] theorem State.isServer_updCore (s : State) (n k : Nat) (f : Core → Core) : (s.updCore n f).isServer k = s.isServer k := rfl

end Sys2Proof.Machine
end

