-- ==== Sys2Proof/Laws/Tbl.lean ====
section
/-! SUPPORT. Laws of the sparse tables and of memory: a read after a write, that a write leaves every other key alone, and that every operation keeps the canonical form. -/

namespace Sys2Proof.Machine

/-! Reading after writing. These hold of every list, canonical or not. -/

@[simp] theorem Tbl.get_nil {α : Type} (d : α) (k : Nat) : Tbl.get d [] k = d := rfl

/-- Entries with keys up to `k` do not matter to a read of a key above `k`. -/
theorem Tbl.get_dropWhile {α : Type} (d : α) (t : Tbl α) (k i : Nat) (h : k < i) :
    Tbl.get d (t.dropWhile (fun e => decide (e.1 ≤ k))) i = Tbl.get d t i := by
  induction t with
  | nil => rfl
  | cons e t ih =>
    obtain ⟨j, a⟩ := e
    by_cases hj : j ≤ k
    · have h1 : ¬ j = i := by omega
      have h2 : ¬ i < j := by omega
      simp [List.dropWhile, hj, Tbl.get, h1, h2, ih]
    · simp [List.dropWhile, hj]

/-- After the entries with keys up to `k` are gone, a read of a key up to `k` finds nothing. -/
theorem Tbl.get_dropWhile_low {α : Type} (d : α) (t : Tbl α) (k i : Nat) (h : i ≤ k) :
    Tbl.get d (t.dropWhile (fun e => decide (e.1 ≤ k))) i = d := by
  induction t with
  | nil => rfl
  | cons e t ih =>
    obtain ⟨j, a⟩ := e
    by_cases hj : j ≤ k
    · simp [List.dropWhile, hj, ih]
    · have h1 : ¬ j = i := by omega
      have h2 : i < j := by omega
      simp [List.dropWhile, hj, Tbl.get, h1, h2]

/-- A read after a write to the same key gives the value written. -/
@[simp] theorem Tbl.get_set_self {α : Type} [DecidableEq α] (d : α) (t : Tbl α) (k : Nat) (v : α) :
    Tbl.get d (Tbl.set d t k v) k = v := by
  induction t with
  | nil => by_cases hv : v = d <;> simp [Tbl.set, Tbl.get, hv]
  | cons e t ih =>
    obtain ⟨j, a⟩ := e
    simp only [Tbl.set]
    split
    · split
      · subst_vars; exact Tbl.get_dropWhile_low _ _ _ _ (Nat.le_refl _)
      · simp [Tbl.get]
    · split
      · split
        · subst_vars; simp [Tbl.get, *]
        · simp [Tbl.get]
      · simp [Tbl.get, *]

/-- A write leaves every other key alone. -/
theorem Tbl.get_set_ne {α : Type} [DecidableEq α] (d : α) (t : Tbl α) (k i : Nat) (v : α) (h : i ≠ k) :
    Tbl.get d (Tbl.set d t k v) i = Tbl.get d t i := by
  have h' : ¬ k = i := fun e => h e.symm
  induction t with
  | nil => by_cases hv : v = d <;> simp [Tbl.set, Tbl.get, hv, h']
  | cons e t ih =>
    obtain ⟨j, a⟩ := e
    simp only [Tbl.set]
    split
    · next hj =>
      subst hj
      split
      · by_cases hi : i ≤ j
        · have : i < j := by omega
          rw [Tbl.get_dropWhile_low _ _ _ _ hi]; simp [Tbl.get, h', this]
        · rw [Tbl.get_dropWhile _ _ _ _ (by omega)]
          have h2 : ¬ i < j := by omega
          simp [Tbl.get, h', h2]
      · simp [Tbl.get, h']
    · split
      · next hj hk =>
        split
        · rfl
        · simp only [Tbl.get, h', if_false]
          split
          · next hi => have h1 : ¬ j = i := by omega
                       have h2 : i < j := by omega
                       simp [h1, h2]
          · rfl
      · simp only [Tbl.get, ih]

theorem Tbl.get_set {α : Type} [DecidableEq α] (d : α) (t : Tbl α) (k i : Nat) (v : α) :
    Tbl.get d (Tbl.set d t k v) i = if i = k then v else Tbl.get d t i := by
  split
  · next h => rw [h]; exact Tbl.get_set_self d t k v
  · next h => exact Tbl.get_set_ne d t k i v h

/-! The canonical form. -/

theorem Tbl.wfAbove_mono {α : Type} [DecidableEq α] (d : α) (t : Tbl α) (a b : Nat) (h : a ≤ b) (w : Tbl.wfAbove d b t = true) :
    Tbl.wfAbove d a t = true := by
  cases t with
  | nil => rfl
  | cons e t =>
    obtain ⟨j, v⟩ := e
    simp only [Tbl.wfAbove, Bool.and_eq_true, decide_eq_true_eq] at w ⊢
    exact ⟨⟨by omega, w.1.2⟩, w.2⟩

theorem Tbl.dropWhile_wf {α : Type} [DecidableEq α] (d : α) (t : Tbl α) (k : Nat) (w : Tbl.wfAbove d (k + 1) t = true) :
    t.dropWhile (fun e => decide (e.1 ≤ k)) = t := by
  cases t with
  | nil => rfl
  | cons e t =>
    obtain ⟨j, v⟩ := e
    simp only [Tbl.wfAbove, Bool.and_eq_true, decide_eq_true_eq] at w
    have : ¬ j ≤ k := by omega
    simp [List.dropWhile, this]

theorem Tbl.set_wfAbove {α : Type} [DecidableEq α] (d : α) (t : Tbl α) (lo k : Nat) (v : α) (hk : lo ≤ k)
    (w : Tbl.wfAbove d lo t = true) : Tbl.wfAbove d lo (Tbl.set d t k v) = true := by
  induction t generalizing lo with
  | nil => by_cases hv : v = d <;> simp [Tbl.set, Tbl.wfAbove, hv, hk]
  | cons e t ih =>
    obtain ⟨j, a⟩ := e
    simp only [Tbl.wfAbove, Bool.and_eq_true, decide_eq_true_eq] at w
    simp only [Tbl.set]
    split
    · next hj =>
      subst hj
      split
      · rw [Tbl.dropWhile_wf d t j w.2]; exact Tbl.wfAbove_mono d t lo (j + 1) (by omega) w.2
      · next hv => simp [Tbl.wfAbove, hk, hv, w.2]
    · split
      · next hj hkj =>
        split
        · simp [Tbl.wfAbove, w.1.1, w.1.2, w.2]
        · next hv =>
          have h1 : k + 1 ≤ j := by omega
          have h2 := w.1.2
          simp only [Bool.not_eq_true', decide_eq_false_iff_not] at h2
          simp [Tbl.wfAbove, hk, hv, h1, h2, w.2]
      · next hj hkj =>
        have h2 := w.1.2
        simp only [Bool.not_eq_true', decide_eq_false_iff_not] at h2
        simp [Tbl.wfAbove, w.1.1, h2, ih (j + 1) (by omega) w.2]

/-- A write keeps the canonical form. -/
@[simp] theorem Tbl.set_wf {α : Type} [DecidableEq α] (d : α) (t : Tbl α) (k : Nat) (v : α) (w : Tbl.wf d t = true) :
    Tbl.wf d (Tbl.set d t k v) = true := Tbl.set_wfAbove d t 0 k v (Nat.zero_le _) w

theorem Tbl.filter_wfAbove {α : Type} [DecidableEq α] (d : α) (t : Tbl α) (p : Nat × α → Bool) (lo : Nat)
    (w : Tbl.wfAbove d lo t = true) : Tbl.wfAbove d lo (t.filter p) = true := by
  induction t generalizing lo with
  | nil => rfl
  | cons e t ih =>
    obtain ⟨j, a⟩ := e
    simp only [Tbl.wfAbove, Bool.and_eq_true, decide_eq_true_eq] at w
    rw [List.filter_cons]
    split
    · simp only [Tbl.wfAbove, Bool.and_eq_true, decide_eq_true_eq]; exact ⟨w.1, ih _ w.2⟩
    · exact Tbl.wfAbove_mono d _ lo (j + 1) (by omega) (ih _ w.2)

/-- Leaving entries out keeps the canonical form. -/
@[simp] theorem Tbl.filter_wf {α : Type} [DecidableEq α] (d : α) (t : Tbl α) (p : Nat × α → Bool) (w : Tbl.wf d t = true) :
    Tbl.wf d (t.filter p) = true := Tbl.filter_wfAbove d t p 0 w

@[simp] theorem Tbl.clear_wf {α : Type} [DecidableEq α] (d : α) (t : Tbl α) (lo hi : Nat) (w : Tbl.wf d t = true) :
    Tbl.wf d (Tbl.clear t lo hi) = true := Tbl.filter_wf d t _ w

@[simp] theorem Tbl.wf_nil {α : Type} [DecidableEq α] (d : α) : Tbl.wf d ([] : Tbl α) = true := rfl

/-! Memory. -/

@[simp] theorem Mem.byte_put_self (m : Mem) (k : Nat) (b : Byte) : (m.put k b).byte k = b := Tbl.get_set_self _ _ _ _

theorem Mem.byte_put_ne (m : Mem) (k i : Nat) (b : Byte) (h : i ≠ k) : (m.put k b).byte i = m.byte i :=
  Tbl.get_set_ne _ _ _ _ _ h

@[simp] theorem Mem.put_wf (m : Mem) (k : Nat) (b : Byte) (w : Memory.wf m = true) : Memory.wf (m.put k b) = true :=
  Tbl.set_wf _ _ _ _ w

/-- A write keeps the canonical form of memory. -/
@[simp] theorem Mem.write_wf (m : Mem) (k n v : Nat) (w : Memory.wf m = true) : Memory.wf (m.write k n v) = true := by
  induction n generalizing m k v with
  | zero => exact w
  | succ n ih => exact ih _ _ _ (Mem.put_wf m k _ w)

@[simp] theorem Mem.writeBytes_wf (m : Mem) (k : Nat) (l : List Byte) (w : Memory.wf m = true) :
    Memory.wf (m.writeBytes k l) = true := by
  induction l generalizing m k with
  | nil => exact w
  | cons b t ih => exact ih _ _ (Mem.put_wf m k _ w)

@[simp] theorem Mem.filter_wf (m : Mem) (p : Nat × BitVec 8 → Bool) (w : Memory.wf m = true) : Memory.wf (m.filter p) = true :=
  Tbl.filter_wf _ _ _ w

@[simp] theorem Mem.clear_wf (m : Mem) (lo hi : Nat) (w : Memory.wf m = true) : Memory.wf (Tbl.clear m lo hi) = true :=
  Tbl.clear_wf _ _ _ _ w

@[simp] theorem Memory.wf_nil : Memory.wf [] = true := rfl

/-- A write leaves every byte outside it alone. -/
theorem Mem.byte_write (m : Mem) (k n v i : Nat) (h : i < k ∨ k + n ≤ i) : (m.write k n v).byte i = m.byte i := by
  induction n generalizing m k v with
  | zero => rfl
  | succ n ih =>
    rw [Mem.write, ih _ _ _ (by omega), Mem.byte_put_ne _ _ _ _ (by omega)]

theorem Mem.byte_writeBytes (m : Mem) (k : Nat) (l : List Byte) (i : Nat) (h : i < k ∨ k + l.length ≤ i) :
    (m.writeBytes k l).byte i = m.byte i := by
  induction l generalizing m k with
  | nil => rfl
  | cons b t ih =>
    simp only [List.length_cons] at h
    rw [Mem.writeBytes, ih _ _ (by omega), Mem.byte_put_ne _ _ _ _ (by omega)]

/-- The bytes written by a list of bytes read back as the list. -/
theorem Mem.byte_writeBytes_in (m : Mem) (k : Nat) (l : List Byte) (j : Nat) (h : j < l.length) :
    (m.writeBytes k l).byte (k + j) = l.getD j 0#8 := by
  induction l generalizing m k j with
  | nil => simp at h
  | cons b t ih =>
    cases j with
    | zero => simp [Mem.writeBytes, Mem.byte_writeBytes _ (k + 1) t k (Or.inl (by omega))]
    | succ j =>
      have := ih (m.put k b) (k + 1) j (by simpa using h)
      rw [Mem.writeBytes, show k + (j + 1) = k + 1 + j by omega, this]; simp

theorem Mem.read_write (m : Mem) (k n v : Nat) : (m.write k n v).read k n = v % 256 ^ n := by
  induction n generalizing m k v with
  | zero => simp [Mem.read, Nat.mod_one]
  | succ n ih =>
    rw [Mem.read, Mem.write, ih, Mem.byte_write _ _ _ _ _ (Or.inl (by omega)), Mem.byte_put_self]
    have : 256 ^ (n + 1) = 256 * 256 ^ n := by rw [Nat.pow_succ, Nat.mul_comm]
    rw [this, Nat.mod_mul]; simp

end Sys2Proof.Machine
end

