-- ==== Sys2Proof/Laws/Canonical.lean ====
section
/-! SUPPORT. Every way in which a table or memory changes keeps its canonical form. -/

namespace Sys2Proof.Machine

theorem Tbl.mapCanon_wfAbove {α : Type} [DecidableEq α] (d : α) (f : Nat → α → α) (t : Tbl α) (lo : Nat) (w : Tbl.wfAbove d lo t = true) :
    Tbl.wfAbove d lo ((t.map (fun (e : Nat × α) => (e.1, f e.1 e.2))).filter (fun e => !decide (e.2 = d))) = true := by
  induction t generalizing lo with
  | nil => rfl
  | cons e t ih =>
    obtain ⟨j, a⟩ := e
    simp only [Tbl.wfAbove, Bool.and_eq_true, decide_eq_true_eq] at w
    rw [List.map_cons, List.filter_cons]
    split
    · next h =>
      simp only [Tbl.wfAbove, Bool.and_eq_true, decide_eq_true_eq]
      exact ⟨⟨w.1.1, h⟩, ih _ w.2⟩
    · exact Tbl.wfAbove_mono d _ lo (j + 1) (by omega) (ih _ w.2)

/-- Changing every entry of a table and dropping what comes to equal the default keeps the canonical form. -/
@[simp] theorem Tbl.mapCanon_wf {α : Type} [DecidableEq α] (d : α) (f : α → α) (t : Tbl α) (w : Tbl.wf d t = true) :
    Tbl.wf d (Tbl.mapCanon d f t) = true := Tbl.mapCanon_wfAbove d (fun _ => f) t 0 w

theorem consCore_wfAbove (n : Nat) (c : Core) (l : Tbl Core) (w : Tbl.wfAbove Core.reset (n + 1) l = true) :
    Tbl.wfAbove Core.reset n (consCore n c l) = true := by
  unfold consCore
  split
  · exact Tbl.wfAbove_mono _ _ n (n + 1) (by omega) w
  · next h => simp [Tbl.wfAbove, h, w]

/-- Ticking the cores from `n` on keeps the canonical form of what stands from `n` on. -/
theorem tickCores_wfAbove (ceil k n : Nat) (l : Tbl Core) (w : Tbl.wfAbove Core.reset n l = true) :
    Tbl.wfAbove Core.reset n (tickCores ceil k n l) = true := by
  induction k generalizing n l with
  | zero => cases l <;> exact w
  | succ k ih =>
    cases l with
    | nil => exact consCore_wfAbove _ _ _ (ih _ _ rfl)
    | cons e t =>
      obtain ⟨j, c⟩ := e
      simp only [Tbl.wfAbove, Bool.and_eq_true, decide_eq_true_eq] at w
      simp only [tickCores]
      split
      · next h => subst h; exact consCore_wfAbove _ _ _ (ih _ _ w.2)
      · next h =>
        refine consCore_wfAbove _ _ _ (ih _ _ ?_)
        have := w.1.1
        simp only [Tbl.wfAbove, Bool.and_eq_true, decide_eq_true_eq]
        exact ⟨⟨by omega, w.1.2⟩, w.2⟩

@[simp] theorem tickCores_wf (ceil k : Nat) (l : Tbl Core) (w : Tbl.wf Core.reset l = true) :
    Tbl.wf Core.reset (tickCores ceil k 0 l) = true := tickCores_wfAbove ceil k 0 l w

@[simp] theorem Mem.overlay_wf (m : Mem) (k : Nat) (l : List (Option Byte)) (w : Memory.wf m = true) :
    Memory.wf (m.overlay k l) = true := by
  induction l generalizing m k with
  | nil => exact w
  | cons b t ih =>
    cases b with
    | none => exact ih _ _ w
    | some b => exact ih _ _ (Mem.put_wf _ _ _ w)

@[simp] theorem Mem.restore_wf (m : Mem) (dst : Nat) (l : List (Nat × BitVec 8)) (w : Memory.wf m = true) :
    Memory.wf (m.restore dst l) = true := by
  induction l generalizing m with
  | nil => exact w
  | cons e t ih => exact ih _ (Mem.put_wf _ _ _ w)

@[simp] theorem Mem.putWords_wf (m : Mem) (k : Nat) (l : List IWord) (w : Memory.wf m = true) : Memory.wf (m.putWords k l) = true := by
  induction l generalizing m k with
  | nil => exact w
  | cons e t ih => exact ih _ _ (Mem.write_wf _ _ _ _ w)

@[simp] theorem Mem.kept_wf (m : Mem) (w : Memory.wf m = true) : Memory.wf m.kept = true := Mem.filter_wf m _ w

/-! The tables of the state. -/

@[simp] theorem State.setCore_wf (s : State) (n : Nat) (c : Core) (w : Tbl.wf Core.reset s.cores = true) :
    Tbl.wf Core.reset (s.setCore n c).cores = true := Tbl.set_wf _ _ _ _ w

@[simp] theorem State.updCore_wf (s : State) (n : Nat) (f : Core → Core) (w : Tbl.wf Core.reset s.cores = true) :
    Tbl.wf Core.reset (s.updCore n f).cores = true := Tbl.set_wf _ _ _ _ w

@[simp] theorem State.setCluster_wf (s : State) (c : Nat) (k : Cluster) (w : Tbl.wf Cluster.gated s.clusters = true) :
    Tbl.wf Cluster.gated (s.setCluster c k).clusters = true := Tbl.set_wf _ _ _ _ w

@[simp] theorem State.updCluster_wf (s : State) (c : Nat) (f : Cluster → Cluster) (w : Tbl.wf Cluster.gated s.clusters = true) :
    Tbl.wf Cluster.gated (s.updCluster c f).clusters = true := Tbl.set_wf _ _ _ _ w

/-- Granting a lease keeps the canonical form of cores and clusters, and touches no memory. -/
theorem State.grantLease_wf (s : State) (c : Nat) (wc : Tbl.wf Core.reset s.cores = true) (wk : Tbl.wf Cluster.gated s.clusters = true) :
    Tbl.wf Core.reset (s.grantLease c).cores = true ∧ Tbl.wf Cluster.gated (s.grantLease c).clusters = true ∧ (s.grantLease c).mem = s.mem := by
  unfold State.grantLease
  split
  · exact ⟨wc, wk, rfl⟩
  · dsimp only
    split
    · exact ⟨wc, wk, rfl⟩
    · exact ⟨State.updCore_wf _ _ _ (State.updCore_wf _ _ _ wc), Tbl.set_wf _ _ _ _ wk, rfl⟩

/-- Granting every lease does too. -/
theorem State.grantLeases_wf (s : State) (wc : Tbl.wf Core.reset s.cores = true) (wk : Tbl.wf Cluster.gated s.clusters = true) :
    Tbl.wf Core.reset s.grantLeases.cores = true ∧ Tbl.wf Cluster.gated s.grantLeases.clusters = true ∧ s.grantLeases.mem = s.mem := by
  have h : ∀ (l : List Nat) (u : State), Tbl.wf Core.reset u.cores = true → Tbl.wf Cluster.gated u.clusters = true →
      Tbl.wf Core.reset (l.foldl State.grantLease u).cores = true ∧ Tbl.wf Cluster.gated (l.foldl State.grantLease u).clusters = true ∧
        (l.foldl State.grantLease u).mem = u.mem := by
    intro l
    induction l with
    | nil => exact fun u wc wk => ⟨wc, wk, rfl⟩
    | cons c l ih =>
      intro u wc wk
      obtain ⟨a, b, m⟩ := State.grantLease_wf u c wc wk
      obtain ⟨a', b', m'⟩ := ih _ a b
      exact ⟨a', b', m'.trans m⟩
  exact h _ s wc wk

/-- Cycles that pass keep the canonical form of cores and clusters, and touch no memory. -/
theorem State.pass_wf (s : State) (k : Nat) (wc : Tbl.wf Core.reset s.cores = true) (wk : Tbl.wf Cluster.gated s.clusters = true) :
    Tbl.wf Core.reset (s.pass k).cores = true ∧ Tbl.wf Cluster.gated (s.pass k).clusters = true ∧ (s.pass k).mem = s.mem := by
  have h : (s.quietPass k).clusters = s.clusters ∧ (s.quietPass k).cores = s.cores ∧ (s.quietPass k).mem = s.mem := by
    unfold State.quietPass; dsimp only; repeat' split
    all_goals exact ⟨rfl, rfl, rfl⟩
  have w := Tbl.mapCanon_wfAbove Cluster.gated (fun c => s.clusterPass k c) (s.quietPass k).clusters 0 (by rw [h.1]; exact wk)
  unfold State.pass
  dsimp only
  split
  · exact ⟨by simpa [h.2.1] using wc, w, h.2.2⟩
  · obtain ⟨a, b, m⟩ := State.grantLeases_wf { s.quietPass k with clusters := _ } (by simpa [h.2.1] using wc) w
    exact ⟨a, b, m.trans h.2.2⟩

/-- The memory, cores and clusters of the reset state are canonical. -/
theorem State.reset_mem_wf : Memory.wf State.reset.mem = true := rfl
theorem State.reset_cores_wf : Tbl.wf Core.reset State.reset.cores = true := rfl

end Sys2Proof.Machine
end

