-- ==== Sys2Proof/Laws/Finish.lean ====
section
/-! SUPPORT. How a meaning ends: always in a next state; and the two ways in which a core takes a trap. -/

namespace Sys2Proof.Machine

/-- An instruction of a core always ends in a next state. -/
theorem finish_next (n : Nat) (r : Except Stop State) : ∃ t, finish n r = .next t := by
  unfold finish
  split <;> exact ⟨_, rfl⟩

theorem finish_ok (n : Nat) (s : State) : finish n (.ok s) = .next s := rfl

theorem finish_trap (n : Nat) (s : State) (cause : Nat) (tval : Word) (kacc : Nat) :
    finish n (.error (.trap s cause tval kacc)) = .next (s.takeTrapK n cause tval kacc) := rfl

theorem finish_hold (n : Nat) (s : State) (w : Wait) : finish n (.error (.hold s w)) = .next (s.updCore n (fun c => { c with wait := w })) := rfl

/-- On a core, `runCore` ends the core's instruction. -/
theorem runCore_core (s : State) (n : Nat) (f : Nat → Except Stop State) (h : s.run.cur = .core n) : runCore s f = finish n (f n) := by
  simp [runCore, h]

theorem runCore_next (s : State) (f : Nat → Except Stop State) : ∃ t, runCore s f = .next t := by
  unfold runCore
  split
  · exact finish_next _ _
  · exact ⟨_, rfl⟩

/-- On a core, `runAny` ends the core's instruction. -/
theorem runAny_core (s : State) (n : Nat) (r : Except Stop State) (h : s.run.cur = .core n) : runAny s r = finish n r := by
  simp [runAny, h]

theorem runAny_next (s : State) (r : Except Stop State) : ∃ t, runAny s r = .next t := by
  unfold runAny
  split
  · exact finish_next _ _
  · split <;> exact ⟨_, rfl⟩

theorem runLane_next (s : State) (f : Nat → Nat → Pass → Lane → Except Stop State) : ∃ t, runLane s f = .next t := by
  unfold runLane
  split
  · exact finish_next _ _
  · split
    · exact runAny_next _ _
    · exact ⟨_, rfl⟩

/-- A body operation of a core is illegal (R346). -/
theorem runLane_core (s : State) (n : Nat) (f : Nat → Nat → Pass → Lane → Except Stop State) (h : s.run.cur = .core n) :
    runLane s f = finish n (illegal s) := by
  simp [runLane, h]

/-- A trap that the core takes on itself changes that core alone, by entering its handler (R269). -/
theorem takeTrapK_self (s : State) (n cause : Nat) (tval : Word) (kacc : Nat) (h : s.trapsSelf n cause = true) :
    s.takeTrapK n cause tval kacc = s.updCore n (fun c => c.enterTrap false cause c.pc tval) := by
  simp [State.takeTrapK, h]

/-- A trap for the buddy freezes the core and changes nothing else (R270). -/
theorem takeTrapK_buddy (s : State) (n cause : Nat) (tval : Word) (kacc : Nat) (h : s.trapsSelf n cause = false)
    (b : routeOf (s.pair n) cause = 1) :
    s.takeTrapK n cause tval kacc = s.updCore n (fun c => c.freeze cause c.pc tval true s.time.gtc) := by
  simp [State.takeTrapK, h, b]

/-- A word of memory, and of nothing else, changes with a journal entry or a fault record; the queue's count rises while it has room (R205). -/
theorem putFault_room (s : State) (ten : Nat) (r : FaultRec) (cmd : BitVec 512) (h : (s.fq ten).next - (s.fq ten).head < 1024) :
    s.putFault ten r cmd = (((s.putRecord ten (s.fq ten).next (r.raw (s.fq ten).next s.time.gtc) cmd).setFq ten
      { s.fq ten with next := (s.fq ten).next + 1 }), some ((s.fq ten).next % 1024)) := by
  simp only [State.putFault, if_pos h]

end Sys2Proof.Machine
end

