-- ==== Sys2Proof/Laws/Retire.lean ====
section
/-! SUPPORT. What retiring does, once for every instruction: the core takes its next address, followers are told, and nothing else changes. -/

namespace Sys2Proof.Machine

@[simp] theorem State.coreAt_setCore_self (s : State) (n : Nat) (c : Core) : (s.setCore n c).coreAt n = c := by
  simp [State.coreAt, State.setCore]
theorem State.coreAt_setCore (s : State) (n k : Nat) (c : Core) : (s.setCore n c).coreAt k = if k = n then c else s.coreAt k := by
  simp [State.coreAt, State.setCore, Tbl.get_set]
theorem State.coreAt_updCore (s : State) (n k : Nat) (f : Core → Core) : (s.updCore n f).coreAt k = if k = n then f (s.coreAt n) else s.coreAt k := by
  simp [State.updCore, State.coreAt_setCore]
theorem outside_updCore (s : State) (n : Nat) (f : Core → Core) : OutsideKept s (s.updCore n f) := by
  simp [OutsideKept, State.updCore, State.setCore, SameMem]
theorem OutsideKept.trans {s t u : State} (h : OutsideKept s t) (k : OutsideKept t u) : OutsideKept s u := by
  obtain ⟨h1,h2,h3,h4,h5,h6,h7,h8⟩ := h
  obtain ⟨k1,k2,k3,k4,k5,k6,k7,k8⟩ := k
  exact ⟨k1.trans h1,k2.trans h2,fun a => (k3 a).trans (h3 a),k4.trans h4,k5.trans h5,k6.trans h6,k7.trans h7,k8.trans h8⟩
theorem OutsideKept.refl {s : State}: OutsideKept s s := by simp [OutsideKept, SameMem]

/-- folding updCore with f that preserves a projection -/
theorem foldl_upd {α : Type} (l : List α) (key : α → Nat) (f : State → α → Core → Core) (s : State) (P : Core → Core)
   (hf : ∀ s a c, P (f s a c) = P c) :
   (∀ k, P ((l.foldl (fun s a => s.updCore (key a) (f s a)) s).coreAt k) = P (s.coreAt k)) ∧ OutsideKept s (l.foldl (fun s a => s.updCore (key a) (f s a)) s) := by
  induction l generalizing s with
  | nil => exact ⟨fun _ => rfl, OutsideKept.refl⟩
  | cons a l ih =>
    refine ⟨fun k => ?_, ?_⟩
    · rw [List.foldl_cons, (ih _).1 k, State.coreAt_updCore]; split
      · next h => subst h; exact hf _ _ _
      · rfl
    · exact (outside_updCore _ _ _).trans (ih _).2

/-- what forward leaves -/
theorem forward_spec (s : State) (n : Nat) (f : Fwd) : (∀ k, ((s.forward n f).coreAt k).unfed = (s.coreAt k).unfed) ∧ OutsideKept s (s.forward n f) := by
  unfold State.forward
  have h1 := foldl_upd (s.followers n) id (fun _ _ c => { c with fwd := c.fwd ++ [f] }) s Core.unfed (by intros; rfl)
  have h2 := fun s' l => foldl_upd l id (fun s _ c => c.watchLeader n (s.coreAt n).barDone (s.mapped n f.word) f) s' Core.unfed
    (by intro s a c; simp only [Core.watchLeader]; repeat' split
        all_goals rfl)
  exact ⟨fun k => ((h2 _ _).1 k).trans (h1.1 k), h1.2.trans (h2 _ _).2⟩

theorem unfed_of {a b : Core} (h : a.unfed = b.unfed) : a.plain = b.plain ∧ a.pc = b.pc ∧ a.wait = b.wait ∧ a.vpend = b.vpend ∧ a.frz = b.frz ∧ a.frzReq = b.frzReq
    ∧ a.stepping = b.stepping := by
  obtain ⟨⟩ := a; obtain ⟨⟩ := b; simp [Core.unfed] at h; simp [Core.plain]; simp_all

theorem boundary_spec (s : State) (n : Nat) : (∀ k, k ≠ n → (s.boundary n).coreAt k = s.coreAt k) ∧ OutsideKept s (s.boundary n) ∧
   ((s.boundary n).coreAt n).plain = (s.coreAt n).plain ∧ ((s.boundary n).coreAt n).pc = (s.coreAt n).pc ∧ ((s.coreAt n).wait = .none → ((s.boundary n).coreAt n).wait = .none) ∧
   ((s.coreAt n).frzReq = false → s.boundary n = s) := by
  unfold State.boundary
  dsimp only
  split
  · refine ⟨fun k hk => by simp [State.coreAt_updCore, hk], outside_updCore _ _ _, ?_, ?_, ?_, ?_⟩ <;> simp_all [State.coreAt_updCore, Core.freeze, Core.plain]
  · simp_all [OutsideKept.refl]

/-- A retirement moves the core to its next address and changes nothing else, but for what its followers are told. -/
theorem retireBranch_spec (s : State) (n : Nat) (pc : Word) (taken : Bool) : Retires n s (s.retireBranch n pc taken) (s.coreAt n) pc := by
  have hr : ∀ u : State, (∀ k, (u.coreAt k).unfed = ((s.updCore n (fun c => c.retired pc taken s.time.gtc)).coreAt k).unfed) → OutsideKept s u → Retires n s (u.boundary n) (s.coreAt n) pc := by
    intro u hu ho
    have b := boundary_spec u n
    have e := unfed_of (hu n)
    simp only [State.coreAt_updCore, if_true] at e
    refine ⟨⟨?_, ?_, ?_, ?_⟩, ?_, ho.trans b.2.1⟩
    · rw [b.2.2.1, e.1]; simp [Core.retired, Core.followed, Core.plain]; repeat' split
      all_goals simp
    · rw [b.2.2.2.1, e.2.1]; rfl
    · exact b.2.2.2.2.1 (e.2.2.1.trans rfl)
    · intro h1 h2
      have h3 : (u.coreAt n).frzReq = false := by rw [e.2.2.2.2.2.1]; simp [Core.retired, h1, h2]
      rw [b.2.2.2.2.2 h3, e.2.2.2.1, e.2.2.2.2.1]
      simp [Core.retired, Core.followed]; repeat' split
      all_goals simp
    · intro k hk
      rw [b.1 k hk, hu k]; simp [State.coreAt_updCore, hk]
  unfold State.retireBranch
  dsimp only
  split
  · have f := forward_spec (s.updCore n (fun c => c.retired pc taken s.time.gtc)) n ⟨(s.coreAt n).iw, (s.coreAt n).pc, pc, taken, false⟩
    exact hr _ f.1 ((outside_updCore _ _ _).trans f.2)
  · exact hr _ (fun _ => rfl) (outside_updCore _ _ _)

theorem retireTo_spec (s : State) (n : Nat) (pc : Word) : Retires n s (s.retireTo n pc) (s.coreAt n) pc := retireBranch_spec s n pc false

theorem core_op (s : State) (n : Nat) (h : s.run.cur = .core n) (rd : BitVec 5) (w : Word) :
   Retires n s (s.setRd rd w) ((s.coreAt n).wx rd w) (s.coreAt n).next := by
  have h1 : (s.wx rd w) = s.updCore n (fun c => c.wx rd w) := by simp [State.wx, h]
  have h2 : (s.updCore n (fun c => c.wx rd w)).run.cur = .core n := by simpa [State.updCore, State.setCore] using h
  have h3 : s.setRd rd w = (s.updCore n (fun c => c.wx rd w)).retireTo n (((s.updCore n (fun c => c.wx rd w)).coreAt n).pc + 4#64) := by
    unfold State.setRd; rw [h1]; unfold State.complete; rw [h2]
  have r := retireTo_spec (s.updCore n (fun c => c.wx rd w)) n (((s.updCore n (fun c => c.wx rd w)).coreAt n).pc + 4#64)
  rw [← h3] at r
  have hp : ((s.coreAt n).wx rd w).pc = (s.coreAt n).pc := by unfold Core.wx; split <;> rfl
  have hf : ((s.coreAt n).wx rd w).frzReq = (s.coreAt n).frzReq := by unfold Core.wx; split <;> rfl
  have hg : ((s.coreAt n).wx rd w).stepping = (s.coreAt n).stepping := by unfold Core.wx; split <;> rfl
  simp only [Retires, CoreBecomes, State.coreAt_updCore, if_true, hf, hg, hp] at r
  refine ⟨⟨r.1.1, r.1.2.1, r.1.2.2.1, r.1.2.2.2⟩, fun k hk => ?_, (outside_updCore _ _ _).trans r.2.2⟩
  rw [r.2.1 k hk]; simp [State.coreAt_updCore, hk]

theorem core_op' (s : State) (n : Nat) (h : s.run.cur = .core n) (rd : BitVec 5) (w w' : Word) (e : w = w'):
   ∃ t, Host.Outcome.next (φ := Fault) (ρ := Refusal) (s.setRd rd w) = .next t ∧ Retires n s t ((s.coreAt n).wx rd w') (s.coreAt n).next := ⟨_, rfl, e ▸ core_op s n h rd w⟩

theorem rx_core (s : State) (n : Nat) (h : s.run.cur = .core n) (r : BitVec 5) : s.rx r = (s.coreAt n).rx r := by simp [State.rx, h]

end Sys2Proof.Machine
end

