-- ==== Sys2Proof/Tests/Slice0.lean ====
section
/-! SUPPORT. Tests: ill-formed terms that each check of WellFormed refuses, words of every instruction written out from the encoding tables of the spec, and for every statement states and operands that meet its hypotheses together. -/

namespace Sys2Proof.Tests

open Sys2Proof Machine

set_option Elab.async false

/-! Well-formedness: one ill-formed term for each check. -/

theorem test_wf_mask_destination : (Instr.vcmpeqI32 8#5 0#5 0#5 0#3).wf = false ∧ (Instr.vfclassF32 9#5 0#5 0#5 0#3).wf = false := by decide
theorem test_wf_mask_logic : (Instr.mand 0#5 8#5 0#5 0#3).wf = false ∧ (Instr.mxor 0#5 0#5 31#5 0#3).wf = false := by decide
theorem test_wf_lane_number : (Instr.vrot 0#5 0#5 16#5 0#3).wf = false ∧ (Instr.vext 0#5 0#5 16#5).wf = false := by decide
theorem test_wf_part : (Instr.vcvtBf16F32 0#5 0#5 2#2 0#3 0#3).wf = false ∧ (Instr.vcvtI32F32 0#5 0#5 1#2 0#3 0#3).wf = false := by decide
theorem test_wf_repeat_length : (Instr.vrep 0#5 15#5 0#2 0#3 0#3).wf = false := by decide
theorem test_wf_mask_moves : (Instr.mtox 0#5 8#5).wf = false ∧ (Instr.xtom 8#5 0#5).wf = false ∧ (Instr.mpopc 0#5 8#5).wf = false := by decide
theorem test_wf_window : (Instr.wcfg 0#5 16#5).wf = false ∧ (Instr.wrd 0#5 16#5).wf = false := by decide
theorem test_wf_matrix_formats : (Instr.mma 0#5 1#5 0#1 6#3 0#3 0#5).wf = false ∧ (Instr.maccSt 0#5 0#5 0#1 7#3 0#3).wf = false := by decide
theorem test_wf_matrix_rings : (Instr.mma 16#5 1#5 0#1 0#3 0#3 0#5).wf = false ∧ (Instr.mma 0#5 16#5 0#1 0#3 0#3 0#5).wf = false := by decide
theorem test_wf_rings : (Instr.rcfg 16#5 0#5 0#5).wf = false ∧ (Instr.rrel 16#5).wf = false ∧ (Instr.rstat 0#5 16#5).wf = false ∧
    (Instr.rpeek 0#5 16#5 0#5).wf = false ∧ (Instr.rpop 16#5).wf = false := by decide
theorem test_wf_scopes : (Instr.fenceR 6#3).wf = false ∧ (Instr.fenceA 7#3).wf = false ∧ (Instr.fenceS 6#3).wf = false := by decide
theorem test_wf_message_numbers : (Instr.rbcfg 0#5 16#5).wf = false ∧ (Instr.msgWait 0#5 0#5 16#5).wf = false := by decide
theorem test_wf_engine : (Instr.epush 0#5 1#5).wf = false ∧ (Instr.epush 0#5 8#5).wf = false := by decide
theorem test_wf_body_fields : (Instr.cld 0#5 6#5).wf = false ∧ (Instr.nld 0#5 3#5).wf = false ∧ (Instr.cst 0#5 3#5).wf = false := by decide

/-! Decoding: the word of every instruction, written from the match value and the field places that the spec's encoding tables give it. -/

noncomputable def decodesTo (l : List (IWord × Instr)) : Bool := l.all (fun p => decide (decode p.1 = .ok p.2))

theorem test_decode_upper_immediates_and_jumps : decodesTo
    [(0xABCDE2B7#32, .lui 5#5 703710#20),
     (0xABCDE297#32, .auipc 5#5 703710#20),
     (0xABCDE2EF#32, .jal 5#5 703710#20),
     (0xCDE302E7#32, .jalr 5#5 6#5 3294#12)] = true := by decide

theorem test_decode_branches : decodesTo
    [(0xAA7309E3#32, .beq 6#5 7#5 85#7 19#5),
     (0xAA7319E3#32, .bne 6#5 7#5 85#7 19#5),
     (0xAA7349E3#32, .blt 6#5 7#5 85#7 19#5),
     (0xAA7359E3#32, .bge 6#5 7#5 85#7 19#5),
     (0xAA7369E3#32, .bltu 6#5 7#5 85#7 19#5),
     (0xAA7379E3#32, .bgeu 6#5 7#5 85#7 19#5)] = true := by decide

theorem test_decode_loads : decodesTo
    [(0xCDE30283#32, .lb 5#5 6#5 3294#12),
     (0xCDE31283#32, .lh 5#5 6#5 3294#12),
     (0xCDE32283#32, .lw 5#5 6#5 3294#12),
     (0xCDE33283#32, .ld 5#5 6#5 3294#12),
     (0xCDE34283#32, .lbu 5#5 6#5 3294#12),
     (0xCDE35283#32, .lhu 5#5 6#5 3294#12),
     (0xCDE36283#32, .lwu 5#5 6#5 3294#12)] = true := by decide

theorem test_decode_stores : decodesTo
    [(0xAA7309A3#32, .sb 6#5 7#5 85#7 19#5),
     (0xAA7319A3#32, .sh 6#5 7#5 85#7 19#5),
     (0xAA7329A3#32, .sw 6#5 7#5 85#7 19#5),
     (0xAA7339A3#32, .sd 6#5 7#5 85#7 19#5)] = true := by decide

theorem test_decode_register_immediate : decodesTo
    [(0xCDE30293#32, .addi 5#5 6#5 3294#12),
     (0xCDE32293#32, .slti 5#5 6#5 3294#12),
     (0xCDE33293#32, .sltiu 5#5 6#5 3294#12),
     (0xCDE34293#32, .xori 5#5 6#5 3294#12),
     (0xCDE36293#32, .ori 5#5 6#5 3294#12),
     (0xCDE37293#32, .andi 5#5 6#5 3294#12),
     (0x01331293#32, .slli 5#5 6#5 19#6),
     (0x01335293#32, .srli 5#5 6#5 19#6),
     (0x41335293#32, .srai 5#5 6#5 19#6),
     (0xCDE3029B#32, .addiw 5#5 6#5 3294#12),
     (0x0133129B#32, .slliw 5#5 6#5 19#5),
     (0x0133529B#32, .srliw 5#5 6#5 19#5),
     (0x4133529B#32, .sraiw 5#5 6#5 19#5)] = true := by decide

theorem test_decode_OP : decodesTo
    [(0x007302B3#32, .add 5#5 6#5 7#5),
     (0x407302B3#32, .sub 5#5 6#5 7#5),
     (0x007312B3#32, .sll 5#5 6#5 7#5),
     (0x007322B3#32, .slt 5#5 6#5 7#5),
     (0x007332B3#32, .sltu 5#5 6#5 7#5),
     (0x007342B3#32, .xor 5#5 6#5 7#5),
     (0x007352B3#32, .srl 5#5 6#5 7#5),
     (0x407352B3#32, .sra 5#5 6#5 7#5),
     (0x007362B3#32, .or 5#5 6#5 7#5),
     (0x007372B3#32, .and 5#5 6#5 7#5),
     (0x027302B3#32, .mul 5#5 6#5 7#5),
     (0x027312B3#32, .mulh 5#5 6#5 7#5),
     (0x027322B3#32, .mulhsu 5#5 6#5 7#5),
     (0x027332B3#32, .mulhu 5#5 6#5 7#5),
     (0x027342B3#32, .div 5#5 6#5 7#5),
     (0x027352B3#32, .divu 5#5 6#5 7#5),
     (0x027362B3#32, .rem 5#5 6#5 7#5),
     (0x027372B3#32, .remu 5#5 6#5 7#5)] = true := by decide

theorem test_decode_OP_32 : decodesTo
    [(0x007302BB#32, .addw 5#5 6#5 7#5),
     (0x407302BB#32, .subw 5#5 6#5 7#5),
     (0x007312BB#32, .sllw 5#5 6#5 7#5),
     (0x007352BB#32, .srlw 5#5 6#5 7#5),
     (0x407352BB#32, .sraw 5#5 6#5 7#5),
     (0x027302BB#32, .mulw 5#5 6#5 7#5),
     (0x027342BB#32, .divw 5#5 6#5 7#5),
     (0x027352BB#32, .divuw 5#5 6#5 7#5),
     (0x027362BB#32, .remw 5#5 6#5 7#5),
     (0x027372BB#32, .remuw 5#5 6#5 7#5)] = true := by decide

theorem test_decode_SYSTEM_and_MISC_MEM : decodesTo
    [(0x93C3028F#32, .fence 5#5 6#5 9#4 3#4 12#4),
     (0x300312F3#32, .csrrw 5#5 6#5 768#12),
     (0x300322F3#32, .csrrs 5#5 6#5 768#12),
     (0x300332F3#32, .csrrc 5#5 6#5 768#12),
     (0x300AD2F3#32, .csrrwi 5#5 768#12 21#5),
     (0x300AE2F3#32, .csrrsi 5#5 768#12 21#5),
     (0x300AF2F3#32, .csrrci 5#5 768#12 21#5),
     (0x00000073#32, .ecall),
     (0x00100073#32, .ebreak),
     (0x10200073#32, .sret),
     (0x10500073#32, .wfi)] = true := by decide

theorem test_decode_custom_0_funct3_0 : decodesTo
    [(0x4073028B#32, .vaddI32 5#5 6#5 7#5 2#3),
     (0x4273028B#32, .vsubI32 5#5 6#5 7#5 2#3),
     (0x4473028B#32, .vmulI32 5#5 6#5 7#5 2#3),
     (0x4673028B#32, .vmulhI32 5#5 6#5 7#5 2#3),
     (0x4873028B#32, .vminI32 5#5 6#5 7#5 2#3),
     (0x4A73028B#32, .vmaxI32 5#5 6#5 7#5 2#3),
     (0x4C73028B#32, .vminuI32 5#5 6#5 7#5 2#3),
     (0x4E73028B#32, .vmaxuI32 5#5 6#5 7#5 2#3),
     (0x5073028B#32, .vand 5#5 6#5 7#5 2#3),
     (0x5273028B#32, .vor 5#5 6#5 7#5 2#3),
     (0x5473028B#32, .vxor 5#5 6#5 7#5 2#3),
     (0x5673028B#32, .vsllI32 5#5 6#5 7#5 2#3),
     (0x5873028B#32, .vsrlI32 5#5 6#5 7#5 2#3),
     (0x5A73028B#32, .vsraI32 5#5 6#5 7#5 2#3),
     (0x5C73028B#32, .vaddsI32 5#5 6#5 7#5 2#3),
     (0x5E73028B#32, .vmacI32 5#5 6#5 7#5 2#3)] = true := by decide

theorem test_decode_custom_0_funct3_1 : decodesTo
    [(0x4073128B#32, .vaddI16 5#5 6#5 7#5 2#3),
     (0x4273128B#32, .vsubI16 5#5 6#5 7#5 2#3),
     (0x4473128B#32, .vaddsI16 5#5 6#5 7#5 2#3),
     (0x4673128B#32, .vsubsI16 5#5 6#5 7#5 2#3),
     (0x4873128B#32, .vaddusI16 5#5 6#5 7#5 2#3),
     (0x4A73128B#32, .vminI16 5#5 6#5 7#5 2#3),
     (0x4C73128B#32, .vmaxI16 5#5 6#5 7#5 2#3),
     (0x4E73128B#32, .vmulI16 5#5 6#5 7#5 2#3),
     (0x5073128B#32, .vaddI8 5#5 6#5 7#5 2#3),
     (0x5273128B#32, .vsubI8 5#5 6#5 7#5 2#3),
     (0x5473128B#32, .vaddsI8 5#5 6#5 7#5 2#3),
     (0x5673128B#32, .vsubsI8 5#5 6#5 7#5 2#3),
     (0x5873128B#32, .vaddusI8 5#5 6#5 7#5 2#3),
     (0x5A73128B#32, .vminI8 5#5 6#5 7#5 2#3),
     (0x5C73128B#32, .vmaxI8 5#5 6#5 7#5 2#3),
     (0x5E73128B#32, .vmulI8 5#5 6#5 7#5 2#3)] = true := by decide

theorem test_decode_custom_0_funct3_2 : decodesTo
    [(0x4073228B#32, .vfaddF32 5#5 6#5 7#5 2#3),
     (0x4273228B#32, .vfsubF32 5#5 6#5 7#5 2#3),
     (0x4473228B#32, .vfmulF32 5#5 6#5 7#5 2#3),
     (0x4673228B#32, .vfminF32 5#5 6#5 7#5 2#3),
     (0x4873228B#32, .vfmaxF32 5#5 6#5 7#5 2#3),
     (0x4C73228B#32, .vfmaF32 5#5 6#5 7#5 2#3),
     (0x4E73228B#32, .vfmsF32 5#5 6#5 7#5 2#3),
     (0x5003228B#32, .vfabsF32 5#5 6#5 2#3),
     (0x5203228B#32, .vfnegF32 5#5 6#5 2#3)] = true := by decide

theorem test_decode_custom_0_funct3_3 : decodesTo
    [(0x4073328B#32, .vfaddBf16 5#5 6#5 7#5 2#3),
     (0x4273328B#32, .vfsubBf16 5#5 6#5 7#5 2#3),
     (0x4473328B#32, .vfmulBf16 5#5 6#5 7#5 2#3),
     (0x4673328B#32, .vfminBf16 5#5 6#5 7#5 2#3),
     (0x4873328B#32, .vfmaxBf16 5#5 6#5 7#5 2#3),
     (0x4A73328B#32, .vfmaBf16 5#5 6#5 7#5 2#3),
     (0x4C73328B#32, .vdotBf16 5#5 6#5 7#5 2#3),
     (0x5073328B#32, .vfaddF16 5#5 6#5 7#5 2#3),
     (0x5273328B#32, .vfsubF16 5#5 6#5 7#5 2#3),
     (0x5473328B#32, .vfmulF16 5#5 6#5 7#5 2#3),
     (0x5673328B#32, .vfminF16 5#5 6#5 7#5 2#3),
     (0x5873328B#32, .vfmaxF16 5#5 6#5 7#5 2#3),
     (0x5A73328B#32, .vfmaF16 5#5 6#5 7#5 2#3),
     (0x5C73328B#32, .vdotF16 5#5 6#5 7#5 2#3)] = true := by decide

theorem test_decode_custom_0_funct3_4 : decodesTo
    [(0x4073428B#32, .vcmpeqI32 5#5 6#5 7#5 2#3),
     (0x4273428B#32, .vcmpltI32 5#5 6#5 7#5 2#3),
     (0x4473428B#32, .vcmpltuI32 5#5 6#5 7#5 2#3),
     (0x4673428B#32, .vfcmpeqF32 5#5 6#5 7#5 2#3),
     (0x4873428B#32, .vfcmpltF32 5#5 6#5 7#5 2#3),
     (0x4A73428B#32, .vfcmpleF32 5#5 6#5 7#5 2#3),
     (0x4D33428B#32, .vfclassF32 5#5 6#5 19#5 2#3),
     (0x5073428B#32, .mand 5#5 6#5 7#5 2#3),
     (0x5273428B#32, .mor 5#5 6#5 7#5 2#3),
     (0x5473428B#32, .mxor 5#5 6#5 7#5 2#3),
     (0x5673428B#32, .mandn 5#5 6#5 7#5 2#3)] = true := by decide

theorem test_decode_custom_0_funct3_5 : decodesTo
    [(0x4073528B#32, .vperm 5#5 6#5 7#5 2#3),
     (0x4293528B#32, .vrot 5#5 6#5 9#5 2#3),
     (0x4473528B#32, .vmerge 5#5 6#5 7#5 2#3),
     (0x4693528B#32, .vbcast 5#5 6#5 9#5 2#3),
     (0x4803528B#32, .vredsumI32 5#5 6#5 2#3),
     (0x4A03528B#32, .vredmaxI32 5#5 6#5 2#3),
     (0x4C03528B#32, .vredminI32 5#5 6#5 2#3),
     (0x4E03528B#32, .vredsumF32 5#5 6#5 2#3),
     (0x5003528B#32, .vredmaxF32 5#5 6#5 2#3),
     (0x5203528B#32, .vredminF32 5#5 6#5 2#3),
     (0x5403528B#32, .vscanI32 5#5 6#5 2#3),
     (0x5603528B#32, .vscanF32 5#5 6#5 2#3)] = true := by decide

theorem test_decode_custom_0_funct3_6 : decodesTo
    [(0x40B3628B#32, .vcvtBf16F32 5#5 6#5 1#2 3#3 2#3),
     (0x42B3628B#32, .vcvtF16F32 5#5 6#5 1#2 3#3 2#3),
     (0x44B3628B#32, .vcvtE4m3F32 5#5 6#5 1#2 3#3 2#3),
     (0x46B3628B#32, .vcvtE5m2F32 5#5 6#5 1#2 3#3 2#3),
     (0x48B3628B#32, .vcvtI8F32 5#5 6#5 1#2 3#3 2#3),
     (0x4A33628B#32, .vcvtI32F32 5#5 6#5 0#2 3#3 2#3),
     (0x4CB3628B#32, .vcvtI8I32 5#5 6#5 1#2 3#3 2#3),
     (0x4E33628B#32, .vcvtF32I32 5#5 6#5 0#2 3#3 2#3),
     (0x50B3628B#32, .vcvtF32Bf16 5#5 6#5 1#2 3#3 2#3),
     (0x52B3628B#32, .vcvtF32F16 5#5 6#5 1#2 3#3 2#3),
     (0x54B3628B#32, .vcvtF32E4m3 5#5 6#5 1#2 3#3 2#3),
     (0x56B3628B#32, .vcvtF32E5m2 5#5 6#5 1#2 3#3 2#3),
     (0x58B3628B#32, .vcvtI32I8 5#5 6#5 1#2 3#3 2#3)] = true := by decide

theorem test_decode_custom_0_funct3_7 : decodesTo
    [(0x40437A8B#32, .vrep 6#5 4#5 2#2 5#3 2#3),
     (0x4200728B#32, .vzero 5#5 2#3),
     (0x4400728B#32, .vid 5#5 2#3)] = true := by decide

theorem test_decode_custom_1 : decodesTo
    [(0x0DE302AB#32, .vld 5#5 6#5 222#8),
     (0x1DE302AB#32, .vldBc 5#5 6#5 222#8),
     (0x0DE312AB#32, .vst 5#5 6#5 222#8),
     (0x847322AB#32, .vgather 5#5 6#5 7#5 2#2),
     (0x847332AB#32, .vscatter 5#5 6#5 7#5 2#2),
     (0x0DE342AB#32, .vlsl 5#5 6#5 222#8),
     (0x1DE342AB#32, .vsls 5#5 6#5 222#8),
     (0x807342AB#32, .vlslx 5#5 6#5 7#5),
     (0x907342AB#32, .vslsx 5#5 6#5 7#5),
     (0x0DE352AB#32, .vldMh 5#5 6#5 222#8),
     (0x1DE3502B#32, .prefL1 6#5 222#8),
     (0x2DE3502B#32, .prefLlc 6#5 222#8),
     (0x3DE3502B#32, .rsdKeep 6#5 222#8),
     (0x4DE3502B#32, .rsdDrop 6#5 222#8),
     (0x80B362AB#32, .vext 5#5 6#5 11#5),
     (0x90B362AB#32, .vins 5#5 6#5 11#5),
     (0xA00362AB#32, .vsplat 5#5 6#5),
     (0xB00362AB#32, .mtox 5#5 6#5),
     (0xC00362AB#32, .xtom 5#5 6#5),
     (0xD00362AB#32, .mpopc 5#5 6#5),
     (0x800376AB#32, .wcfg 6#5 13#5),
     (0x9006F2AB#32, .wrd 5#5 13#5)] = true := by decide

theorem test_decode_custom_2 : decodesTo
    [(0x000002DB#32, .mlease 5#5),
     (0x100002DB#32, .mleaseTry 5#5),
     (0x2000005B#32, .mrel),
     (0xC67318DB#32, .mma 6#5 7#5 1#1 4#3 3#3 17#5),
     (0xE673205B#32, .maccSt 6#5 7#5 1#1 6#3 3#3),
     (0x7600205B#32, .maccClr 3#3),
     (0xF673205B#32, .maccLd 6#5 7#5 3#3),
     (0x007332DB#32, .rcfg 5#5 6#5 7#5),
     (0x100032DB#32, .rrel 5#5),
     (0x200332DB#32, .rstat 5#5 6#5),
     (0x307332DB#32, .rpeek 5#5 6#5 7#5),
     (0x4003305B#32, .rpop 6#5),
     (0x060042DB#32, .mstat 5#5 3#3),
     (0x160042DB#32, .mstatClr 5#5 3#3),
     (0x260042DB#32, .mprog 5#5 3#3),
     (0x3600405B#32, .mprogClr 3#3),
     (0x0603505B#32, .gredF32 6#5 3#3),
     (0x1603505B#32, .gredI32 6#5 3#3)] = true := by decide

theorem test_decode_custom_3_funct3_0 : decodesTo
    [(0x0A7302FB#32, .amoSwapD 5#5 6#5 7#5 5#3),
     (0x1A7302FB#32, .amoAddD 5#5 6#5 7#5 5#3),
     (0x2A7302FB#32, .amoAndD 5#5 6#5 7#5 5#3),
     (0x3A7302FB#32, .amoOrD 5#5 6#5 7#5 5#3),
     (0x4A7302FB#32, .amoMaxD 5#5 6#5 7#5 5#3),
     (0x5A7302FB#32, .amoMaxuD 5#5 6#5 7#5 5#3),
     (0x6A7302FB#32, .amoCasD 5#5 6#5 7#5 5#3),
     (0x7A7302FB#32, .amoAggaddD 5#5 6#5 7#5 5#3),
     (0x8A7302FB#32, .amoSwapW 5#5 6#5 7#5 5#3),
     (0x9A7302FB#32, .amoAddW 5#5 6#5 7#5 5#3),
     (0xAA7302FB#32, .amoAndW 5#5 6#5 7#5 5#3),
     (0xBA7302FB#32, .amoOrW 5#5 6#5 7#5 5#3),
     (0xCA7302FB#32, .amoMaxW 5#5 6#5 7#5 5#3),
     (0xDA7302FB#32, .amoMaxuW 5#5 6#5 7#5 5#3),
     (0xEA7302FB#32, .amoCasW 5#5 6#5 7#5 5#3),
     (0xFA7302FB#32, .amoAggaddW 5#5 6#5 7#5 5#3)] = true := by decide

theorem test_decode_custom_3_funct3_1 : decodesTo
    [(0x1800107B#32, .fenceR 4#3),
     (0x2800107B#32, .fenceA 4#3),
     (0x3800107B#32, .fenceS 4#3),
     (0x4000107B#32, .fenceOwn),
     (0x4273107B#32, .fenceFar 6#5 7#5)] = true := by decide

theorem test_decode_custom_3_funct3_2 : decodesTo
    [(0x007322FB#32, .waitaEqW 5#5 6#5 7#5),
     (0x027322FB#32, .waitaNeW 5#5 6#5 7#5),
     (0x047322FB#32, .waitaEqD 5#5 6#5 7#5),
     (0x067322FB#32, .waitaNeD 5#5 6#5 7#5),
     (0x1000207B#32, .wfe),
     (0x1203207B#32, .sev 6#5)] = true := by decide

theorem test_decode_custom_3_funct3_3 : decodesTo
    [(0x000334FB#32, .rbcfg 6#5 9#5),
     (0x0273307B#32, .msgSend 6#5 7#5),
     (0x049332FB#32, .msgWait 5#5 6#5 9#5)] = true := by decide

theorem test_decode_custom_3_funct3_4 : decodesTo
    [(0x9A03407B#32, .bcfg 6#5 77#7),
     (0x9A1042FB#32, .barrTeam 5#5 77#7),
     (0x9A2042FB#32, .barrField 5#5 77#7),
     (0x9A33407B#32, .bwait 6#5 77#7),
     (0x9A4042FB#32, .bstat 5#5 77#7)] = true := by decide

theorem test_decode_custom_3_funct3_5 : decodesTo
    [(0x0003537B#32, .epush 6#5 6#5),
     (0x020352FB#32, .epop 5#5 6#5),
     (0x0403507B#32, .spush 6#5),
     (0x060352FB#32, .spop 5#5 6#5),
     (0x087352FB#32, .seal 5#5 6#5 7#5),
     (0x0A03507B#32, .unseal 6#5),
     (0x0C0352FB#32, .sealrd 5#5 6#5)] = true := by decide

theorem test_decode_custom_3_funct3_6 : decodesTo
    [(0x000362FB#32, .sweep 5#5 6#5),
     (0x0273607B#32, .swake 6#5 7#5),
     (0x202062FB#32, .cld 5#5 2#5),
     (0x222062FB#32, .nld 5#5 2#5),
     (0x2403617B#32, .cst 6#5 2#5),
     (0x2603607B#32, .semit 6#5),
     (0x2800607B#32, .swaitStep),
     (0x2A00607B#32, .swaitNb),
     (0x2C03607B#32, .swaitCnt 6#5),
     (0x2E03607B#32, .swaitKey 6#5),
     (0x3000607B#32, .sdone)] = true := by decide

theorem test_decode_custom_3_funct3_7 : decodesTo
    [(0x0000707B#32, .ckptStep),
     (0x0203707B#32, .yieldSlot 6#5),
     (0x040372FB#32, .rebuild 5#5 6#5),
     (0x0603707B#32, .wsw 6#5),
     (0x0803707B#32, .dsw 6#5),
     (0x0A73707B#32, .follow 6#5 7#5),
     (0x0C73707B#32, .dbgStepdrain 6#5 7#5),
     (0x100372FB#32, .voteAnd 5#5 6#5),
     (0x120372FB#32, .voteOr 5#5 6#5),
     (0x140372FB#32, .voteMax 5#5 6#5),
     (0x160372FB#32, .voteSum 5#5 6#5),
     (0x180372FB#32, .voteAndP 5#5 6#5),
     (0x1A0372FB#32, .voteOrP 5#5 6#5),
     (0x1C0372FB#32, .voteMaxP 5#5 6#5),
     (0x1E0372FB#32, .voteSumP 5#5 6#5)] = true := by decide

/-! Witnesses: for every statement with hypotheses, states and operands that meet them together. -/

/-- The module after reset with core 0, a server core that acts, as given. -/
def one (c : Core) : State := { State.reset with cores := [(0, c)] }

/-- Every core of it is as given, or as after reset. -/
theorem one_coreAt (c : Core) (k : Nat) : (one c).coreAt k = c ∨ (one c).coreAt k = Core.reset := by
  unfold one State.coreAt; simp only [Tbl.get]; split
  · exact .inl rfl
  · split <;> exact .inr rfl

/-- A core that holds a task of tenant 1 in user mode. -/
def tasked : Core := { Core.reset with
  mode := .u, pc := 0x3E000400000#64, task := some ⟨1, 0, 0, 0, 0, 0, 1, 1, false⟩, csr := { Csr.reset with ptag := 1#32 } }

/-- Capsule 1, sealed, of one word. -/
def capsules : Tbl Caps := [(1, { Caps.free with st := .sealed, ten := 1, nins := 1 })]

theorem witness_StepRunsTheInstruction :
    (let s : State := { State.reset with mem := State.reset.mem.write (kText (Config.serverEntry + 0xFFFFFFFC)) 4 0x10500073
                                         cores := [(0, { Core.reset with pc := BitVec.ofNat 64 (Config.serverEntry + 0xFFFFFFFC) })] }
     let u := s.pass 1
     let c := u.coreAt 0
     s.due = none ∧ s.run.sched = [] ∧ s.run.cur = .core 0 ∧ u.runs 0 = true ∧ c.check = false ∧ c.frzReq = false ∧ u.interruptNow 0 = false ∧ c.lead = none ∧
       c.mode = .s ∧ c.csr.dsel = 0#4 ∧ c.pc.toNat % 4 = 0 ∧ Config.serverEntry ≤ c.pc.toNat ∧
       c.pc.toNat + 4 ≤ Config.serverEntry + Config.serverTextSize ∧ u.poisoned (kText c.pc.toNat) = false ∧
       decode (BitVec.ofNat 32 (u.mem.read (kText c.pc.toNat) 4)) = .ok .wfi) ∧
    (let s : State := { one tasked with mem := State.reset.mem.write (kText 0x3E000400000) 4 0x73, tabs := { Tabs.reset with caps := capsules } }
     let u := s.pass 1
     let c := u.coreAt 0
     let k : Task := ⟨1, 0, 0, 0, 0, 0, 1, 1, false⟩
     s.due = none ∧ s.run.sched = [] ∧ s.run.cur = .core 0 ∧ u.runs 0 = true ∧ c.check = false ∧ c.frzReq = false ∧ u.interruptNow 0 = false ∧ c.lead = none ∧
       c.mode = .u ∧ c.task = some k ∧ (u.cap k.caps).st = .sealed ∧ c.pc.toNat % 4 = 0 ∧ textBase k.caps ≤ c.pc.toNat ∧
       c.pc.toNat < textBase k.caps + 4 * (u.cap k.caps).nins ∧ u.poisoned (kText c.pc.toNat) = false ∧
       decodeUnder (u.coreTable 0) (BitVec.ofNat 32 (u.mem.read (kText c.pc.toNat) 4)) = .ok .ecall) ∧
    (let s := one { tasked with lead := some 1, fwd := [⟨0x73#32, 0#64, 4#64, false, false⟩] }
     let u := s.pass 1
     let c := u.coreAt 0
     s.due = none ∧ s.run.sched = [] ∧ s.run.cur = .core 0 ∧ u.runs 0 = true ∧ c.check = false ∧ c.frzReq = false ∧ u.interruptNow 0 = false ∧ c.lead = some 1 ∧
       c.fwd = [⟨0x73#32, 0#64, 4#64, false, false⟩] ∧ decodeUnder (u.coreTable 0) 0x73#32 = .ok .ecall) := by
  decide +kernel

theorem witness_StepFollowsTheSchedule :
    (let s : State := { State.reset with run := ⟨[⟨255, .run (.core 1)⟩], .core 0, 0, 0, [], []⟩ }
     s.due = none ∧ 255 ≤ s.gapLimit 255 ∧ s.run.sched = ⟨255, .run (.core 1)⟩ :: []) ∧
    (let s : State := { State.reset with run := ⟨[⟨0, .event (.patrolPass true)⟩], .core 0, 0, 0, [], []⟩ }
     s.due = none ∧ 0 ≤ s.gapLimit 0 ∧ schedulable (.patrolPass true) = true ∧ s.run.sched = ⟨0, .event (.patrolPass true)⟩ :: []) ∧
    (let s : State := { State.reset with run := ⟨[⟨1, .abort 1⟩], .core 0, 0, 0, [], []⟩ }
     s.due = none ∧ 1 ≤ s.gapLimit 1 ∧ s.run.sched = ⟨1, .abort 1⟩ :: []) := by
  decide +kernel

/-- Is the outcome a next state? -/
def isNext (o : Host.Outcome State Fault Refusal) : Bool := match o with | .next _ => true | _ => false

theorem next_of {o : Host.Outcome State Fault Refusal} (h : isNext o = true) : ∃ t, o = .next t := by
  cases o <;> simp_all [isNext]

theorem witness_EveryStepKeepsTheCanonicalForm : ∃ t, Canonical State.reset ∧ step State.reset = .next t := by
  obtain ⟨t, h⟩ := next_of (o := step State.reset) (by decide +kernel)
  exact ⟨t, by unfold Canonical; decide, h⟩

theorem witness_DecodeOfEncodeGivesTheInstruction :
    (Instr.mma 15#5 14#5 1#1 5#3 7#3 31#5).wf = true ∧ encode (Instr.mma 15#5 14#5 1#1 5#3 7#3 31#5) = some 0xDEE79FDB#32 := by decide

theorem witness_EncodeOfDecodeGivesTheWord : decode 0xFFFF8F93#32 = .ok (.addi 31#5 31#5 0xFFF#12) := by decide

/-- An add is among the register operations, and core 0 acts after reset. -/
theorem witness_RegisterAndImmediateOperations :
    (∃ p ∈ registerOps, p.1 31#5 31#5 31#5 = .add 31#5 31#5 31#5) ∧ (∃ p ∈ immediateOps, p.1 0#5 1#5 0x800#12 = .addi 0#5 1#5 0x800#12) ∧
      State.reset.run.cur = .core 0 :=
  ⟨⟨_, List.mem_append_left _ (List.Mem.head _), rfl⟩, ⟨_, List.Mem.head _, rfl⟩, rfl⟩

/-- A lane and the pass it belongs to. -/
def lane0 : Lane := ⟨0, .running, 0, 2047, Vector.replicate 8 0#64, Vector.replicate 8 0#32, 0#128, [0#8, 0#8, 0#8, 0#8], false, [], false, false, 0#128, [0#8, 0#8, 0#8, 0#8]⟩
def pass0 : Pass := ⟨0, 0#64, 10, 0x21000000000, 0, 0, 4, 0, 1, 2, 64, 0, 4, 1, 1, 0#4, 0, 0, 0, true, true, [lane0, { lane0 with elem := 1 }],
  [(0, 0#128, [7#8, 0#8, 0#8, 0#8]), (1, 0#128, [8#8, 0#8, 0#8, 0#8])], [], [], 0, false, none⟩

/-- Lane `j` of cluster 0 acts, in the pass as given. -/
def swept (p : Pass) (j : Nat) : State := { State.reset with clusters := [(0, { Cluster.awake with pass := some p })], run := ⟨[], .lane 0 j, 0, 0, [], []⟩ }

theorem witness_LanesExecuteTheScalarOperations :
    (swept pass0 0).run.cur = .lane 0 0 ∧ (swept pass0 0).laneAt 0 0 = some lane0 ∧ lane0.count < 2048 := by decide

/-- Core 0 with these values of x5 and x6. -/
def with56 (a b : Word) : Core := (Core.reset.wx 5#5 a).wx 6#5 b

theorem witness_BranchesAndJumpsGoToTheirTarget :
    (∃ p ∈ branchOps, ¬ p.2 ((one (with56 1#64 0#64)).coreAt 0 |>.rx 5#5) ((one (with56 1#64 0#64)).coreAt 0 |>.rx 6#5)) ∧
    (∃ p ∈ branchOps, p.2 ((one (with56 0#64 0#64)).coreAt 0 |>.rx 5#5) ((one (with56 0#64 0#64)).coreAt 0 |>.rx 6#5)) ∧
    (((one Core.reset).coreAt 0).pc + immB 0x40#7 0#5).toNat % 4 = 0 ∧ (((one Core.reset).coreAt 0).pc + immB 0#7 2#5).toNat % 4 ≠ 0 ∧
    (((one Core.reset).coreAt 0).mode = .u → ((one Core.reset).coreAt 0).pc + immB 0x40#7 0#5 ≠ taskExit) ∧
    (((one Core.reset).coreAt 0).pc + immJ 0x80000#20).toNat % 4 = 0 ∧ (((one Core.reset).coreAt 0).pc + immJ 0x00200#20).toNat % 4 ≠ 0 ∧
    ((((one (with56 1#64 0#64)).coreAt 0).rx 5#5 + BitVec.ofInt 64 (0x000#12).toInt) &&& ~~~1#64).toNat % 4 = 0 ∧
    ((((one (with56 1#64 0#64)).coreAt 0).rx 5#5 + BitVec.ofInt 64 (0x001#12).toInt) &&& ~~~1#64).toNat % 4 ≠ 0 ∧ State.reset.run.cur = .core 0 := by
  refine ⟨⟨_, List.Mem.head _, by decide⟩, ⟨_, List.Mem.head _, by decide⟩, ?_⟩
  decide

/-- Core 0 with the address of an offset of its own scratchpad in x5. -/
def at5 (off : Nat) : Core := Core.reset.wx 5#5 (ownPad off)

theorem witness_LoadsAndStoresOfTheOwnScratchpad :
    ((one (at5 0x3FFF8)).coreAt 0).rx 5#5 + BitVec.ofInt 64 (0#12).toInt = ownPad 0x3FFF8 ∧ PadReadable 0 (one (at5 0x3FFF8)) 0x3FFF8 8 ∧
    ((one (at5 0x3FFFF)).coreAt 0).rx 5#5 + BitVec.ofInt 64 (0#7 ++ 0#5).toInt = ownPad 0x3FFFF ∧ PadWritable 0 (one (at5 0x3FFFF)) 0x3FFFF 1 ∧
    ((one (at5 0x3FFFF)).coreAt 0).sb.length < 32 := by
  unfold PadWritable PadReadable; decide +kernel

theorem witness_BadAddressesTrap :
    (let c := (one (with56 0x22000000001#64 0#64)).coreAt 0
     let ea := c.rx 5#5 + BitVec.ofInt 64 (0#12).toInt
     ea.toNat < 2 ^ 42 ∧ ea.toNat % 2 ≠ 0 ∧ ∀ w o, localRegion (some 0) ea.toNat ≠ .window w o) ∧
    (2 : Nat) ^ 55 ≤ (((one (with56 0x80000000000000#64 0#64)).coreAt 0).rx 5#5 + BitVec.ofInt 64 (0#12).toInt).toNat := by
  refine ⟨⟨by decide +kernel, by decide +kernel, ?_⟩, by decide +kernel⟩
  have h : localRegion (some 0) (((one (with56 0x22000000001#64 0#64)).coreAt 0).rx 5#5 + BitVec.ofInt 64 (0#12).toInt).toNat = .pad 0 1 := by decide +kernel
  intro w o; rw [h]; simp

theorem witness_EnvironmentCallsTakeTheirTrap :
    (0x30200073#32).extractLsb' 0 7 = 0x73#7 ∧ (0x30200073#32).extractLsb' 12 3 = 0#3 ∧ 0x30200073#32 ≠ 0x00000073#32 ∧ 0x30200073#32 ≠ 0x00100073#32 ∧
      0x30200073#32 ≠ 0x10200073#32 ∧ 0x30200073#32 ≠ 0x10500073#32 ∧ State.reset.run.cur = .core 0 := by decide

/-- Core 0 with interrupts enabled and one pending. -/
def pending : Core := { Core.reset with sup := { Sup.reset with sie := true, seie := true, seip := true } }

theorem witness_InterruptsAreTakenInSupervisorModeOnly :
    ((one { pending with wait := .cxl }).coreAt 0).midway = true ∧ ((one { pending with mode := .u }).coreAt 0).mode = .u ∧
      ((one Core.reset).csrRead 0 .sip &&& (one Core.reset).csrRead 0 .sie) = 0#64 ∧ ((one Core.reset).csrRead 0 .sstatus).getLsbD 1 = false ∧
      (one pending).interruptNow 0 = true := by decide +kernel

theorem witness_ReturnsAndWaitsForInterrupts :
    ((one Core.reset).coreAt 0).mode = .s ∧ ((one tasked).coreAt 0).mode = .u ∧ ((one pending).csrRead 0 .sip &&& (one pending).csrRead 0 .sie) ≠ 0#64 ∧
      ((one Core.reset).csrRead 0 .sip &&& (one Core.reset).csrRead 0 .sie) = 0#64 := by decide +kernel

theorem witness_CsrInstructionsAct :
    (∃ p ∈ csrOps, p.1 1#5 1#5 0x800#12 = .csrrw 1#5 1#5 0x800#12) ∧
    CsrName.ofNumber 0x105#12 = some .stvec ∧ ((one Core.reset).coreAt 0).mode = .s ∧ CsrName.stvec.readOnly = false ∧
    CsrName.ofNumber 0x7FF#12 = none ∧ CsrName.stvec.supervisor = true ∧ ((one tasked).coreAt 0).mode = .u ∧
    (∃ c ∈ [CsrName.lclk, .coord, .lcore, .ptag], c.readOnly = true ∧ csrWrites (fun _ src => src) 0#5 = true) :=
  ⟨⟨_, List.Mem.head _, rfl⟩, by decide⟩

/-! Vectors. -/

/-- Core 0, whose latest custom-0 result is written in the cycle in which the next one issues. -/
def vectored : State := one { Core.reset with vnext := 5, vpend := [⟨1, 5, 0#512, 1#512, false⟩] }

theorem vectored_ready : vectored.run.cur = .core 0 ∧ VectorReady 0 vectored := by unfold VectorReady; decide +kernel

theorem witness_LaneAndPackedIntegerOperations :
    (∃ p ∈ laneOps, p.1 0#5 0#5 0#5 7#3 = .vaddI32 0#5 0#5 0#5 7#3) ∧ (∃ p ∈ packedOps, p.1 0#5 0#5 0#5 7#3 = .vaddI16 0#5 0#5 0#5 7#3) ∧
    (∃ p ∈ unsignedOps, p.1 0#5 0#5 0#5 7#3 = .vaddusI16 0#5 0#5 0#5 7#3) ∧ vectored.run.cur = .core 0 ∧ VectorReady 0 vectored :=
  ⟨⟨_, List.Mem.head _, rfl⟩, ⟨_, List.Mem.head _, rfl⟩, ⟨_, List.Mem.head _, rfl⟩, vectored_ready⟩

theorem witness_FloatOperationsComputeEachActiveElement :
    (∃ p ∈ floatOps, p.1 0#5 0#5 0#5 7#3 = .vfaddF32 0#5 0#5 0#5 7#3) ∧ (∃ p ∈ halfOps, p.1 0#5 0#5 0#5 7#3 = .vfaddBf16 0#5 0#5 0#5 7#3) ∧
    vectored.run.cur = .core 0 ∧ VectorReady 0 vectored := ⟨⟨_, List.Mem.head _, rfl⟩, ⟨_, List.Mem.head _, rfl⟩, vectored_ready⟩

theorem witness_ComparesAndMaskLogic :
    (∃ p ∈ compareOps, p.1 7#5 0#5 0#5 7#3 = .vcmpeqI32 7#5 0#5 0#5 7#3) ∧ (7#5).toNat < 8 ∧ (∃ p ∈ maskOps, p.1 7#5 0#5 0#5 7#3 = .mand 7#5 0#5 0#5 7#3) ∧
    vectored.run.cur = .core 0 ∧ VectorReady 0 vectored := ⟨⟨_, List.Mem.head _, rfl⟩, by decide, ⟨_, List.Mem.head _, rfl⟩, vectored_ready⟩

theorem witness_PermutesReductionsAndScans :
    (15#5).toNat < 16 ∧ (∃ p ∈ reduceOps, p.1 0#5 0#5 7#3 = .vredsumI32 0#5 0#5 7#3) ∧ vectored.run.cur = .core 0 ∧ VectorReady 0 vectored :=
  ⟨by decide, ⟨_, List.Mem.head _, rfl⟩, vectored_ready⟩

theorem witness_ConversionsConvertAndCollectEvents :
    (∃ p ∈ convertOps, p.1 0#5 0#5 1#2 0#3 7#3 = .vcvtBf16F32 0#5 0#5 1#2 0#3 7#3 ∧ (p.1 0#5 0#5 1#2 0#3 7#3).wf = true ∧
      (p.1 0#5 0#5 1#2 7#3 7#3).wf = true ∧ stochasticIn (vectored.coreAt 0) p.2.2 = false) ∧ 7#3 ≠ 0#3 ∧
    vectored.run.cur = .core 0 ∧ VectorReady 0 vectored :=
  ⟨⟨_, List.Mem.head _, rfl, by decide, by decide, by decide⟩, by decide, vectored_ready⟩

theorem witness_UnderrunsAndRepetitions :
    (let s := one { Core.reset with csr := { Csr.reset with scbchk := 1#1 }, vpend := [⟨30, 9, 0#512, 1#512, false⟩, ⟨31, 1, 0#512, 1#512, false⟩] }
     s.run.cur = .core 0 ∧ (s.coreAt 0).vpend = [⟨30, 9, 0#512, 1#512, false⟩] ++ ⟨31, 1, 0#512, 1#512, false⟩ :: [] ∧ 30 ≠ 31 ∧ issueCycle 0 s < 1 ∧ (31 = (31#5).toNat) ∧ (s.coreAt 0).csr.scbchk = 1#1) ∧
    (let s := one (with56 17#64 0#64)
     s.run.cur = .core 0 ∧ VectorReady 0 s ∧ 16 < ((s.coreAt 0).rx 5#5).toNat) ∧
    (let s : State := { one (with56 16#64 0#64) with mem := State.reset.mem.write (kText (Config.serverEntry + 4)) 4 0x1000000B }
     s.run.cur = .core 0 ∧ VectorReady 0 s ∧ ((s.coreAt 0).rx 5#5).toNat ≤ 16 ∧ (s.coreAt 0).csr.dsel = 0#4 ∧ (s.coreAt 0).csr.vmsel.getLsbD 3 = true ∧
       s.fetchAfter 0 (s.coreAt 0).pc 1 = .ok [0x1000000B#32] ∧ decode 0x1000000B#32 = .ok (.vand 0#5 0#5 0#5 0#3)) := by
  unfold VectorReady; decide +kernel

/-! Moves, vector memory and hints. -/

theorem witness_MovesAndWindowEntries :
    State.reset.run.cur = .core 0 ∧ (15#5).toNat < 16 ∧ (7#5).toNat < 8 ∧
    (let e := ((one (with56 0#64 0#64)).coreAt 0).rx 5#5
     ((one (with56 0#64 0#64)).coreAt 0).sb = [] ∧ e.extractLsb' 60 3 = 0#3 ∧ e.extractLsb' 50 3 = 0#3 ∧ (e.getLsbD 63 = true → winConsistent e = true)) ∧
    (let e := ((one (with56 0x1000000000000000#64 0#64)).coreAt 0).rx 5#5
     ¬ (e.extractLsb' 60 3 = 0#3 ∧ e.extractLsb' 50 3 = 0#3 ∧ (e.getLsbD 63 = true → winConsistent e = true))) := by decide +kernel

/-- The last 64 bytes of the own scratchpad, which no workspace and no argument block holds. -/
def pad64 : State := one (at5 0x3FFC0)

theorem pad64_good : PadWritable 0 pad64 0x3FFC0 64 ∧ PadReadable 0 pad64 0x3FFC0 64 ∧ PadReadable 0 pad64 0x3FFC0 4 ∧
    (pad64.coreAt 0).rx 5#5 + BitVec.ofInt 64 (64 * (0#8).toInt) = ownPad 0x3FFC0 ∧
    (pad64.coreAt 0).rx 5#5 + BitVec.ofInt 64 (4 * (0#8).toInt) = ownPad 0x3FFC0 ∧ 0x3FFC0 % 64 = 0 ∧ (pad64.coreAt 0).sb.length < 32 := by
  unfold PadWritable PadReadable; decide +kernel

theorem witness_VectorLoadsAndStores : PadWritable 0 pad64 0x3FFC0 64 ∧ PadReadable 0 pad64 0x3FFC0 64 ∧ PadReadable 0 pad64 0x3FFC0 4 ∧
    (pad64.coreAt 0).rx 5#5 + BitVec.ofInt 64 (64 * (0#8).toInt) = ownPad 0x3FFC0 ∧
    (pad64.coreAt 0).rx 5#5 + BitVec.ofInt 64 (4 * (0#8).toInt) = ownPad 0x3FFC0 ∧ 0x3FFC0 % 64 = 0 ∧ (pad64.coreAt 0).sb.length < 32 := pad64_good

/-- The places of the lanes: all at the last word of the scratchpad, or at the last word of each lane's slice. -/
theorem witness_GathersScattersAndLaneSlices :
    LanesReach 0 (one (at5 0x3FFFC)) 5#5 0#5 0#2 (fun _ => 0x3FFFC) ∧
    (∀ j ∈ ((one (at5 0x3FFFC)).coreAt 0).actives 16, PadWritable 0 (one (at5 0x3FFFC)) 0x3FFFC 4) ∧ ((one (at5 0x3FFFC)).coreAt 0).sb.length + (((one (at5 0x3FFFC)).coreAt 0).actives 16).length ≤ 32 ∧
    (∀ j ∈ ((one (with56 0xFFC#64 0#64)).coreAt 0).actives 16, 0xFFC < 4096 ∧ PadWritable 0 (one (with56 0xFFC#64 0#64)) (0x20000 + j * 0x1000 + 0xFFC) 4) ∧
    ((one (with56 0xFFC#64 0#64)).coreAt 0).sb.length < 32 := by
  unfold LanesReach PadWritable PadReadable; decide +kernel

/-- A line of tenant 0's package scratchpad that its home holds; the tenant's partition has one unit of it. -/
def pkgLine : LlcLine := ⟨lineOf (kPkg 0 0), 0, false, false, false, 0, 3, 9⟩
def atPkg (l1 : List L1Line) (l : LlcLine) : State := { one { with56 0x20000000000#64 0#64 with l1 := l1 } with
  home := { Home.reset with llc := [l] }
  tabs := { Tabs.reset with parts := [(0, 0x101#1024)] } }

/-- A copy of it in L1. -/
def pkgCopy (owned : Bool) (dirty : BitVec 2) : L1Line := ⟨lineOf (kPkg 0 0), owned, 3#2, dirty, false, 5, 11, false, 7#1024⟩

theorem witness_HintsMoveLinesAndNeverTrap :
    (∃ h ∈ hintOps, h 5#5 0#8 = .prefL1 5#5 0#8) ∧ (2 : Nat) ^ 55 ≤ (((one (with56 0x80000000000000#64 0#64)).coreAt 0).rx 5#5 + BitVec.ofInt 64 (128 * (0#8).toInt)).toNat ∧
    ((one (at5 0x3FFFF)).coreAt 0).rx 5#5 + BitVec.ofInt 64 (128 * (0#8).toInt) = ownPad 0x3FFFF ∧ PadReadable 0 (one (at5 0x3FFFF)) 0x3FFFF 1 ∧
    (∀ a ∈ [none, some (pkgCopy false 0#2), some (pkgCopy true 0#2), some (pkgCopy true 2#2)],
     let l := if a = some (pkgCopy true 0#2) ∨ a = some (pkgCopy true 2#2) then { pkgLine with ov := true } else pkgLine
     let s := atPkg a.toList l
     let c := s.coreAt 0
     let key := kPkg c.ten 0
     s.run.cur = .core 0 ∧ c.rx 5#5 + BitVec.ofInt 64 (128 * (0#8).toInt) = BitVec.ofNat 64 0x20000000000 ∧ 0 < s.pkgBytes c.ten ∧ s.anyPoison key 1 = false ∧
       s.llcFind (lineOf key) = some l ∧ (a = none → l.ov = false) ∧ (s.dirTouch (lineOf key)).conflicts (lineOf key) 1 1 4 = [] ∧
       ((l1Drop c.l1 (lineOf key)).filter (fun b => decide (b.line % 64 = lineOf key % 64))).length < 8 ∧ l1Find c.l1 (lineOf key) = a) := by
  refine ⟨⟨_, List.Mem.head _, rfl⟩, ?_⟩
  unfold PadReadable; decide +kernel

/-! The matrix array. -/

/-- Cluster 0 as given, core 0 as given. -/
def arrayed (c : Core) (k : Cluster) : State := { State.reset with cores := [(0, c)], clusters := [(0, k)] }

theorem released_of {s : State} {c q : Nat} (h : (s.clusterAt c).relFrom = some q) (e : (s.coreAt q).sb = []) : LeaseReleased s c := fun p hp => by
  rw [h] at hp; cases hp; exact e

/-- The array held by core 0. -/
def held : Cluster := { Cluster.awake with holder := some 0 }

theorem witness_LeasesGuardTheArray :
    (let s := arrayed Core.reset Cluster.awake
     s.run.cur = .core 0 ∧ s.leaseHeld 0 = false ∧ (s.clusterAt 0).holder = none ∧ (s.clusterAt 0).lwait = []) ∧
    (let s := arrayed Core.reset held
     s.leaseHeld 0 = true ∧ (s.coreAt 0).sb = []) ∧
    (let s := arrayed Core.reset { Cluster.awake with holder := some 15 }
     s.leaseHeld 0 = false ∧ (s.clusterAt 0).holder ≠ none) ∧
    (let s := arrayed Core.reset { Cluster.awake with lwait := [15] }
     s.leaseHeld 0 = false ∧ (s.clusterAt 0).lwait ≠ []) ∧
    LeaseReleased (arrayed Core.reset { Cluster.awake with lastHolder := some 15, relFrom := some 15 }) 0 ∧
    ¬ LeaseReleased (arrayed { Core.reset with sb := [⟨.scratch 0 0, [some 0#8], 0⟩] } { Cluster.awake with relFrom := some 0 }) 0 := by
  refine ⟨?_, ?_, ?_, ?_, released_of (q := 15) ?_ ?_, fun h => absurd (h 0 rfl) ?_⟩ <;> decide +kernel

/-- Ranks 15 and 0 wait for a lease that rank 14 has given back: rank 15 comes first. -/
def freed : State := arrayed Core.reset { Cluster.awake with lastHolder := some 14, relFrom := some 14, lwait := [0, 15] }

theorem witness_FreeLeasesAreGrantedInRankOrder :
    Tbl.wf Cluster.gated freed.clusters = true ∧ (freed.clusterAt 0).holder = none ∧ 15 ∈ (freed.clusterAt 0).lwait ∧
      (∀ m ∈ (freed.clusterAt 0).lwait, clusterOf m = 0) ∧
      (∀ m ∈ (freed.clusterAt 0).lwait, m ≠ 15 → grantDistance (freed.clusterAt 0) 15 < grantDistance (freed.clusterAt 0) m) ∧ LeaseReleased freed 0 := by
  refine ⟨?_, ?_, ?_, ?_, ?_, released_of (q := 14) ?_ ?_⟩ <;> decide +kernel

/-- Core 0 with ring 14 for operand A and ring 15 for operand B of format `f`, each with `cnt` entries of the largest size. -/
def ringed (f : BitVec 3) (cnt : Nat) : Core := { Core.reset with
  q := (Core.reset.q.setIfInBounds 14 (ringMake true cnt 0 (mmaCode f) 9 0 0)).setIfInBounds 15 (ringMake true cnt 0 (mmaCode f) 9 0 0x8000) }

theorem witness_MultipliesAccumulateAndConsume :
    (let s := arrayed (ringed 4#3 1) held
     let qa := (s.coreAt 0).ring 14#5
     let qb := (s.coreAt 0).ring 15#5
     s.leaseHeld 0 = true ∧ (s.coreAt 0).sb = [] ∧ ringServes qa 4#3 false = true ∧ ringServes qb 4#3 true = true ∧ ringCnt qa ≠ 0 ∧ ringCnt qb ≠ 0 ∧
       (s.clusterAt 0).badRow = none ∧ TileClean s 0 7 ∧ OperandsClean s 0 4#3 (ringAt qa (ringHead qa)) (ringAt qb (ringHead qb)) 32 ∧ ((s.clusterAt 0).prog.getD 7 0#64).getLsbD 7 = false) ∧
    (let s := arrayed (ringed 5#3 0) held
     let qa := (s.coreAt 0).ring 14#5
     let qb := (s.coreAt 0).ring 15#5
     (5#3).toNat < 6 ∧ ringServes qa 5#3 false = true ∧ ringServes qb 5#3 true = true ∧ (ringCnt qa = 0 ∨ ringCnt qb = 0)) ∧
    (let s := arrayed { ringed 5#3 0 with q := (ringed 5#3 0).q.setIfInBounds 15 0#64 } held
     ringServes ((s.coreAt 0).ring 14#5) 5#3 false = true ∧ ringServes ((s.coreAt 0).ring 15#5) 5#3 true = false) ∧
    (let s := arrayed { ringed 5#3 0 with q := (ringed 5#3 0).q.setIfInBounds 14 0#64 } held
     ringServes ((s.coreAt 0).ring 14#5) 5#3 false = false ∧ ringServes ((s.coreAt 0).ring 15#5) 5#3 true = true) := by
  unfold TileClean OperandsClean; decide +kernel

/-- Core 0 with rows of a tile 4,128 bytes apart, the last of which ends with the scratchpad. -/
def rowed : Core := with56 (ownPad 1696) 4128#64

/-- No byte lies in a sealed buffer of a cluster that has none. -/
theorem unsealed {s : State} {n off k : Nat} (h : ∀ i < 32, ((s.clusterAt (clusterOf n)).seals.getD i ⟨false, 0, 0, 0⟩).s = false) : s.inSeal n off k = false := by
  unfold State.inSeal State.sealsAt
  rw [List.filter_eq_nil_iff.mpr (fun i hi => by simp [h i (List.mem_range.mp hi)])]; rfl

theorem witness_TilesAreClearedLoadedStoredAndRead :
    (let s := arrayed rowed held
     let c := s.coreAt 0
     s.leaseHeld 0 = true ∧ c.sb = [] ∧ c.reply = .none ∧ c.rx 5#5 = ownPad 1696 ∧ c.rx 6#5 = BitVec.ofNat 64 4128 ∧ 1696 % 32 = 0 ∧ 4128 % 32 = 0 ∧
       1696 + 63 * 4128 + 384 ≤ 0x40000 ∧ (∀ i, i < 64 → s.inWs 0 (1696 + i * 4128) 384 = false ∧ s.anyPoison (kPad 0 (1696 + i * 4128)) 384 = false) ∧
       ((s.clusterAt 0).prog.getD 7 0#64).getLsbD 7 = false) ∧
    (∀ prog ∈ [0, 191], let s := arrayed rowed { held with prog := held.prog.setIfInBounds 7 (BitVec.ofNat 64 prog) }
     let c := s.coreAt 0
     s.leaseHeld 0 = true ∧ c.sb = [] ∧ c.away = false ∧ c.watches = [] ∧ (6#3).toNat < 7 ∧ 96 * (((Fmt.ofCode (6#3).toNat).getD .fp32).bits / 8) = 384 ∧
       rowsFrom ((s.clusterAt 0).prog.getD 7 0#64) = (if prog = 0 then List.range 64 else [63])) ∧
    (∀ i, i < 64 → 1696 + i * 4128 + 384 ≤ 0x40000 ∧ (arrayed rowed held).inWs 0 (1696 + i * 4128) 384 = false ∧
      (arrayed rowed held).inArgs 0 (1696 + i * 4128) 384 = false ∧ (arrayed rowed held).anyPoison (kPad 0 (1696 + i * 4128)) 384 = false) ∧
    (∀ off, (arrayed rowed held).inSeal 0 off 1 = false) ∧ TileClean (arrayed rowed held) 0 7 := by
  unfold TileClean
  refine ⟨?_, ?_, ?_, fun off => unsealed ?_, ?_⟩ <;> decide +kernel

theorem witness_RingsAreConfiguredPeekedAndPopped :
    (let s := one (with56 0x3F8000#64 0x9000#64)
     let b := (s.coreAt 0).rx 5#5
     let k := (s.coreAt 0).rx 6#5
     b.toNat % 128 = 0 ∧ k.toNat < 2 ^ 20 ∧ k.extractLsb' 10 2 = 0#2 ∧ (k.extractLsb' 16 4).toNat < 8 ∧ (k.extractLsb' 12 4).toNat ≤ 9 ∧
       b.toNat + ((k.extractLsb' 0 10).toNat + 1) * (64 * 2 ^ (k.extractLsb' 12 4).toNat) ≤ 0x400000 ∧ ¬ ringBusy s 0 15#5) ∧
    (let c := (one (with56 0x3F8080#64 0x9000#64)).coreAt 0
     ¬ (c.rx 5#5).toNat + (((c.rx 6#5).extractLsb' 0 10).toNat + 1) * (64 * 2 ^ ((c.rx 6#5).extractLsb' 12 4).toNat) ≤ 0x400000) ∧
    (let q := (one (ringed 4#3 1)).coreAt 0 |>.ring 15#5
     ringV q = true ∧ ringCnt q ≠ 0 ∧ 0 < ringDepth q ∧ 0 < ringCnt q) ∧
    (let q := (one (ringed 4#3 0)).coreAt 0 |>.ring 15#5
     ringV q = true ∧ ringCnt q = 0) ∧ ringV ((one Core.reset).coreAt 0 |>.ring 15#5) = false := by
  unfold ringBusy; decide +kernel

/-- Two teams of one field, with the holder of the second in a gang reduction of tile 7. -/
def ganged (float : Bool) : State := { State.reset with
  cores := [(0, { with56 2#64 0#64 with task := some ⟨1, 0, 0, 0, 0, 0, 1, 1, false⟩ }),
    (16, { Core.reset with task := some ⟨1, 0, 0, 1, 0, 16, 1, 1, false⟩, contrib := .gred float 7 2 })]
  clusters := [(0, held), (1, { Cluster.awake with holder := some 16 })]
  disp := { Disp.reset with fields := [⟨1, 0, 0, [0, 1], [], [], [], 0⟩] } }

theorem witness_GangReductionCombinesTwoTeams :
    (let s := ganged true
     let k : Task := ⟨1, 0, 0, 0, 0, 0, 1, 1, false⟩
     let f : Field := ⟨1, 0, 0, [0, 1], [], [], [], 0⟩
     s.run.cur = .core 0 ∧ (s.coreAt 0).rx 5#5 = 2#64 ∧ (s.coreAt 0).task = some k ∧ s.fieldOf k = some f ∧ f.teams = [0, 1] ∧ k.team < 2 ∧
       s.holderCore 0 = some (if k.team = 0 then 0 else 16) ∧ s.holderCore 1 = some (if k.team = 0 then 16 else 0) ∧ TileClean s 0 7 ∧ TileClean s 1 7 ∧
       clusterOf 0 = (if k.team = 0 then 0 else 1) ∧ clusterOf 16 = (if k.team = 0 then 1 else 0) ∧ (s.coreAt 0).sb = [] ∧
       (s.coreAt 16).contrib = .gred true 7 2 ∧ (s.clusterAt 0).badRow = none ∧ ((s.clusterAt 0).prog.getD 7 0#64).getLsbD 7 = false) := by
  unfold TileClean; decide +kernel

/-! Atomics, fences, waits, messages and barriers. -/

theorem witness_AtomicsUpdateTheOwnScratchpad :
    (∃ p ∈ amoOps, p.1 1#5 5#5 6#5 7#3 = .amoSwapD 1#5 5#5 6#5 7#3) ∧
    (let s := one { at5 0x3FFF8 with iw := 0x280#32 }
     let c := s.coreAt 0
     c.rx 5#5 = ownPad 0x3FFF8 ∧ PadWritable 0 s 0x3FFF8 8 ∧ PadWritable 0 s 0x3FFF8 4 ∧ c.sb = [] ∧ c.watches = [] ∧ c.reply = .none ∧ c.remAsked = false ∧ c.wait = .none ∧ c.remStores = [] ∧
       c.cxl = [] ∧ c.task = none ∧ c.contrib = .none ∧ c.iw.extractLsb' 7 5 = 5#5) ∧
    (let s := one (with56 0x21FFFFFFFFF#64 0#64)
     (s.coreAt 0).reply = .none ∧ (s.coreAt 0).remAsked = false ∧ (s.coreAt 0).wait = .none ∧ ((s.coreAt 0).rx 5#5).toNat < 0x22000000000 ∧ ((s.coreAt 0).rx 5#5).toNat % 8 ≠ 0) := by
  refine ⟨⟨_, List.mem_append_left _ (List.Mem.head _), rfl⟩, ?_⟩
  unfold PadWritable PadReadable; decide +kernel

theorem witness_FencesRaiseTheClock :
    (let s := one (with56 15#64 1#64)
     let c := s.coreAt 0
     c.sb = [] ∧ c.remStores = [] ∧ c.cxl = [] ∧ c.task = none) ∧
    (let s : State := { State.reset with
       cores := [(0, { with56 15#64 1#64 with task := some ⟨1, 0, 0, 0, 0, 0, 1, 1, false⟩ })]
       disp := { Disp.reset with fields := [⟨1, 0, 0, [0], [], [0, 15], [], 0⟩] } }
     (s.coreAt 0).rx 6#5 = 1#64 ∧ s.logicalCore 0 ((s.coreAt 0).rx 5#5).toNat = some 15 ∧ 15 ≠ 0 ∧ (s.coreAt 15).sb = [] ∧ s.within 15 = false) := by
  decide +kernel

theorem witness_WaitsEndWhenTheirConditionHolds :
    (∃ p ∈ waitaOps, p.1 1#5 5#5 6#5 = .waitaEqW 1#5 5#5 6#5 ∧ p.2 = (true, 4)) ∧
    (let s := one (at5 0x3FFFC)
     let c := s.coreAt 0
     c.wait = .none ∧ c.rx 5#5 = ownPad 0x3FFFC ∧ PadReadable 0 s 0x3FFFC 4 ∧ c.sb = [] ∧ (∀ w ∈ s.home.waiters, w.2 ≠ 0) ∧
       decide (s.mem.read (kPad 0 0x3FFFC) 4 = (c.rx 6#5).toNat % 2 ^ 32) = true ∧ decide (s.mem.read (kPad 0 0x3FFFC) 4 = (c.rx 5#5).toNat % 2 ^ 32) = false ∧
       c.watches.length < 16) ∧
    (∀ k, ∀ w ∈ ((one (at5 0x3FFFC)).coreAt k).watches, w.1 ≠ 0) ∧
    ((one { Core.reset with ev := true }).coreAt 0).ev = true ∧ ((one Core.reset).coreAt 0).ev = false ∧ (one Core.reset).logicalCore 0 0 = none ∧
    (let s : State := { State.reset with
       cores := [(0, { with56 15#64 1#64 with task := some ⟨1, 0, 0, 0, 0, 0, 1, 1, false⟩ })]
       disp := { Disp.reset with fields := [⟨1, 0, 0, [0], [], [0, 15], [], 0⟩] } }
     s.logicalCore 0 ((s.coreAt 0).rx 5#5).toNat = some 15) := by
  refine ⟨⟨_, List.Mem.head _, rfl, rfl⟩, by unfold PadReadable; decide +kernel, fun k => ?_, by decide +kernel, ?_, ?_, ?_⟩
  · rcases one_coreAt (at5 0x3FFFC) k with h | h <;> rw [h] <;> decide +kernel
  all_goals decide +kernel

/-- Core 0 in a field of two teams: it sends, and core 17 receives. The plan allows messages to logical core 17, buffer 15. -/
def talking (w : Word) (rb : Word) : State := { State.reset with
  cores := [(0, { with56 (ownPad 0x3FFC0) w with task := some ⟨1, 0, 0, 0, 0, 0, 1, 0, false⟩ }),
    (17, { Core.reset with rb := Core.reset.rb.setIfInBounds 15 rb, task := some ⟨1, 0, 0, 1, 1, 17, 1, 0, false⟩ })]
  tabs := { Tabs.reset with caps := [(1, { Caps.free with plans := some [BitVec.ofNat 128 (2 ^ 127 + 8191 * 2 ^ 96 + 17 * 2 ^ 64 + 15 * 2 ^ 48 + 4095)] })] }
  disp := { Disp.reset with fields := [⟨1, 0, 0, [0, 1], [], [0, 17], [], 0⟩] } }

/-- A send word: destination 17, this buffer, the last of four slots, 64 bytes. -/
def toCore17 (b : Nat) : Word := BitVec.ofNat 64 (17 + b * 2 ^ 16 + 3 * 2 ^ 20)

/-- A buffer of four slots of 64 bytes at the end of the scratchpad. -/
def buffer4 : Word := BitVec.ofNat 64 (2 ^ 63 + 3 * 2 ^ 44 + 0x3FF00)

theorem witness_MessagesCarryBlocks :
    rbAllowed buffer4 ∧ ¬ rbAllowed (buffer4 + 64#64) ∧
    (let s := talking (toCore17 15) buffer4
     let c := s.coreAt 0
     let w := c.rx 6#5
     c.rx 5#5 = ownPad 0x3FFC0 ∧ 0x3FFC0 % 64 = 0 ∧ 0x3FFC0 + 64 * 2 ^ (w.extractLsb' 32 2).toNat ≤ 0x40000 ∧ s.inWs 0 0x3FFC0 64 = false ∧
       s.anyPoison (kPad 0 0x3FFC0) 64 = false ∧ (w.extractLsb' 32 2).toNat < 3 ∧ w.extractLsb' 13 3 = 0#3 ∧ w.extractLsb' 34 30 = 0#30 ∧
       s.inPlan 0 17 15 3 = true ∧ s.logicalCore 0 17 = some 17 ∧ s.inFlight 0 < 4 ∧ rbRejects ((s.coreAt 17).rb.getD 15 0#64) 3 64 = false) ∧
    (talking (toCore17 14) buffer4).inPlan 0 17 14 3 = false ∧
    (let s := talking (toCore17 15) buffer4
     let m : Msg := ⟨0, 17, 15, 3, 0, 0#16, List.replicate 64 7#8, 0, []⟩
     m.src = 0 ∧ m.dst = 17 ∧ m.srcInc = (s.coreAt 0).inc ∧ ((s.coreAt 17).rb.getD 15 0#64).getLsbD 63 = true ∧
       rbRejects ((s.coreAt 17).rb.getD 15 0#64) 3 m.bytes.length = false ∧ (s.coreAt 17).frz = none ∧ (s.coreAt 17).watches = []) ∧
    (((talking 0#64 0#64).coreAt 17).rb.getD 15 0#64).getLsbD 63 = false ∧ ((one { Core.reset with frz := some ⟨3, 0#64, 0#64, false, 0⟩ }).coreAt 0).frz.isSome = true ∧
    (1#16 ≠ ((talking (toCore17 15) buffer4).coreAt 0).inc) ∧
    (let c := (one (with56 0#64 0#64)).coreAt 0
     ((c.rx 5#5).extractLsb' 0 32).toNat ≤ (c.mc.getD 15 0#32).toNat) ∧
    (let c := (one (with56 1#64 0#64)).coreAt 0
     (c.mc.getD 15 0#32).toNat < ((c.rx 5#5).extractLsb' 0 32).toNat) := by
  unfold rbAllowed; decide +kernel

theorem witness_BarriersCountArrivals :
    (let v := 0x1FFFFFF#64
     v.extractLsb' 0 24 ≠ 0#24 ∧ v.extractLsb' 25 39 = 0#39) ∧ ¬ ((0x1000000#64).extractLsb' 0 24 ≠ 0#24) ∧
    (let s := talking 0#64 0#64
     let k : Task := ⟨1, 0, 0, 0, 0, 0, 1, 0, false⟩
     (s.coreAt 0).sb = [] ∧ (s.coreAt 0).remStores = [] ∧ (s.coreAt 0).cxl = [] ∧ (s.coreAt 0).task = some k ∧
       s.fieldOf k = some ⟨1, 0, 0, [0, 1], [], [0, 17], [], 0⟩ ∧ NotYetMoved s 0 127) ∧
    (((one (with56 1#64 0#64)).coreAt 0).bar.getD 127 0#64).getLsbD 57 ≠ (((one (with56 1#64 0#64)).coreAt 0).rx 5#5).getLsbD 0 ∧
    (((one (with56 0#64 0#64)).coreAt 0).bar.getD 127 0#64).getLsbD 57 = (((one (with56 0#64 0#64)).coreAt 0).rx 5#5).getLsbD 0 ∧
    NextFor 0 [⟨1, 127, some 0, 1, 5, 2, 0#16⟩, ⟨0, 127, some 0, 1, 5, 3, 0#16⟩] ⟨0, 127, some 0, 1, 5, 3, 0#16⟩ [⟨1, 127, some 0, 1, 5, 2, 0#16⟩] ∧
    NextFor 0 [⟨0, 127, none, 128, 5, 10319, 0#16⟩] ⟨0, 127, none, 128, 5, 10319, 0#16⟩ [] ∧ 0#16 = State.reset.agentInc 10319 ∧ 1#16 ≠ State.reset.agentInc 10319 ∧
    (let s := one { Core.reset with bar := (Core.reset.bar.setIfInBounds 127 0x0100000100000000#64).setIfInBounds 126 0x0000000100000000#64 }
     (s.barCycle 0 127).base.getLsbD 56 = true ∧ (s.barCycle 0 126).base.getLsbD 56 = false) :=
  ⟨by decide, by decide, by unfold NotYetMoved; decide +kernel, by decide +kernel, by decide +kernel, ⟨[⟨1, 127, some 0, 1, 5, 2, 0#16⟩], [], by decide⟩,
    ⟨[], [], by decide⟩, by decide +kernel, by decide +kernel, by decide +kernel⟩

/-- Two arrivals of two teams reach barrier 127 of core 0, whose target is 1, in one cycle. -/
theorem witness_ArrivalsOfOneCycleAddUp :
    (let u : BarUpd := ⟨0, 127, some 0, 1, 5, 2, 0#16⟩
     let v : BarUpd := ⟨0, 127, some 1, 1, 5, 3, 0#16⟩
     let s : State := { one { Core.reset with bar := Core.reset.bar.setIfInBounds 127 0x100000000#64 } with net := { Net.reset with arrivals := [u, v] } }
     let w := (s.coreAt 0).bar.getD 127 0#64
     let cnt := (w.extractLsb' 0 32).toNat + u.amount + v.amount
     s.net.arrivals = u :: v :: [] ∧ u.dst = 0 ∧ v.dst = 0 ∧ v.bar = u.bar ∧ u.bar < 128 ∧ s.idleRanks 0 0 = 0 ∧ s.idleRanks 0 1 = 0 ∧ NotYetMoved s 0 u.bar ∧
       w.getLsbD 56 = false ∧ cnt < 2 ^ 32 ∧ (w.extractLsb' 32 24).toNat < cnt) := by
  unfold NotYetMoved; decide +kernel

/-! Engines, stage queues, sealed buffers, sweeps and the controls of a core. -/

/-- A command that an engine works on. -/
def working : Cmd := ⟨1#512, 0, none, 0, 0, 0, 0, 0, 0, 1, [], none⟩
def startedCmd : Cmd := { working with start := 1 }

/-- Core 0 with a record at the end of its scratchpad and its cluster's engine as given. -/
def queued (c : Core) (x : Engine) : State := arrayed c { Cluster.awake with eng := x }

theorem witness_EnginesTakeCommands :
    (let s := queued (at5 0x3FFC0) { Engine.empty with cur := some startedCmd, shd := some startedCmd, queue := List.replicate 6 startedCmd }
     let x := s.engAt (clusterOf 0)
     0 < Config.cores ∧ ((s.coreAt 0).rx 5#5 = ownPad 0x3FFC0) ∧ RecordReadable 0 s 0x3FFC0 ∧ (s.coreAt 0).sb = [] ∧ (s.coreAt 0).remStores = [] ∧
       (s.coreAt 0).cxl = [] ∧ x.shd ≠ none ∧ 6 ≤ x.queue.length) ∧
    (let s := queued (at5 0x3FFC0) { Engine.empty with cur := some startedCmd, shd := some startedCmd, queue := List.replicate 5 startedCmd }
     let x := s.engAt (clusterOf 0)
     let raw := BitVec.ofNat 512 (bytesToNat (seenBytes 0 s 0x3FFC0 64))
     (∃ b, x.cur = some b ∧ b.start = 1) ∧ ¬ ((x.shd ≠ none ∧ 6 ≤ x.queue.length) ∨ (rawRes raw = true ∧ 8 ≤ (s.coreAt 0).results.length)) ∧
       s.unsealedNow (rawField raw 8 8) (rawField raw 24 8) = false ∧ s.sealRefs (rawField raw 8 8) (rawField raw 24 8) = [] ∧ x.last = none) ∧
    (let s := { queued (at5 0x3FFC0) Engine.empty with
       mem := (State.reset.mem.write (kPad 0 0x3FFC0 + 8) 8 0x21100000000).write (kPad 0 0x3FFC0 + 24) 8 1
       run := ⟨[], .core 0, 0, 0, [], [(0, .unseal 0 ⟨true, 0, 0, 0⟩)]⟩ }
     let raw := BitVec.ofNat 512 (bytesToNat (seenBytes 0 s 0x3FFC0 64))
     s.unsealedNow (rawField raw 8 8) (rawField raw 24 8) = true) ∧ InTurn State.reset none 0 ∧ InTurn State.reset (some (0, 0)) 0 ∧
    (let s : State := { State.reset with engines := [(15, { Engine.empty with cur := some startedCmd, shd := some startedCmd, queue := List.replicate 6 startedCmd })] }
     15 < 16 ∧ (s.engAt 1015).shd ≠ none ∧ 6 ≤ (s.engAt 1015).queue.length) ∧
    (let s : State := { State.reset with engines := [(15, { Engine.empty with cur := some startedCmd })] }
     let x := s.engAt 1015
     (∃ b, x.cur = some b ∧ b.start = 1) ∧ ¬ ((x.shd ≠ none ∧ 6 ≤ x.queue.length) ∨ (rawRes 1#512 = true ∧ 8 ≤ x.results.length)) ∧ x.held = [] ∧
       s.unsealedNow (rawField 1#512 8 8) (rawField 1#512 24 8) = false ∧ s.sealRefs (rawField 1#512 8 8) (rawField 1#512 24 8) = []) ∧
    (let r : ResElt := ⟨1#64, 128#32, 0#16, 0#16, true, 0, 1, 1⟩
     let s : State := { State.reset with engines := [(15, { Engine.empty with results := [r] })] }
     (s.engAt 1015).held = [] ∧ (s.engAt 1015).results = r :: [] ∧ r.ended = true) ∧
    (let r : ResElt := ⟨1#64, 128#32, 0#16, 0#16, true, 0, 2, 1⟩
     let s := one { at5 0x3FFF0 with results := [⟨2#64, 128#32, 0#16, 0#16, true, 0, 1, 2⟩, r] }
     endedFirst (s.coreAt 0).results r ∧ r.status ≠ 1#16 ∧ endedFirst [{ r with status := 1#16 }] { r with status := 1#16 } ∧ (s.coreAt 0).rx 5#5 = ownPad 0x3FFF0 ∧ PadWritable 0 s 0x3FFF0 16 ∧ (s.coreAt 0).sb.length < 32) ∧
    ((one Core.reset).coreAt 0).results = [] := by
  unfold RecordReadable PadWritable PadReadable endedFirst
  refine ⟨?_, ⟨⟨startedCmd, ?_⟩, ?_⟩, ?_, fun t m h => ?_, fun t m h _ => ?_, ?_, ⟨⟨startedCmd, ?_⟩, ?_⟩, ?_⟩
  pick_goal 5
  · cases h
  pick_goal 5
  · cases h; decide
  all_goals decide +kernel

/-- A copy of 128 bytes between the last blocks of two scratchpads of tenant 1 with a report to barrier 127. -/
def copyCmd : Cmd := { startedCmd with
  raw := BitVec.ofNat 512 (1 + 2 * 2 ^ 8 + 127 * 2 ^ 16 + padAddr 16 0x3FF80 * 2 ^ 64 + padAddr 31 0x3FF80 * 2 ^ 128 + 128 * 2 ^ 192), ten := 1, core := some 16 }
def copying (c : Cmd) : State := { State.reset with
  clusters := [(1, { Cluster.awake with eng := { Engine.empty with cur := some c } })], tabs := { Tabs.reset with parts := [(1, 0x20000000000000001#1024)] } }

theorem witness_SectorsCopyOrFault :
    (let s := copying copyCmd
     let c := copyCmd
     let x := s.engAt 1
     x.cur = some c ∧ c.pend = none ∧ c.start = 1 ∧ s.engAsking 1 = false ∧ c.raw.extractLsb' 0 8 = 1#8 ∧ rawField c.raw 1 1 % 2 = 0 ∧ rawRes c.raw = false ∧ c.sector = 0 ∧ c.refs = [] ∧
       rawField c.raw 4 1 = 0 ∧ rawField c.raw 32 4 = 0 ∧ rawField c.raw 36 4 = 0 ∧ rawField c.raw 24 8 = 128 ∧ x.shd = none ∧ x.queue = [] ∧ x.held = [] ∧
       rawField c.raw 8 8 = padAddr 16 0x3FF80 ∧ rawField c.raw 16 8 = padAddr 31 0x3FF80 ∧ 0x3FF80 % 128 + 128 ≤ 128 ∧ 0x3FF80 + 128 ≤ 0x40000 ∧
       s.padOpenTo c.ten 16 = true ∧ s.padOpenTo c.ten 31 = true ∧ s.inWs 16 0x3FF80 128 = false ∧ s.inWs 31 0x3FF80 128 = false ∧
       s.inArgs 31 0x3FF80 128 = false ∧ s.inSeal 31 0x3FF80 128 = false ∧ s.anyPoison (kPad 16 0x3FF80) 128 = false ∧
       s.anyPoison (kPad 31 0x3FF80) 128 = false ∧ (s.coreAt 31).watches = []) ∧
    (let c := { copyCmd with raw := BitVec.ofNat 512 (1 + 2 ^ 55 * 2 ^ 64 + padAddr 31 0x3FF80 * 2 ^ 128 + 128 * 2 ^ 192) }
     let s := copying c
     2 ^ 55 ≤ rawField c.raw 8 8 ∧ (s.fq c.ten).next - (s.fq c.ten).head < 1024 ∧ (s.engAt 1).cur = some c ∧ rawField c.raw 24 8 = 128 ∧
       rawField c.raw 1 1 % 2 = 0 ∧ rawRes c.raw = false ∧ rawField c.raw 4 1 = 0 ∧ rawField c.raw 32 4 = 0 ∧ rawField c.raw 36 4 = 0) := by
  decide +kernel

/-- Core 0 with a task of stage 1 and the queues of stages 0 and 1. -/
def staged (c : Core) (q0 q1 : StageQ) : State := { one { c with task := some ⟨1, 1, 0, 0, 0, 0, 1, 1, false⟩ } with disp := { Disp.reset with queues := [q0, q1] } }

theorem witness_StageQueuesAndSealedBuffers :
    ((one Core.reset).coreAt 0).task = none ∧
    (let k : Task := ⟨1, 0, 0, 0, 0, 0, 1, 1, false⟩
     let s := one { Core.reset with task := some k }
     (s.coreAt 0).task = some k ∧ s.stageQ k.jseq k.stage = none ∧ k.stage = 0) ∧
    (let s := staged (at5 0x3FF40) ⟨1, 0, false, 0, 0, 0, [], none, none⟩ ⟨1, 1, false, 0, 0, 0, [], none, none⟩
     (s.coreAt 0).task = some ⟨1, 1, 0, 0, 0, 0, 1, 1, false⟩ ∧ s.stageQ 1 1 = some ⟨1, 1, false, 0, 0, 0, [], none, none⟩ ∧ (s.coreAt 0).remStores = [] ∧ (s.coreAt 0).cxl = [] ∧ (s.coreAt 0).rx 5#5 = ownPad 0x3FF40 ∧
       RecordReadable 0 s 0x3FF40 ∧ (s.coreAt 0).sb = [] ∧ s.stageQ 1 (1 - 1) = some ⟨1, 0, false, 0, 0, 0, [], none, none⟩ ∧ PadWritable 0 s 0x3FF40 64 ∧
       (s.coreAt 0).sb.length < 32) ∧
    (let s := staged (at5 0x3FF40) ⟨1, 0, true, 0, 0, 0, [5#512], none, none⟩ ⟨1, 1, false, 0, 0, 0, [5#512], none, none⟩
     s.stageQ 1 1 = some ⟨1, 1, false, 0, 0, 0, [5#512], none, none⟩ ∧ 0 < [5#512].length ∧ s.stageQ 1 0 = some ⟨1, 0, true, 0, 0, 0, [5#512], none, none⟩) ∧
    (let s := one (with56 (BitVec.ofNat 64 (0x22000400000 + 0x3FFF80)) 128#64)
     let ent (i : Nat) : Seal := (s.clusterAt 0).seals.getD i ⟨false, 0, 0, 0⟩
     (s.coreAt 0).rx 5#5 = BitVec.ofNat 64 (0x22000400000 + 0x3FFF80) ∧ 0x3FFF80 < 0x400000 ∧ 0x3FFF80 % 128 = 0 ∧ ((s.coreAt 0).rx 6#5).toNat = 128 ∧ 0x3FFF80 + 128 ≤ 0x400000 ∧
       (s.coreAt 0).sb = [] ∧ (s.coreAt 0).remStores = [] ∧ (s.coreAt 0).cxl = [] ∧ (∀ i < 32, ¬ sealMeets (ent i) 0x3FFF80 128) ∧ (ent 0).s = false) ∧
    (let s := arrayed (with56 0#64 0#64) { Cluster.awake with seals := (Cluster.awake.seals.setIfInBounds 0 ⟨true, 0, 0, 0x7FFF⟩).setIfInBounds 31 ⟨true, 1, 0, 0x7FFE⟩ }
     let ent (i : Nat) : Seal := (s.clusterAt 0).seals.getD i ⟨false, 0, 0, 0⟩
     (∃ i < 32, sealMeets (ent i) 0x3FFF80 128) ∧ (s.coreAt 0).rx 5#5 = BitVec.ofNat 64 0 ∧ (ent 0).s = true ∧ (ent 0).cnt = 0 ∧ (ent 31).s = true ∧ (ent 31).cnt ≠ 0 ∧
       (ent 30).s = false) ∧
    (∀ m, ∀ st ∈ ((one (with56 0#64 0#64)).coreAt m).sb, st.inBuffer 0 0x3FFF80 128 = false) := by
  unfold RecordReadable PadWritable PadReadable sealMeets
  refine ⟨?_, ?_, ?_, ?_, ?_, ?_, fun m => ?_⟩
  pick_goal 7
  · rcases one_coreAt (with56 0#64 0#64) m with h | h <;> rw [h] <;> decide +kernel
  all_goals decide +kernel

/-! Sweeps, votes, following and the end of a task. -/

/-- The planes of a pass of two elements of 16 bits: data at the start of cluster memory, contexts and skip flags behind them; its
descriptor stands in core 0's scratchpad at 0x1000. -/
def passA : Pass := ⟨0, tasked.pc, 31, padAddr 0 0x1000, 0x22000400000, 0, 0, 1, 2, 2, 64, 0, 4, 1, 1, 0#4, 0, 0, 0, false, false, [], [], [], [], 0, false, none⟩
def sweeper (k : Cluster) : State := { State.reset with
  cores := [(0, { tasked.wx 5#5 (BitVec.ofNat 64 (padAddr 0 0x1000)) with mode := .u, wait := .sweep })]
  clusters := [(0, k)]
  mem := (State.reset.mem.write (kPad 0 0x1000) 8 0x22000400000)
  tabs := { Tabs.reset with caps := [(1, { Caps.free with st := .sealed, ten := 1, nins := 4, tensors := [⟨1, 2, 2, 64⟩], bodies := [(0, 4)] })] } }

/-- A lane of a group that has come to rest with nothing to write. -/
def resting (e : Nat) : Lane := { lane0 with elem := e, st := .idle }

theorem witness_SweepPassesRun :
    (let s := sweeper Cluster.awake
     s.descPoisoned 0 ((s.coreAt 0).rx 5#5) = none ∧ s.descPoisoned 0 ((s.coreAt 0).rx 6#5) = none ∧
       (s.coreAt 0).sb = [] ∧ (s.coreAt 0).remStores = [] ∧ (s.coreAt 0).posting = false ∧ (s.coreAt 0).sweepTrap = none ∧
       Tbl.wf Cluster.gated s.clusters = true ∧ (s.clusterAt 0).pass = none ∧ (∀ q ∈ (s.clusterAt 0).passes, q.core ≠ 0) ∧ s.passOf 0 31#5 ((s.coreAt 0).rx 5#5) = some passA ∧
       s.passOf 0 31#5 ((s.coreAt 0).rx 6#5) = none) ∧
    (let s := { sweeper { Cluster.awake with passes := [passA] } with time := ⟨1, 2 ^ 24, 0, 0⟩ }
     DescAt 0 0 0x1000 passA s ∧ passA.arrived < s.time.gtc ∧ (s.clusterAt 0).pass = none ∧ (s.clusterAt 0).passes = [passA] ∧ s.stopPending passA = false ∧ (s.coreAt passA.core).wait = .sweep ∧ passA.wakes = [] ∧
       passA.recordWaits = none ∧ passA.cur = 0 ∧ 0 < passA.count ∧ 0 < passA.width) ∧
    (let p := { passA with cur := 2 }
     let s := sweeper { Cluster.awake with passes := [p] }
     DescAt 0 0 0x1000 p s ∧ p.count ≤ p.cur ∧ s.stopPending p = false) ∧
    (let p := { passA with started := true, loaded := true, lanes := [resting 0, resting 1] }
     let s := sweeper { Cluster.awake with pass := some p }
     DescAt 0 0 0x1000 p s ∧ s.passAt 0 = some p ∧ p.loaded = true ∧ (∀ l ∈ p.lanes, l.st = .idle ∧ l.visited = false ∧ l.emits = [] ∧ l.ctx = l.leftCtx) ∧
       (∀ l ∈ p.lanes, ∀ q ∈ [(p.ctxAddr l.elem, 16), (p.dataAddr l.elem, p.elemBytes), (p.skipAddr l.elem, 8)], ∀ k ∈ [Access.fetch, .load, .store, .atomic],
         s.planeShut p q.1 q.2 k = false) ∧ p.wakes = [] ∧
       p.bodyWakes = [] ∧ p.recordWaits = none ∧ p.count ≤ p.cur + p.width ∧ s.stopPending p = false) ∧
    GroupReads passA (sweeper Cluster.awake) (min passA.width passA.count) (fun _ => 0#128) ∧ (∀ e : Nat, ((fun _ : Nat => 0#128) e).getLsbD 19 = false) := by
  unfold DescAt
  refine ⟨?_, ?_, ?_, ?_, ⟨?_, fun e h => ?_⟩, fun _ => by simp⟩
  iterate 5 · decide +kernel
  have h2 : e < 2 := h
  rcases (by omega : e = 0 ∨ e = 1) with rfl | rfl
  · exact ⟨0, 0, 0, 64, 0, 96, by decide +kernel⟩
  · exact ⟨0, 0, 0, 80, 2, 96, by decide +kernel⟩

theorem witness_SweepBodiesAndWakes :
    (let s := swept { pass0 with lanes := [lane0, { lane0 with elem := 1 }] } 1
     let l := { lane0 with elem := 1 }
     s.run.cur = .lane 0 1 ∧ (s.passAt 0).isSome = true ∧ s.laneAt 0 1 = some l ∧ l.count < 2048 ∧ pass0.fmt < 7 ∧ 0 < l.elem ∧ l.near = false ∧
       pass0.snap.find? (fun q => decide (q.1 = l.elem - 1)) = some (l.elem - 1, 0#128, [7#8, 0#8, 0#8, 0#8]) ∧ l.ctx.getLsbD 17 = false ∧
       (l.rx 8#5).extractLsb' 0 32 = 0#32 ∧ s.laneAt 0 0 = some lane0 ∧ lane0.st = .running) ∧
    (let l := { lane0 with e := lane0.e.setIfInBounds 0 2#32, ctx := 0x20000#128 }
     let p := { pass0 with count := 3, lanes := [l] }
     let s := swept p 0
     s.passAt 0 = some p ∧ s.laneAt 0 0 = some l ∧ l.elem = 0 ∧ (l.rx 8#5).extractLsb' 0 32 ≠ 0#32 ∧ l.ctx.getLsbD 17 = true ∧ (l.rx 8#5).toNat < p.count ∧
       (∀ m ∈ p.lanes, m.elem ≠ (l.rx 8#5).toNat) ∧ p.ecnt + (p.lanes.map (fun m => m.emits.length)).sum < p.ecap) ∧
    (let s := one (at5 0x3FFF0)
     (s.coreAt 0).rx 5#5 = ownPad 0x3FFF0 ∧ PadWritable 0 s 0x3FFF0 16 ∧ (s.coreAt 0).sb = [] ∧ (s.coreAt 0).remStores = [] ∧ (s.coreAt 0).posting = false ∧
       (s.coreAt 0).watches = [] ∧ (s.sweptElement 0 ((s.coreAt 0).rx 5#5)).isNone = true) ∧
    ((one (at5 0x3FFF8)).coreAt 0 |>.rx 5#5).toNat % 16 ≠ 0 := by
  unfold PadWritable PadReadable; decide +kernel

theorem witness_ControlsYieldsAndRebuilds :
    (let s := one (with56 0#64 0#64)
     let c := s.coreAt 0
     0 < Config.cores ∧ (c.rx 5#5).toNat < 16 ∧ s.tableIn c.ten ((c.rx 5#5).setWidth 4) = true ∧ c.mode = .s ∧ c.task = none ∧ c.contrib = .none ∧ s.isServer 0 = true) ∧
    (one (with56 15#64 0#64)).tableIn 0 (((one (with56 15#64 0#64)).coreAt 0 |>.rx 5#5).setWidth 4) = false ∧
    (let s := one (at5 (0x3F000 - 2560))
     let c := s.coreAt 0
     c.rx 5#5 = ownPad (0x3F000 - 2560) ∧ c.csr.wsp = BitVec.ofNat 42 (0x22000000000 + 0x3F000) ∧ 0x3F000 < 0x40000 ∧ (0x3F000 - 2560) % 256 = 0 ∧
       (0x3F000 - 2560) + 2368 ≤ 0x3FFB8 ∧ (0x3F000 - 2560) + 2368 ≤ 0x3F000 ∧ c.sb = [] ∧ c.watches = []) ∧
    (0x3FF80 < 0x40000 ∧ 0x3FF80 % 256 ≠ 0 ∧ ((one (at5 0x3FF80)).coreAt 0).rx 5#5 = ownPad 0x3FF80) ∧
    (let s := one (with56 5119#64 1#64)
     let v := (s.coreAt 0).rx 5#5
     v.toNat < 5120 ∧ buddyOf (s.pair v.toNat) = 0 ∧ s.savedIn v.toNat = none ∧ v.toNat ≠ 0) ∧
    5120 ≤ ((one (with56 5120#64 1#64)).coreAt 0 |>.rx 5#5).toNat ∧
    (let k : Task := ⟨1, 0, 0, 0, 0, 0, 1, 1, false⟩
     let s : State := { one tasked with tabs := { Tabs.reset with run := true, slots := Tabs.reset.slots.setIfInBounds 0 0x84401000#32 }
                                        disp := { Disp.reset with active := some 1 } }
     (s.coreAt 0).task = some k ∧ s.disp.active = some k.ten ∧ s.disp.drain = none ∧ s.edgeAt.isSome = true ∧ s.tabs.epoch = s.time.gtc ∧
       ({ s with time := ⟨1, 2 ^ 24, 0, 0⟩ } : State).edgeAt.isSome = true ∧ s.tabs.epoch ≠ 1) ∧
    (let s : State := { one (with56 0#64 0#64) with tabs := { Tabs.reset with caps := [(0, { Caps.free with st := .void })] } }
     (s.cap ((s.coreAt 0).rx 5#5).toNat).st = .void ∧ (s.coreAt 0).contrib = .none) ∧
    (let s : State := { one (with56 1#64 0#64) with tabs := { Tabs.reset with caps := capsules } }
     (s.cap ((s.coreAt 0).rx 5#5).toNat).st = .sealed ∧ (s.cap 2).st = .free) ∧
    (let s := one { Core.reset with contrib := .rebuild 0 true }
     (s.coreAt 0).contrib = .rebuild 0 true ∧ (s.cap 0).rb = false) := by
  decide +kernel

/-- Two teams' worth of one field of four tasks in cluster 1: cores 16 to 19 vote. -/
def voting (c : Core) (n : Contrib) : State :=
  let k (r : Nat) : Task := ⟨1, 0, 0, 0, r, r, 1, 1, false⟩
  { State.reset with
    cores := [(16, { c with task := some (k 0), iw := 0x280#32 }), (17, { Core.reset with task := some (k 1), contrib := n })]
    run := ⟨[], .core 16, 0, 0, [], []⟩
    disp := { Disp.reset with
      launches := [⟨1, 0, 1, 1, 0, 0#64, 0#64, 0, 0, [], [⟨2, 1, 1, 0⟩], true, 0, 0, 0⟩]
      fields := [⟨1, 0, 0, [1], [], [0, 1], [], 0⟩] } }

theorem witness_VotesAndFollowing :
    (∃ q ∈ voteOps, q.1 5#5 6#5 = .voteAnd 5#5 6#5 ∧ q.2.1 = 0 ∧ q.2.2.1 = false) ∧
    (let s := voting (with56 1#64 2#64) (.vote 0 false 3#32)
     let c := s.coreAt 16
     s.run.cur = .core 16 ∧ c.sb = [] ∧ c.contrib = .none ∧ c.remStores = [] ∧ c.posting = false ∧ c.lead ≠ some 16 ∧ c.iw.extractLsb' 7 5 = 5#5 ∧ c.task = some ⟨1, 0, 0, 0, 0, 0, 1, 1, false⟩ ∧
       s.fieldOf ⟨1, 0, 0, 0, 0, 0, 1, 1, false⟩ = some ⟨1, 0, 0, [1], [], [0, 1], [], 0⟩ ∧ (s.voters 16).Nodup ∧ s.voters 16 = [16, 17] ∧
       (s.coreAt 17).contrib = .vote 0 false 3#32) ∧
    (let s := voting (with56 1#64 2#64) .none
     17 ∈ s.voters 16 ∧ 17 ≠ 16 ∧ (s.coreAt 17).contrib = .none) ∧
    ((one Core.reset).coreAt 0).task = none ∧
    (let s := voting (with56 127#64 1#64) .none
     let c := s.coreAt 16
     c.lead = none ∧ (c.rx 5#5).toNat < 128 ∧ (c.rx 6#5).toNat < 16 ∧ s.rankIdle 16 (c.rx 6#5).toNat = false ∧ s.rankIdle 16 2 = true) ∧
    (let s := voting { Core.reset with contrib := .follow 127 false 0 17 true, fwd := [⟨0x13#32, 0#64, 4#64, false, false⟩], bar := Core.reset.bar.setIfInBounds 127 0x200000000000000#64 } .none
     let c := s.coreAt 16
     c.contrib = .follow 127 false 0 17 true ∧ (c.bar.getD 127 0#64).getLsbD 57 ≠ false ∧ 17 ≠ 16 ∧ c.fwd = [⟨0x13#32, 0#64, 4#64, false, false⟩] ∧ c.frzReq = false ∧ c.stepping = false) ∧
    (let s := voting { Core.reset with contrib := .follow 127 false 0 17 false } .none
     (s.coreAt 16).contrib = .follow 127 false 0 17 false ∧ ((s.coreAt 16).bar.getD 127 0#64).getLsbD 57 = false) ∧
    (let s : State := { State.reset with cores := [(0, tasked), (1, { Core.reset with lead := some 0, fwd := [⟨0x13#32, 0#64, 4#64, false, false⟩] })] }
     Tbl.wf Core.reset s.cores = true ∧ (s.coreAt 0).mode = .u ∧ 1 ≠ 0 ∧ (s.coreAt 1).lead = some 0 ∧ (s.coreAt 1).contrib = .none) ∧
    (let f : Fwd := ⟨0x4000107B#32, 0#64, Core.reset.next, false, false⟩
     let s := one { Core.reset with lead := some 1, fwd := [f] }
     Tbl.wf Core.reset s.cores = true ∧ (s.coreAt 0).lead = some 1 ∧ 1 ≠ 0 ∧ (s.coreAt 0).fwd = f :: [] ∧ (s.coreAt 0).frzReq = false ∧ (s.coreAt 0).stepping = false ∧
       f.next = (s.coreAt 0).next ∧ f.taken = false ∧ { f with taken := true }.taken = true) := by
  refine ⟨⟨_, List.Mem.head _, rfl, rfl, rfl⟩, ?_⟩
  decide +kernel

theorem witness_TaskExitEndsTheTask :
    (let k : Task := ⟨1, 0, 0, 0, 0, 0, 1, 1, false⟩
     let l : Launch := ⟨1, 0, 1, 1, 0, 0#64, 0#64, 0, 0, [], [⟨1, 1, 1, 0⟩], true, 0, 0, 0⟩
     let f : Field := ⟨1, 0, 0, [0], [], [0], [], 0⟩
     let s : State := { one { tasked with pc := 0x3E3FFFFFFFC#64 } with disp := { Disp.reset with launches := [l], fields := [f] } }
     s.run.cur = .core 0 ∧ (s.coreAt 0).mode = .u ∧ (s.coreAt 0).pc + immJ 0x00400#20 = 0x3E400000000#64 ∧ (s.coreAt 0).task = some k ∧ s.launch k.jseq = some l ∧
       s.fieldOf k = some f ∧ 0x22000000000 ≤ (s.coreAt 0).csr.wsp.toNat ∧ (s.coreAt 0).csr.wsp.toNat - 0x22000000000 + 2368 ≤ 0x40000 ∧
       f.tasks (l.stage k.stage) ≤ f.ended.length + 1 ∧ (s.coreAt 0).pc + immB 0#7 4#5 = 0x3E400000000#64) ∧
    (let s := one (tasked.wx 5#5 0x3E400000001#64)
     ((s.coreAt 0).rx 5#5 + BitVec.ofInt 64 (0#12).toInt) &&& ~~~1#64 = 0x3E400000000#64) ∧
    ∃ p ∈ branchOps, p.2 ((one tasked).coreAt 0 |>.rx 0#5) ((one tasked).coreAt 0 |>.rx 0#5) := by
  refine ⟨?_, ?_, ⟨_, List.Mem.head _, by decide⟩⟩ <;>
  decide +kernel

/-! Launches, fields, clocks and slots. -/

/-- A launch record of capsule 1 with one task of width 1 in stage 0 and the completion address 0. -/
def record1 (caddr : Nat) : List Byte := natToBytes 256 (1 + caddr * 2 ^ 128 + 1 * 2 ^ 384 + 1 * 2 ^ 416 + 1 * 2 ^ 2040)

/-- A level-2 entry that maps a host page at 0, read, written and accessed. -/
def hostPage : Nat := 1 + 10 * 4 + 64 + 128 + 1024 + 4096 + 8192

/-- The module with tenant 1's partition, capsule 1, and a level-2 table at 0x40 that maps the first page to host memory. -/
def mapped1 (page : Nat) : State := { State.reset with
  mem := (State.reset.mem.write (kLpddr 0) 8 0x40).write (kLpddr 0x40) 8 page
  tabs := { Tabs.reset with parts := [(1, 0x20000000000000001#1024)], caps := [(1, { Caps.free with st := .sealed, ten := 1, nins := 1, stages := [(0, 0, 0)] })] } }

def landed (caddr : Nat) : State := { mapped1 hostPage with disp := { Disp.reset with landings := [⟨16, record1 caddr, 0⟩] }, time := ⟨1, 2 ^ 24, 0, 0⟩, home := { Home.reset with llc := [⟨0, 0, false, false, false, 0, 3, 5⟩] } }

/-- A launch whose only task has ended. -/
def overLaunch : Launch := ⟨1, 16, 1, 1, 0, 0#64, 0#64, 0, 0, [], [⟨1, 1, 1, 1⟩], true, 0, 1, 0⟩

/-- A state that the completion-address walk leaves as it is, with the page it gives. -/
def walksTo (s : State) (l : Launch) (e : Option TlbEntry) : Bool := match s.caddrPage l with | .ok (u, r) => decide (u = s) && decide (r = e) | .error _ => false

theorem walksTo_eq {s : State} {l : Launch} {e : Option TlbEntry} (h : walksTo s l e = true) : s.caddrPage l = .ok (s, e) := by
  unfold walksTo at h
  split at h
  · simp only [Bool.and_eq_true, decide_eq_true_eq] at h
    obtain ⟨rfl, rfl⟩ := h; assumption
  · cases h

/-- The page of a completion address in the first page of host memory. -/
def hostEntry : TlbEntry := ⟨1, 0, 0, 2 ^ 30, 0, 1, true, true, false, false, true⟩

/-- A launch whose task has not ended. -/
def abortedLaunch : Launch := { overLaunch with stages := [⟨1, 1, 1, 0⟩] }

/-- Its one task stands saved in its tenant's context. -/
def suspended : State :=
  let k : Task := ⟨1, 0, 0, 0, 0, 0, abortedLaunch.caps, abortedLaunch.ten, false⟩
  { mapped1 0 with
    home := { Home.reset with llc := [⟨0, 0, false, false, false, 0, 3, 5⟩] }
    tabs := { Tabs.reset with parts := [(1, 0x20000000000000001#1024)], caps := [(abortedLaunch.caps, { Caps.free with st := .sealed, nctx := 1#16, nrun := 1#16 })] }
    disp := { Disp.reset with
      launches := [abortedLaunch], fields := [⟨1, 0, 0, [1], [], List.range 16, [], 0⟩]
      ctxs := [(abortedLaunch.ten, { Ctx.empty with cores := [(16, { Core.reset with task := some k })] })] } }

theorem witness_LaunchesLandAndEnd :
    (255 < 256 ∧ 5#8 ≠ 0#8 ∧ 5#8 ≠ State.reset.pendingSeq 255) ∧
    (let s := landed 8
     s.disp.landings = [⟨16, record1 8, 0⟩] ∧ 0 < s.time.gtc ∧ s.journalFull = false ∧ (s.launchOf ⟨16, record1 8, 0⟩).caddr.toNat % 64 ≠ 0) ∧
    (let s := landed 0
     let l := s.launchOf ⟨16, record1 0, 0⟩
     0 < s.time.gtc ∧ s.journalFull = false ∧ walksTo s l (some hostEntry) = true ∧ s.parseStatus l (record1 0) true = 0 ∧ l.dep0 = 0 ∧ l.dep1 = 0 ∧
       l.over = false ∧ (∀ m ∈ s.disp.launches, m.jseq ≠ l.jseq)) ∧
    (let l := { overLaunch with running := false, dep0 := 1, jseq := 2 }
     let s : State := { mapped1 hostPage with
       disp := { Disp.reset with launches := [l] }, home := { Home.reset with llc := [⟨0, 0, false, false, false, 0, 3, 5⟩] }
       mem := (mapped1 hostPage).mem.write (kCtrl (journalOff 1 + 9)) 1 4 }
     s.disp.launches = [l] ∧ l.running = false ∧ s.depBad l = true ∧ walksTo s l (some hostEntry) = true ∧ s.home.replicas = []) ∧
    (let l := overLaunch
     let s : State := { mapped1 hostPage with disp := { Disp.reset with launches := [l] }, home := { Home.reset with llc := [⟨0, 0, false, false, false, 0, 3, 5⟩] } }
     s.disp.launches = [l] ∧ l.running = true ∧ l.over = true ∧ s.engineWorks (fun c => decide (c.jseq = l.jseq)) = false ∧ s.home.replicas = [] ∧
       walksTo s l (some hostEntry) = true ∧ hostEntry.bk = 1 ∧ hostEntry.key 0 + 64 ≤ space 2) ∧
    (∀ n, (State.reset.coreAt n).sb = [] ∧ (State.reset.coreAt n).remStores = [] ∧ (State.reset.coreAt n).cxl = []) ∧
    (walksTo suspended abortedLaunch none = true ∧ suspended.disp.launches = [abortedLaunch] ∧ suspended.abortable abortedLaunch = true ∧ suspended.home.replicas = []) ∧
    ∀ n, (suspended.coreAt n).sb = [] ∧ (suspended.coreAt n).remStores = [] ∧ (suspended.coreAt n).cxl = [] := by
  refine ⟨?_, ?_, ?_, ?_, ?_, fun n => ⟨rfl, rfl, rfl⟩, ?_, fun n => ⟨rfl, rfl, rfl⟩⟩ <;> decide +kernel

/-- An abort ends the launch with STATE 5 and STATUS 7 (R189, R192), and the saved task is counted off NCTX and NRUN (R242). -/
theorem test_server_abort :
    let t := suspended.serverAbort 1
    t.mem.byte (kCtrl (journalOff 1 + 9)) = 5#8 ∧ t.mem.byte (kCtrl (journalOff 1 + 16)) = 7#8 ∧ (t.cap 1).nctx = 0#16 ∧ (t.cap 1).nrun = 0#16 ∧
      t.disp.ctxs = [] ∧ t.disp.fields = [] := by decide +kernel

/-- An accepted launch of 17 tasks in fields of two teams, with 9 arguments. -/
def wideLaunch (placed : Nat) : Launch := ⟨1, 16, 1, 1, 0, 0#64, 0#64, 0, 0, List.replicate 9 7#64, [⟨17, 2, placed, 0⟩], true, 0, 0, 0⟩

theorem witness_FieldsArePlacedAndLoaded :
    (let l := wideLaunch 0
     let s : State := { State.reset with
       tabs := { Tabs.reset with parts := [(1, 0x60000000000000001#1024)], caps := [(1, { Caps.free with st := .sealed, ten := 1, nins := 1, stages := [(0, 0, 0)] })] }
       disp := { Disp.reset with launches := [l], active := some 1 } }
     s.launch 1 = some l ∧ l.running = true ∧ (l.stage 0).waits = true ∧ s.slotActive l.ten = true ∧ s.stageTurn l 0 = true ∧ s.picks l 0 = some ([1, 2], []) ∧ (s.cap l.caps).gang 0 = none ∧ s.keptStages l 0 = []) ∧
    (let l := wideLaunch 1
     let f : Field := ⟨1, 0, 0, [1, 2], [], [], [], 0⟩
     let s : State := { State.reset with
       clusters := [(1, Cluster.awake), (2, Cluster.awake)]
       tabs := { Tabs.reset with parts := [(1, 0x60000000000000001#1024)] }
       disp := { Disp.reset with launches := [l], fields := [f], active := some 1 } }
     s.disp.active = some 1 ∧ s.slotActive 1 = true ∧ s.loadField 1 32 = some f ∧ s.launch f.jseq = some l ∧ f.teams.idxOf? (clusterOf 32) = some 1 ∧
       (s.coreAt 32).sb = [] ∧ (s.coreAt 32).watches = [] ∧ s.coreQuiet 32 = true ∧ l.args.length = 9 ∧ s.fieldOf (taskAt l f 1 (32 % 16)) = some f ∧ (taskAt l f 1 (32 % 16)).idle = false) ∧
    (let s : State := { State.reset with clusters := [(319, Cluster.awake)], time := ⟨65536, 2 ^ 24, 0, 256⟩ }
     s.gateable 319 = true ∧ s.owned 319 = false) ∧
    (let s : State := { State.reset with clusters := [(319, { Cluster.gated with power := .waking 7200 })], time := ⟨7200, 2 ^ 24, 0, 28⟩ }
     (s.clusterAt 319).power = .waking 7200 ∧ Memory.wf s.mem = true ∧ 7200 ≤ s.time.gtc) := by
  decide +kernel

theorem witness_ClocksMoveAsTheRulesSay :
    Tbl.wf Core.reset State.reset.cores = true ∧ State.reset.ceil < 2 ^ 31 + 2 ^ 30 ∧
    (let s : State := { State.reset with time := ⟨(2 ^ 31 + 2 ^ 30 - 2 ^ 24) * 256, 2 ^ 24, 0, 0⟩ }
     2 ^ 31 + 2 ^ 30 ≤ s.ceil ∧ ∀ n, (s.coreAt n).sb = []) ∧
    (let s : State := { one tasked with time := ⟨3600000, 2 ^ 24, 0, 14062⟩, disp := { Disp.reset with active := some 1 } }
     Tbl.wf Core.reset s.cores = true ∧ s.watched52 0 (s.coreAt 0) = true ∧ (s.coreAt 0).lastRet + 3600000 ≤ s.time.gtc ∧ s.coreAt 0 ≠ Core.reset) ∧
    (let s : State := { one tasked with clusters := [(0, { held with lwait := [15], lidle := 65537 })], disp := { Disp.reset with active := some 1 } }
     s.leaseIdle 0 = true ∧ 65537 ≤ (s.clusterAt 0).lidle ∧ (s.clusterAt 0).holder = some 0 ∧ (s.clusterAt 0).lwait = [15] ∧ clusterOf 15 = 0) ∧
    (let s : State := { one { tasked with wait := .barrier } with disp := { Disp.reset with active := some 1, quiet := [(1, 65536)] } }
     s.disp.active = some 1 ∧ s.slotActive 1 = true ∧ s.quiescent 1 = true ∧ s.disp.quietRaised.contains 1 = false ∧ 65536 ≤ Tbl.get 0 s.disp.quiet 1 ∧
       (s.fq 1).next - (s.fq 1).head < 1024) :=
  ⟨by decide +kernel, by decide +kernel, ⟨by decide +kernel, fun _ => rfl⟩, by and_intros <;> decide +kernel⟩

theorem witness_SlotsTurnOver :
    (let s : State := { State.reset with
       time := ⟨262144, 2 ^ 24, 0, 1024⟩
       tabs := { Tabs.reset with run := true, slots := (Tabs.reset.slots.setIfInBounds 0 0x80400040#32).setIfInBounds 63 0x80800040#32 }
       disp := { Disp.reset with active := some 1 } }
     s.edgeAt = some 262144 ∧ 262144 ≤ s.time.gtc ∧ s.ceil < 2 ^ 31 ∧ s.tabs.badCfg = [] ∧ s.tabs.fwPend = none ∧ s.disp.drain = none ∧ s.disp.active = some 1 ∧
       s.disp.forfeit = [] ∧ s.tabs.stream = none ∧ (validSlots s.tabs.slots).find? (fun j => decide (s.tabs.cur < j)) = some 63 ∧
       ((s.tabs.slots.getD 63 0#32).extractLsb' 22 4).toNat ≠ 1 ∧ s.ckptDue 1 = false) ∧
    (let d : Drain := ⟨none, 0, 0, false, some 15, false, none, none⟩
     let s : State := { State.reset with disp := { Disp.reset with drain := some d } }
     s.disp.drain = some d ∧ d.update = false ∧ d.ten = none ∧ d.next = some 15 ∧ s.tabs.stream = none ∧ s.disp.ctxs = []) ∧
    (let d : Drain := ⟨some 1, 0, 0, false, none, false, none, none⟩
     let s : State := { State.reset with
       disp := { Disp.reset with drain := some d, active := some 1, launches := [wideLaunch 1], fields := [⟨1, 0, 0, [1, 2], [], [], [], 0⟩] } }
     s.disp.drain = some d ∧ d.ten = some 1 ∧ d.next = none ∧ Tbl.wf Core.reset s.cores = true ∧ s.drainReady 1 = true ∧ s.teamCoresOf 1 ≠ []) ∧
    (∀ n, (State.reset.coreAt n).sb = []) ∧
    (let d : Drain := ⟨some 1, 0, 0, false, none, false, none, none⟩
     let s : State := { State.reset with time := ⟨90000, 2 ^ 24, 0, 351⟩, disp := { Disp.reset with drain := some d } }
     s.disp.drain = some d ∧ d.overrun = false ∧ d.started + 90000 ≤ s.time.gtc ∧ (s.fq 1).next - (s.fq 1).head < 1024) ∧
    (let s : State := { State.reset with tabs := { Tabs.reset with stream := some (15, true) } }
     s.tabs.stream = some (15, true) ∧ s.home.dir = [] ∧ ∀ l ∈ s.home.llc, l.ov = false) ∧ Memory.wf State.reset.mem = true := by
  refine ⟨?_, ?_, ?_, fun _ => rfl, ?_, ?_, ?_⟩ <;> decide +kernel

/-! Homes, hosts, what lies outside, faults and translation. -/

/-- A line of LPDDR at its home. -/
def line9 : LlcLine := ⟨9, 0, false, false, false, 0, 3, 5⟩
/-- A core's own copy of it. -/
def own9 : L1Line := ⟨9, true, 3#2, 3#2, false, 3, 5, false, 1#1024⟩
def atHome9 (c : Core) (l : LlcLine) : State := { one c with home := { Home.reset with llc := [l] } }

theorem witness_HomesGrantLeases :
    (let s := atHome9 Core.reset line9
     0 < 5120 ∧ s.lineAtHome 9 = true ∧ HomesQuiet s ∧ s.llcFind 9 = some line9 ∧ (s.coreAt 0).validCopy 9 = false ∧
       ((l1Drop (s.coreAt 0).l1 9).filter (fun b => decide (b.line % 64 = 9 % 64))).length < 8) ∧
    (let st : Store := ⟨.cached (9 * 128 + 127), [some 7#8], 0⟩
     let s := atHome9 { Core.reset with sb := [st] } line9
     HomesQuiet s ∧ lineOf (9 * 128 + 127) = 9 ∧ s.llcFind 9 = some line9 ∧ (s.coreAt 0).sb = [st] ∧ (s.coreAt 0).l1 = []) ∧
    (let st : Store := ⟨.scratch 5119 0x3FFFF, [some 7#8], 0⟩
     let s := one { Core.reset with sb := [st] }
     (s.coreAt 0).sb = [st] ∧ (s.coreAt 0).remStores = [] ∧ (s.coreAt 0).posting = false ∧ s.inWs 5119 0x3FFFF st.bytes.length = false ∧ (s.coreAt 5119).watches = []) ∧
    (let st : Store := ⟨.cached (9 * 128 + 127), [some 7#8], 0⟩
     let s := atHome9 { Core.reset with sb := [st], l1 := [own9] } { line9 with ov := true }
     (s.coreAt 0).sb = [st] ∧ s.home.dir = [] ∧ l1Find (s.coreAt 0).l1 9 = some own9 ∧ own9.owned = true ∧ own9.watch = false ∧ s.watched 9 = false ∧
       max (s.coreAt 0).csr.lclk (own9.fin + 1) ≤ s.ceil) ∧
    (let s := atHome9 { Core.reset with l1 := [own9] } { line9 with ov := true }
     s.llcFind 9 = some { line9 with ov := true } ∧ (∀ r ∈ s.home.recalls, r.1 ≠ 9)) ∧
    (let s : State := { one { Core.reset with l1 := [own9] } with home := { Home.reset with llc := [{ line9 with ov := true }], recalls := [(9, 0, 0#16)] } }
     (∃ r ∈ s.home.recalls, r.1 = 9 ∧ r.2.1 = 0) ∧ l1Find (s.coreAt 0).l1 9 = some own9 ∧ own9.owned = true ∧ BitVec.ofNat 16 0 = (s.coreAt 0).inc ∧
       BitVec.ofNat 16 1 ≠ (s.coreAt 0).inc) := by
  unfold HomesQuiet
  refine ⟨?_, ?_, ?_, ?_, ?_, ⟨(9, 0, 0#16), ?_⟩, ?_⟩ <;> decide +kernel

theorem witness_WriteBacksAndWakesArrive :
    (let s := atHome9 { Core.reset with l1 := [own9] } { line9 with ov := true }
     l1Find (s.coreAt 0).l1 9 = some own9 ∧ own9.owned = true ∧ own9.hdirty ≠ 0#2 ∧ (s.coreAt 0).vb.length < 8) ∧
    (let a := { own9 with hdirty := 0#2 }
     let s := atHome9 { Core.reset with l1 := [a] } { line9 with ov := true }
     l1Find (s.coreAt 0).l1 9 = some a ∧ a.owned = true ∧ a.hdirty = 0#2 ∧ s.llcFind 9 = some { line9 with ov := true }) ∧
    (let a := { own9 with granted := true }
     let s := atHome9 { Core.reset with vb := [a] } { line9 with ov := true }
     l1Find (s.coreAt 0).vb 9 = some a ∧ s.llcFind 9 = some { line9 with ov := true } ∧ BitVec.ofNat 16 0 = (s.coreAt 0).inc ∧ a.granted = true ∧ own9.granted = false) ∧
    (let s : State := { one { Core.reset with wait := .waita true } with home := { Home.reset with waiters := [(9, 0)], wakes := [9] } }
     9 ∈ s.home.wakes ∧ (9, 0) ∈ s.home.waiters ∧ (s.coreAt 0).wait = .waita true) ∧
    (let s := one { Core.reset with wait := .waita true }
     (s.coreAt 0).wait = .waita true ∧ s.registered 0 = false) := by
  decide +kernel

/-- A directory entry of one line, 9, with agent 3 holding both halves modified. -/
def entry9 : DirEntry := ⟨sliceOf 9, 9, 9, 0x000F#16, 0⟩

/-- A host agent reaches tenant 0's package scratchpad at its home. -/
theorem host_pkg {s : State} {ten asid ea n off : Nat} (k : Access) (h : s.region none (BitVec.ofNat 64 ea) = .pkg off) (b : off + n ≤ s.pkgBytes ten) :
    s.hostPlace ten asid ea n k = .ok (s, .home (kPkg ten off)) := by
  unfold State.hostPlace; rw [h]; simp [b]

/-- A prism window is no place for a host agent. -/
theorem host_window {s : State} {ten asid ea n : Nat} (k : Access) (h : s.region none (BitVec.ofNat 64 ea) = .absent) :
    s.hostPlace ten asid ea n k = .ok (s, .abort) := by
  unfold State.hostPlace; rw [h]

/-- The package scratchpad's first line with agent 3 holding both halves modified. -/
def entryPkg : DirEntry := ⟨sliceOf (lineOf (kPkg 0 0)), 9, lineOf (kPkg 0 0), 0x000F#16, 0⟩

theorem witness_HostsAndDirectory :
    (let s := atPkg [] pkgLine
     HomesQuiet s ∧ s.writesHome (kPkg 0 127) [1#8] = true ∧ s.llcFind (lineOf (kPkg 0 127)) = some pkgLine ∧ pkgLine.rts + 1 ≤ s.ceil ∧ 3 < 4 ∧
       0x2000000007F % 128 + [1#8].length ≤ 128 ∧ 1#16 ≠ s.agentInc 12003 ∧ (1000 ≤ 1015 ∧ 1015 < 1016)) ∧
    (atPkg [] pkgLine).hostPlace 0 0 0x2000000007F 1 .store = .ok (atPkg [] pkgLine, .home (kPkg 0 127)) ∧
    (HomesQuiet (atPkg [] pkgLine) ∧ 0 < 128 ∧ kPkg 0 0 % 128 + 128 ≤ 128 ∧ (atPkg [] pkgLine).atHome (kPkg 0 0) 128 = true) ∧
    (atPkg [] pkgLine).hostPlace 0 0 0x20000000000 128 .load = .ok (atPkg [] pkgLine, .home (kPkg 0 0)) ∧
    (3 < 4 ∧ 1 < 2 ∧ State.reset.hostHalf ⟨0x22010000000#64, 0, 0⟩ 1 .store = .ok (State.reset, .abort) ∧ ∀ key, HostPlace.abort ≠ .home key) ∧
    (3 < 4 ∧ 1 < 2 ∧ HostHold.m ≠ .i ∧ (atPkg [] pkgLine).lineAtHome (lineOf (kPkg 0 0)) = true) ∧
    (atPkg [] pkgLine).hostHalf ⟨0x20000000000#64, 0, 0⟩ 1 .store = .ok (atPkg [] pkgLine, .home (lineOf (kPkg 0 0) * 128 + 64 * 1)) ∧
    (let s : State := { atPkg [] pkgLine with home := { Home.reset with dir := [entryPkg] } }
     s.home.dir = [entryPkg] ∧ entryPkg.slice = sliceOf (lineOf (kPkg 0 0)) ∧ entryPkg.sz = 9 ∧ entryPkg.base = lineOf (kPkg 0 0) ∧ 3 < 4 ∧ 3 ≠ 0 ∧ HostHold.m ≠ .s ∧
       agGet entryPkg.ag 3 1 ≠ 0 ∧ s.hostHalf ⟨0x20000000000#64, 0, 0⟩ 1 .store = .ok (s, .home (lineOf (kPkg 0 0) * 128 + 64 * 1))) ∧
    (let r : HostRecall := ⟨3, 9, 1, true⟩
     let s : State := { atHome9 Core.reset line9 with home := { Home.reset with llc := [line9], dir := [entry9], hostRecalls := [r] } }
     s.home.hostRecalls = [r] ∧ s.home.dir = [entry9] ∧ 1#16 ≠ s.agentInc (12000 + r.agent) ∧ 2 ≤ agGet entry9.ag r.agent r.half ∧ (∀ b, b < 4 → b ≠ r.agent → agGet entry9.ag b r.half = 0) ∧
       s.llcFind r.line = some line9 ∧ line9.ov = false ∧ line9.rts + 1 ≤ s.ceil) ∧
    ((0x20000000004#64).toNat % 8 ≠ 0 ∧
      (let s := atPkg [] pkgLine
       (0x20000000078#64).toNat % 8 = 0 ∧ kPkg 0 120 % 8 = 0 ∧ HomesQuiet s ∧ s.atHome (kPkg 0 120) 8 = true ∧ s.anyPoison (kPkg 0 120) 8 = false ∧
         s.llcFind (lineOf (kPkg 0 120)) = some pkgLine)) ∧
    (atPkg [] pkgLine).hostPlace 0 0 (0x20000000078#64).toNat 8 .atomic = .ok (atPkg [] pkgLine, .home (kPkg 0 120)) ∧
    (let a : DirEntry := ⟨0, 8, 0, 0x1#16, 0⟩
     let b : DirEntry := ⟨0, 8, dirLines 8, 0x1#16, 0⟩
     let s : State := { State.reset with home := { Home.reset with dir := [a, b] }, time := ⟨2 ^ 20, 2 ^ 24, 0, 4096⟩ }
     s.home.dir = [a, b] ∧ s.home.hostRecalls = [] ∧ a.slice = b.slice ∧ a.sz = b.sz ∧ 0 < a.sz ∧ a.sz < 9 ∧ b.base = a.base + dirLines a.sz ∧
       a.base % dirLines (a.sz - 1) = 0 ∧ a.ag = b.ag ∧ a.last + 2 ^ 20 ≤ s.time.gtc ∧ b.last + 2 ^ 20 ≤ s.time.gtc) := by
  unfold HomesQuiet
  refine ⟨?_, ?_, ?_, ?_, ⟨?_, ?_, ?_, ?_⟩, ?_, ?_, ⟨?_, ?_, ?_, ?_, ?_, ?_, ?_, ?_, ?_⟩, ?_, ?_, ?_, ?_⟩
  pick_goal 2
  · exact host_pkg _ (by decide +kernel) (by decide +kernel)
  pick_goal 3
  · exact host_pkg _ (by decide +kernel) (by decide +kernel)
  pick_goal 5
  · unfold State.hostHalf; exact host_window _ (by decide +kernel)
  pick_goal 5
  · intro key h; cases h
  pick_goal 6
  · unfold State.hostHalf; exact host_pkg _ (by decide +kernel) (by decide +kernel)
  pick_goal 14
  · unfold State.hostHalf; exact host_pkg _ (by decide +kernel) (by decide +kernel)
  pick_goal 16
  · exact host_pkg _ (by decide +kernel) (by decide +kernel)
  all_goals decide +kernel

theorem witness_TheOutsideAnswersAndAsks :
    ((one { Core.reset with cxl := [.write 5 [some 1#8]] }).coreAt 0).cxl = [.write 5 [some 1#8]] ∧
    ((one { Core.reset with cxl := [.read 5 8] }).coreAt 0).cxl = [.read 5 8] ∧
    (let s : State := { one { Core.reset with cxl := [.atomic 8 8 2 1#64 0#64], wait := .atomicOp 0 } with time := ⟨900000, 2 ^ 24, 0, 3515⟩ }
     (s.coreAt 0).cxl = .atomic 8 8 2 1#64 0#64 :: [] ∧ (s.coreAt 0).contrib = .none ∧ (s.coreAt 0).wait = .atomicOp 0 ∧ 0 + 900000 ≤ s.time.gtc) ∧
    (let s := atPkg [] pkgLine
     0 < 16 ∧ 0 < 8 ∧ 0 % 128 + 8 ≤ 128 ∧ 0 + 8 ≤ s.pkgBytes 0 ∧ HomesQuiet s ∧ s.anyPoison (kPkg 0 0) 8 = false ∧ s.partPoison (kPkg 0 0) 8 = false ∧
       s.llcFind (lineOf (kPkg 0 0)) = some pkgLine ∧ pkgLine.rts + 1 ≤ s.ceil) ∧
    ({ Net.reset with outs := [.loadAsk 9999 0#64 8] }.outs = [.loadAsk 9999 0#64 8] ∧ 9999 < 10000) ∧
    ({ Net.reset with outs := [.storeAsk 9999 0#64 [some 1#8]] }.outs = [.storeAsk 9999 0#64 [some 1#8]]) ∧
    ((one { Core.reset with cxl := [.write 5 [some 1#8], .atomic 8 8 2 1#64 0#64] }).coreAt 0).cxl = .write 5 [some 1#8] :: [.atomic 8 8 2 1#64 0#64] ∧
    (CxlReq.write 5 [some 1#8]).isAtomic = false ∧ 1#16 ≠ State.reset.agentInc (13000 + ((0#64).extractLsb' 42 12).toNat) ∧
    (5119 < 5120 ∧ (13000 ≤ 15303 ∧ 15303 < 13000 + 2304) ∧ 5120 ≤ 15304 ∧ ¬ ((10000 ≤ 15304 ∧ 15304 < 10320) ∨ (11000 ≤ 15304 ∧ 15304 < 11016) ∨
      (12000 ≤ 15304 ∧ 15304 < 12004) ∨ (13000 ≤ 15304 ∧ 15304 < 13000 + 2304)) ∧ 35 < 36 ∧ 35 ∉ State.reset.tabs.linkDown ∧ 36 ≤ 36) ∧
    (let s : State := { State.reset with tabs := { Tabs.reset with linkFails := [(35, 15)] } }
     15 ≤ Tbl.get 0 s.tabs.linkFails 35) := by
  unfold HomesQuiet; decide +kernel

theorem witness_FaultsAreCountedAndPoison :
    (let s := atHome9 Core.reset line9
     s.llcFind 9 = some line9) ∧ Tbl.wf Core.reset State.reset.cores = true ∧
    (255 < 256 ∧ 5119 < 5120 ∧ (State.reset.busy 0 || State.reset.isServer 0) = true) ∧
    (let s := one { Core.reset with check := true }
     s.run.cur = .core 0 ∧ s.runs 0 = true ∧ (s.coreAt 0).check = true ∧ (s.coreAt 0).midway = false ∧ s.sweeping 0 = false ∧ s.trapsSelf 0 51 = true) ∧
    (let e : TlbEntry := ⟨1, 0, 0, 4096, 0, 0, true, true, true, false, true⟩
     let x : TlbEntry := { e with va := 4096 }
     e.ten = 1 ∧ e.asid = 0 ∧ e.va ≤ 4095 ∧ 4095 < e.va + e.size ∧ ¬ x.va ≤ 4095 ∧ ((one { Core.reset with tlb := [x, e] }).coreAt 0).tlb = [x] ++ e :: [] ∧
       ((arrayed Core.reset { Cluster.awake with tlb := [x, e] }).clusterAt 0).tlb = [x] ++ e :: []) ∧
    (319 < 320 ∧ 7 < 8 ∧ 63 < 64 ∧ 95 < 96 ∧ (64 * 7 + 63, 95) ∉ (State.reset.clusterAt 319).accPoison) ∧
    (3 < 4 ∧ State.reset.tabs.badCfg.contains 3 = false) ∧ (State.reset.run.cur = .core 0 ∧ State.reset.trapsSelf 0 2 = true) ∧ 31 < 32 := by
  decide +kernel

/-- A level-2 entry that maps an LPDDR page of 2^30 bytes at 0, readable, writable and executable. -/
def lpddrPage : Nat := 1 + 10 * 4 + 64 + 128 + 256

/-- Core 0 works for tenant 1, whose table maps its first page to LPDDR granule 0, which it owns. -/
def paging (page : Nat) : State := { mapped1 page with
  cores := [(0, { Core.reset with csr := { Csr.reset with ptag := 1#32 } })]
  tabs := { (mapped1 page).tabs with owners := [(0, some 1)] }
  home := { Home.reset with llc := [⟨0, 0, false, false, false, 0, 3, 5⟩] } }

/-- A command with OP `op` and its fields waits in a block. -/
def blocked (b off : Nat) (m : Mem) (op : Nat) : State := { State.reset with
  mem := m.write (kCtrl off) 1 op
  tabs := { Tabs.reset with blocks := [(b, ⟨1#64, none, some (1#64, 0), BitVec.ofNat 448 ((m.write (kCtrl off) 1 op).read (kCtrl off) 56)⟩)], parts := [(1, 0x20000000000000001#1024)] } }

theorem witness_TranslationsWalkAndLeave :
    (let s := paging lpddrPage
     let c := s.coreAt 0
     let va : Word := 0x3FFFFFFF#64
     let ptr := s.mem.read (kLpddr (partRoot (s.part c.ten) + 8 * c.asid)) 8
     let ea := ptr + 8 * natBits va.toNat 40 30
     let e := s.mem.read (kLpddr ea) 8
     0 < 5120 ∧ va.toNat < 2 ^ 41 ∧ HomesQuiet s ∧ c.tlb = [] ∧ (s.clusterAt (clusterOf 0)).tlb = [] ∧
       s.llcFind (lineOf (kLpddr ea)) = some ⟨0, 0, false, false, false, 0, 3, 5⟩ ∧ 5 + 1 ≤ s.ceil ∧ natBit e 0 = true ∧ natBit e 1 = false ∧ natBits e 23 14 = 0 ∧
       natBits e 11 10 = 0 ∧ 10 ≤ natBits e 5 2 ∧ natBits e 63 24 * 4096 % pageSize (natBits e 5 2) = 0 ∧ s.frameOwner (natBits e 63 24 * 4096) = some c.ten ∧
       natBit e (permitBit .store) = true) ∧
    (let s := paging 0
     let c := s.coreAt 0
     let ptr := s.mem.read (kLpddr (partRoot (s.part c.ten) + 8 * c.asid)) 8
     HomesQuiet s ∧ natBit (s.mem.read (kLpddr (ptr + 8 * natBits 0 40 30)) 8) 0 = false ∧ s.runs 0 = true ∧ c.wait = .none ∧ c.reply = .none ∧ c.lead = none) ∧
    (let x : TlbEntry := ⟨0, 0, 0, 4096, 0, 0, true, true, true, false, true⟩
     let c := (one { Core.reset with tlb := [x] }).coreAt 0
     c.tlb.find? (fun x => x.serves c.ten c.asid 4095 .store) = some x) ∧
    (let s := blocked 0 0x10080000 ((State.reset.mem.write (kCtrl (0x10080000 + 1)) 1 1).write (kCtrl (0x10080000 + 16)) 8 1) 1
     BlockWaits s 0 1#64 ∧ s.trGood = true ∧ s.tenGood s.trTen = true ∧ s.trOp = 1 ∧ Tbl.wf Cluster.gated s.clusters = true) ∧
    (let s := blocked 0 0x10080000 ((State.reset.mem.write (kCtrl (0x10080000 + 1)) 1 1)) 2
     s.trGood = true ∧ s.tenGood s.trTen = true ∧ s.trOp = 2) ∧
    (let s := blocked 0 0x10080000 ((State.reset.mem.write (kCtrl (0x10080000 + 1)) 1 1)) 3
     s.trGood = true ∧ s.tenGood s.trTen = true ∧ s.trOp = 3 ∧ s.home.dir = [] ∧ s.home.llc = [] ∧ Memory.wf s.mem = true) ∧
    (∀ n, (State.reset.coreAt n).sb = [] ∧ (State.reset.coreAt n).cxl = []) := by
  unfold HomesQuiet BlockWaits
  refine ⟨?_, ?_, ?_, ?_, ?_, ?_, fun _ => ⟨rfl, rfl⟩⟩ <;> decide +kernel

/-! Command blocks, capsules, server registers, the Lens. -/

/-- An address of module 1 of the domain, 2^30 bytes in. -/
def safe1 : Nat := 2 ^ 54 + 2 ^ 42 + 2 ^ 30

/-- A checkpoint image of tenant 1 at that address. -/
def image1 : Image :=
  ⟨1, BitVec.ofNat 64 safe1, [1], [], [(0, 7#8)], Ctx.empty, [], [0, 1], imageDigest [(0, 7#8)] Ctx.empty [], Config.sm2Sign (imageDigest [(0, 7#8)] Ctx.empty [])⟩

/-- Tenant 1 and that address stand in the checkpoint block; it works for a restore (OP 1). -/
def ckMem : Mem := (State.reset.mem.write (kCtrl (0x10090000 + 1)) 1 1).write (kCtrl (0x10090000 + 8)) 8 safe1
def restoring (images : List Image) : State := { blocked 1 0x10090000 ckMem 1 with
  tabs := { (blocked 1 0x10090000 ckMem 1).tabs with images := images, domain := [0, 1] } }

/-- The address is another module's, which the safe tier may be. -/
theorem safe1_good (images : List Image) : (restoring images).safeGood 1 safe1 = .ok (restoring images, true) := by
  have h : (restoring images).region none (BitVec.ofNat 64 safe1) = .remote := by rfl
  unfold State.safeGood; rw [h]

/-- The same restore of SAFE 2^41, an address of the package scratchpad. -/
def misplaced : State := blocked 1 0x10090000 ((State.reset.mem.write (kCtrl (0x10090000 + 1)) 1 1).write (kCtrl (0x10090000 + 8)) 8 0x20000000000) 1

theorem misplaced_bad : misplaced.safeGood 1 0x20000000000 = .ok (misplaced, false) := by
  have h : misplaced.region none (BitVec.ofNat 64 0x20000000000) = .pkg 0 := by rfl
  unfold State.safeGood; rw [h]

/-- An image whose digest is not that of its bytes. -/
def forged : Image := { image1 with digest := imageDigest [(0, 7#8)] Ctx.empty [] + 1#256 }

theorem image1_signed : image1.signed = true := by simp [Image.signed, image1]
theorem forged_unsigned : forged.signed = false := by simp [Image.signed, forged, image1]
theorem grown_signed : ({ image1 with clusters := [1, 2] } : Image).signed = true := by simp [Image.signed, image1]

/-- A restore reads these fields, whatever images the safe tier holds. -/
theorem restoring_reads (images : List Image) : BlockWaits (restoring images) 1 1#64 ∧ (restoring images).ckGood = true ∧ (restoring images).ckOp = 1 ∧
    (restoring images).ckTen = 1 ∧ (restoring images).ckSafe = safe1 ∧ (restoring images).launching 1 = false := by
  show BlockWaits (restoring []) 1 1#64 ∧ (restoring []).ckGood = true ∧ (restoring []).ckOp = 1 ∧
    (restoring []).ckTen = 1 ∧ (restoring []).ckSafe = safe1 ∧ (restoring []).launching 1 = false
  unfold BlockWaits; decide +kernel

/-- Table 1 of tenant 1 at LPDDR address 4,096. -/
def dtMem (entry : Nat) : Mem :=
  (((State.reset.mem.write (kCtrl (0x10030000 + 1)) 1 1).write (kCtrl (0x10030000 + 2)) 1 1).write (kCtrl (0x10030000 + 8)) 8 4096).write (kLpddr (4096 + 2 * 11)) 2 entry

/-- A sealed capsule of tenant 1 that names decode table 1. -/
def useTable (s : State) : State := { s with tabs := { s.tabs with caps := [(1, { Caps.free with st := .sealed, ten := 1, nins := 1, dsel := 1#4 })] } }

theorem witness_CommandBlocksAct :
    (let s := blocked 1 0x10090000 (State.reset.mem.write (kCtrl (0x10090000 + 1)) 1 1) 2
     BlockWaits s 1 1#64 ∧ s.ckGood = true ∧ s.ckOp = 2) ∧
    (BlockWaits misplaced 1 1#64 ∧ misplaced.ckGood = true ∧ misplaced.ckOp = 1 ∧ misplaced.ckTen = 1 ∧ misplaced.ckSafe = 0x20000000000) ∧
    (∀ i ∈ (restoring []).tabs.images, i.safe.toNat ≠ (restoring []).ckSafe) ∧
    (forged.safe.toNat = safe1 ∧ image1.safe.toNat = safe1 ∧ image1.ten = 1 ∧ ({ image1 with clusters := [1, 2] } : Image).safe.toNat = safe1 ∧
      (restoring []).shapeFits 1 { image1 with clusters := [1, 2] } = false) ∧
    (let s := restoring []
     image1.clusters = s.maskOf 1 ∧ image1.frames = s.framesOf 1 ∧ image1.shape = s.tabs.domain ∧ s.home.llc = [] ∧ (image1.bytes.map Prod.fst).Nodup ∧
       s.ownsByte 1 (kPkg 1 0) = true) ∧
    (let s := blocked 2 0x10090800 State.reset.mem 2
     BlockWaits s 2 1#64 ∧ s.blockField 2 0 1 ≠ 1) ∧
    (let s := blocked 2 0x10090800 ((State.reset.mem.write (kCtrl (0x10090800 + 8)) 8 (2 ^ 40 - 2 ^ 28)).write (kCtrl (0x10090800 + 16)) 8 (2 ^ 28)) 1
     BlockWaits s 2 1#64 ∧ s.blockField 2 0 1 = 1 ∧ s.blockField 2 1 7 = 0 ∧ s.blockField 2 24 16 = 0 ∧ s.blockField 2 8 8 % 4096 = 0 ∧
       0 < s.blockField 2 16 8 ∧ s.blockField 2 16 8 ≤ 2 ^ 28 ∧ s.blockField 2 8 8 + s.blockField 2 16 8 ≤ 2 ^ 40 ∧ s.tabs.bootRom = false) ∧
    (let s := blocked 3 0x10030000 (dtMem 0x8005) 1
     BlockWaits s 3 1#64 ∧ HomesQuiet s ∧ 1 ≤ s.dtNum ∧ s.dtNum ≤ 15 ∧ s.dtTen ≤ 15 ∧ s.dtAddr + 2048 ≤ 2 ^ 40 ∧ s.dtOp = 1 ∧
       (s.tableAt s.dtAddr).any (fun e => e.getLsbD 15) = false ∧ tableGood (s.tableAt s.dtAddr) = true ∧ s.tableUsed s.dtTen s.dtNum = false) ∧
    (let s := useTable (blocked 3 0x10030000 (dtMem 0) 1)
     BlockWaits s 3 1#64 ∧ HomesQuiet s ∧ 1 ≤ s.dtNum ∧ s.dtNum ≤ 15 ∧ s.dtTen ≤ 15 ∧ s.dtAddr + 2048 ≤ 2 ^ 40 ∧ s.dtOp = 1 ∧
       tableGood (s.tableAt s.dtAddr) = true ∧ s.tableUsed s.dtTen s.dtNum = true) ∧
    (let s := useTable (blocked 3 0x10030000 (dtMem 0) 2)
     BlockWaits s 3 1#64 ∧ HomesQuiet s ∧ s.dtOp = 2 ∧ s.tableUsed s.dtTen s.dtNum = true) ∧
    (let s := blocked 3 0x10030000 (dtMem 0) 2
     BlockWaits s 3 1#64 ∧ HomesQuiet s ∧ 1 ≤ s.dtNum ∧ s.dtNum ≤ 15 ∧ s.dtTen ≤ 15 ∧ s.dtAddr + 2048 ≤ 2 ^ 40 ∧ s.dtOp = 2 ∧ s.tableUsed s.dtTen s.dtNum = false) := by
  unfold BlockWaits HomesQuiet
  and_intros <;> decide +kernel

/-- An entry that makes index 27 valid names an index that table 0 lacks: the install is refused. -/
theorem witness_BadDecodeTable :
    (let s := blocked 3 0x10030000 ((dtMem 0).write (kLpddr (4096 + 2 * 27)) 2 0x8003) 1
     BlockWaits s 3 1#64 ∧ HomesQuiet s ∧ 1 ≤ s.dtNum ∧ s.dtNum ≤ 15 ∧ s.dtTen ≤ 15 ∧ s.dtAddr + 2048 ≤ 2 ^ 40 ∧ s.dtOp = 1 ∧ tableGood (s.tableAt s.dtAddr) = false) := by
  unfold BlockWaits HomesQuiet; decide +kernel

/-- A portable form of one word, `addi x0, x0, 0`, and one stage, at LPDDR address 4,096, with its command in the capsule block. -/
def formMem (m : Mem) : Mem :=
  let at0 := kLpddr 4096
  let m := (((((m.write at0 4 0x5A555A44).write (at0 + 4) 2 1).write (at0 + 7) 1 1).write (at0 + 8) 4 1).write (at0 + 24) 8 512).write (at0 + 512) 4 0x13
  ((m.write (kCtrl (0x10088000 + 1)) 1 1).write (kCtrl (0x10088000 + 2)) 2 2).write (kCtrl (0x10088000 + 8)) 8 4096

def capsBlock (c : Caps) (m : Mem) (op : Nat) : State :=
  let s := paging lpddrPage
  { s with
    mem := m.write (kCtrl 0x10088000) 1 op
    tabs := { s.tabs with blocks := [(4, ⟨1#64, none, some (1#64, 0), BitVec.ofNat 448 ((m.write (kCtrl 0x10088000) 1 op).read (kCtrl 0x10088000) 56)⟩)], caps := [(2, c)] } }

/-- The state that a chain of reads ends in. -/
def okState (x : Except Stop (State × Bool)) : State := match x with | .ok (s, _) => s | .error _ => State.reset
def okFlag (x : Except Stop (State × Bool)) : Bool := match x with | .ok (_, b) => b | .error _ => false

theorem ok_of_flag (x : Except Stop (State × Bool)) (h : okFlag x = true) : x = .ok (okState x, true) := by
  cases x with
  | error _ => cases h
  | ok p => obtain ⟨s, b⟩ := p; simp only [okFlag] at h; subst h; rfl

def formState : State := capsBlock Caps.free (formMem (paging lpddrPage).mem) 1
/-- The install's start, and the state in which the whole form has been read. -/
def formStart : State := (formState.updCap 2 (fun _ => { Caps.free with st := .installing })).blockStart 4 (2 * 2)
def formDone : State := okState (formStart.readForm 1 4096 readParts)

theorem witness_CapsuleInstall :
    BlockWaits formState 4 1#64 ∧ formState.cpGood = true ∧ formState.cpOp = 1 ∧ formState.cpNum = 2 ∧ (formState.cap 2).st = .free ∧
    formState.jobTurn none = true ∧ formState.cpTen = 1 ∧ formState.cpForm = 4096 ∧ partV (formState.part 1) = true ∧
    formStart.readForm 1 4096 readParts = .ok (formDone, true) ∧ formGood (formDone.formRead 1 4096) = true := by
  unfold BlockWaits
  refine ⟨?_, ?_, ?_, ?_, ?_, ?_, ?_, ?_, ?_, ok_of_flag _ ?_, ?_⟩ <;> decide +kernel

def capsMem (form : Nat) : Mem := ((State.reset.mem.write (kCtrl (0x10088000 + 1)) 1 1).write (kCtrl (0x10088000 + 2)) 2 2).write (kCtrl (0x10088000 + 8)) 8 form
def sealed2 : Caps := { Caps.free with st := .sealed, ten := 1, nins := 1 }
def void2 : Caps := { sealed2 with st := .void }

/-- A core whose task's body, capsule 1, is void; the partition may forbid a rebuild on first use. -/
def voided (part : BitVec 1024) : State := { one tasked with
  tabs := { Tabs.reset with parts := [(1, part)], caps := [(1, void2)] }, disp := { Disp.reset with active := some 1 } }

/-- A command works on the rebuild of capsule 2 from the form at 4,096; the server cores have these requests. -/
def rebuilding (jobs : List (Nat × Option Nat)) : State :=
  let s := capsBlock { void2 with rb := true, pf := 4096#64, stages := [(0, 0, 0)] } (formMem (paging lpddrPage).mem) 3
  { s with tabs := { s.tabs with blocks := [(4, { s.block 4 with running := some (1#64, 6) })], jobs := jobs } }

/-- The state in which the form has been read again. -/
def rebuildRead : State := okState ((rebuilding [(0, some 2), (0, some 1)]).readForm 1 4096 readParts)

theorem witness_RebuildReads : (rebuilding [(0, some 2), (0, some 1)]).readForm 1 4096 readParts = .ok (rebuildRead, true) :=
  ok_of_flag ((rebuilding [(0, some 2), (0, some 1)]).readForm 1 4096 readParts) (by decide +kernel)

theorem witness_RebuildEnds :
    (let s := rebuilding [(0, some 2), (0, some 1)]
     (s.cap 2).rb = true ∧ (s.cap 2).st = .void ∧ (s.cap 2).ten = 1 ∧ (s.cap 2).pf.toNat = 4096 ∧ s.jobTurn (some 2) = true ∧
       (s.cap 2).sameForm (rebuildRead.formRead 1 4096) = true) ∧
    formGood (rebuildRead.formRead 1 4096) = true ∧ (rebuildRead.block 4).running = some (1#64, 2 * 2 + 2) ∧ (rebuildRead.block 4).pending = none ∧
    rebuildRead.cpOp = 3 ∧ Memory.wf rebuildRead.mem = true ∧ (bodyBytes (rebuildRead.nativeBody 1 (rebuildRead.formRead 1 4096))).length ≤ 0x400000 := by
  decide +kernel

theorem witness_CapsulesAreInstalledAndRebuilt :
    (let s := capsBlock sealed2 (capsMem 0) 1
     BlockWaits s 4 1#64 ∧ s.cpGood = true ∧ s.cpOp = 1 ∧ (s.cap s.cpNum).st = .sealed) ∧
    (let s := capsBlock { sealed2 with st := .deleted } (capsMem 4095) 1
     BlockWaits s 4 1#64 ∧ s.cpGood = true ∧ s.cpOp = 1 ∧ (s.cap s.cpNum).st = .deleted ∧ s.cpForm % 4096 ≠ 0) ∧
    (let s := capsBlock sealed2 (capsMem 0) 2
     BlockWaits s 4 1#64 ∧ s.cpGood = true ∧ s.cpTen = (s.cap s.cpNum).ten ∧ s.cpOp = 2 ∧ (s.cap s.cpNum).st = .sealed ∧ (s.cap s.cpNum).nctx = 0#16 ∧
       (s.cap s.cpNum).nrun = 0#16 ∧ ∀ l ∈ s.disp.launches, l.caps ≠ s.cpNum) ∧
    (let s := capsBlock { sealed2 with nctx := 1#16 } (capsMem 0) 2
     BlockWaits s 4 1#64 ∧ s.cpGood = true ∧ s.cpTen = (s.cap s.cpNum).ten ∧ s.cpOp = 2 ∧ (s.cap s.cpNum).st = .sealed ∧ (s.cap s.cpNum).nctx ≠ 0#16) ∧
    (let s := capsBlock sealed2 (capsMem 0) 3
     BlockWaits s 4 1#64 ∧ s.cpGood = true ∧ s.cpTen = (s.cap s.cpNum).ten ∧ s.cpOp = 3 ∧ (s.cap s.cpNum).st = .sealed) ∧
    (let s := capsBlock void2 (capsMem 0) 3
     BlockWaits s 4 1#64 ∧ s.cpGood = true ∧ s.cpTen = (s.cap s.cpNum).ten ∧ s.cpOp = 3 ∧ (s.cap s.cpNum).st = .void ∧ (s.cap s.cpNum).rb = false ∧
       s.jobTurn none = true) ∧
    (let s := capsBlock { void2 with rb := true } (capsMem 0) 3
     let w : State := { s with tabs := { s.tabs with jobs := [(0, some 2), (0, none)] } }
     BlockWaits s 4 1#64 ∧ s.cpGood = true ∧ s.cpTen = (s.cap s.cpNum).ten ∧ s.cpOp = 3 ∧ (s.cap s.cpNum).st = .void ∧ (s.cap s.cpNum).rb = true ∧
       s.jobTurn none = true ∧ BlockWaits w 4 1#64 ∧ w.jobTurn none = false) ∧
    (rebuilding [(0, some 1), (0, some 2)]).jobTurn (some 2) = false ∧
    (let s := voided 0x1#1024
     (s.coreAt 0).task = some ⟨1, 0, 0, 0, 0, 0, 1, 1, false⟩ ∧ (s.coreAt 0).mode = .u ∧ (s.cap 1).st = .void ∧ s.runs 0 = true ∧ partRboff (s.part 1) = false) ∧
    (let s := voided 0x3#1024
     (s.coreAt 0).task = some ⟨1, 0, 0, 0, 0, 0, 1, 1, false⟩ ∧ (s.coreAt 0).mode = .u ∧ (s.cap 1).st = .void ∧ s.runs 0 = true ∧ partRboff (s.part 1) = true) := by
  unfold BlockWaits
  and_intros <;> decide +kernel

/-- The bytes of partition entry `k` after a write, as the statement has them. -/
def written (s : State) (k off n : Nat) (v : Word) : BitVec 1024 :=
  overlay (overlay (s.part k) off ((natToBytes n v.toNat).map some)) 64 ((natToBytes 8 ((s.part k).extractLsb' 512 64).toNat).map some)

theorem witness_ServerRegistersTakeTheirValues :
    (63 < 64 ∧ State.reset.tabs.run = false) ∧
    (let v : Word := 0x300#64
     v.getLsbD 16 = false) ∧
    (let s : State := { State.reset with tabs := { Tabs.reset with run := true }, disp := { Disp.reset with active := some 3 } }
     s.tabs.run = true ∧ s.disp.active = some 3 ∧ s.disp.drain = none) ∧
    (let s : State := { State.reset with tabs := { Tabs.reset with slots := Tabs.reset.slots.setIfInBounds 63 0x80400040#32 } }
     let v : Word := 0x10000#64
     s.tabs.run = false ∧ v.getLsbD 16 = true ∧ s.tabs.bootRom = false ∧ s.tabs.badCfg = [] ∧ s.tabs.pend = false ∧ s.tabs.stream = none ∧
       s.disp.drain = none ∧ s.disp.active = none ∧ s.disp.forfeit = [] ∧ s.disp.ctxs = [] ∧
       (validSlots s.tabs.slots).find? (fun j => decide (s.tabs.cur < j)) = some 63) ∧
    (15 < 16 ∧ 120 + 8 ≤ 128 ∧ State.reset.partGood 15 (written State.reset 15 120 8 1#64) = false) ∧
    (15 < 16 ∧ State.reset.partGood 15 (written State.reset 15 0 8 0#64) = true ∧ State.reset.launching 15 = false ∧
      State.reset.partWaits 15 0 ((natToBytes 8 0).map some) = false) ∧
    (let s : State := { atPkg [] pkgLine with
       home := { Home.reset with llc := [{ pkgLine with rts := 2 ^ 31 }] }, tabs := { Tabs.reset with parts := [(0, BitVec.ofNat 1024 (0x101 + 2 ^ 384))] } }
     0 < 16 ∧ s.partWaits 0 0 ((natToBytes 8 0).map some) = true) ∧
    (let s : State := { State.reset with tabs := { Tabs.reset with owners := [(0, some 15)] } }
     s.partGood 15 (written s 15 0 8 0x10001#64) = true ∧ partV (written s 15 0 8 0x10001#64) = true ∧ partV (s.part 15) = false ∧ s.launching 15 = false) ∧
    (let v : Word := 3#64
     5119 < 5120 ∧ ¬ ((∀ i, i < 6 → v.extractLsb' (2 * i) 2 ≠ 3#2) ∧ State.reset.isServer (v.extractLsb' 51 13).toNat = true)) ∧
    (let s : State := { State.reset with tabs := { Tabs.reset with servers := [319] } }
     let v : Word := BitVec.ofNat 64 (5119 * 2 ^ 51 + 0x2AA)
     (∀ i, i < 6 → v.extractLsb' (2 * i) 2 ≠ 3#2) ∧ s.isServer (v.extractLsb' 51 13).toNat = true) ∧
    ((State.reset.fq 15).head = 1 ∧ (0#64).toNat < (State.reset.fq 15).head) ∧
    (let s : State := { State.reset with clusters := [] }
     (s.fq 15).head ≤ (1#64).toNat ∧ (1#64).toNat ≤ (s.fq 15).next ∧ (s.fq 15).waiting = [] ∧ ∀ e c, (s.engAt e).cur = some c → c.pend = none) ∧
    (0x10000 ≤ 0xFFFFFFF ∧ 0xFFFFFFF < 0x10000000) := by
  refine ⟨?_, ?_, ?_, ?_, ?_, ?_, ?_, ?_, ?_, ?_, ?_, ⟨?_, ?_, ?_, fun e c h => by unfold State.engAt at h; split at h <;> cases h⟩, ?_⟩ <;> decide +kernel

theorem witness_TheLensOrdersAndWrites :
    (let f : Freeze := ⟨3, 0x40#64, 7#64, false, 0⟩
     let s := one { tasked with frz := some f }
     (s.coreAt 0).task = some ⟨1, 0, 0, 0, 0, 0, 1, 1, false⟩ ∧ (s.coreAt 0).frz = some f) ∧
    (let s := one tasked
     (s.coreAt 0).task = some ⟨1, 0, 0, 0, 0, 0, 1, 1, false⟩ ∧ (s.coreAt 0).frz = none ∧ (s.coreAt 0).midway = false) := by
  decide +kernel

end Sys2Proof.Tests
end

section
/-! PROOFS. Steps and the schedule (O1, O2), and what reset leaves (O5). -/

namespace Sys2Proof.Machine

@[simp] theorem State.run_quietPass (s : State) (k : Nat) : (s.quietPass k).run = s.run := by
  unfold State.quietPass
  repeat' split
  all_goals rfl

@[simp] theorem State.run_grantLease (s : State) (c : Nat) : (s.grantLease c).run = s.run := by
  unfold State.grantLease
  dsimp only
  repeat' split
  all_goals rfl

/-- What each step of a fold leaves alone, the fold leaves alone. -/
theorem foldl_keeps {α β σ : Type} (P : σ → β) (f : σ → α → σ) (hf : ∀ s a, P (f s a) = P s) (l : List α) (s : σ) :
    P (l.foldl f s) = P s := by
  induction l generalizing s with
  | nil => rfl
  | cons a l ih => exact (ih _).trans (hf s a)

@[simp] theorem State.run_grantLeases (s : State) : s.grantLeases.run = s.run :=
  foldl_keeps State.run _ State.run_grantLease _ _

/-- Cycles that pass leave the schedule and the acting agent alone. -/
@[simp] theorem State.run_pass (s : State) (k : Nat) : (s.pass k).run = s.run := by
  unfold State.pass
  dsimp only
  split
  · exact State.run_quietPass s k
  · exact (State.run_grantLeases _).trans (State.run_quietPass s k)

/-- With nothing due and an empty schedule the acting agent takes its turn, one cycle later. -/
theorem step_idle (s : State) (hdue : s.due = none) (hsched : s.run.sched = []) : step s = turn (s.pass 1) := by
  simp only [step, hdue, hsched]

/-- The turn of a core that is to execute a word which its table decodes. -/
theorem turn_word (u v : State) (n : Nat) (w : IWord) (i : Instr) (hcur : u.run.cur = .core n) (ht : u.coreTurn n = .word w v)
    (hd : decodeUnder (u.coreTable n) w = .ok i) : turn u = exec i v := by
  simp only [turn, hcur, ht, runWord, hd]

/-- A core between instructions with no check failed, which follows nobody, executes the word it fetches. -/
theorem coreTurn_fetched (u : State) (n : Nat) (w : IWord) (hruns : u.runs n = true) (hcheck : (u.coreAt n).check = false)
    (hfrz : (u.coreAt n).frzReq = false) (hint : u.interruptNow n = false) (hlead : (u.coreAt n).lead = none) (hf : u.fetch n = .word w) :
    u.coreTurn n = .word w (u.setIw n w) := by
  simp [State.coreTurn, hruns, hcheck, hfrz, hint, hlead, hf]

/-- A follower executes the oldest word that its leader has forwarded. -/
theorem coreTurn_forwarded (u : State) (n l : Nat) (f : Fwd) (rest : List Fwd) (hruns : u.runs n = true) (hcheck : (u.coreAt n).check = false)
    (hfrz : (u.coreAt n).frzReq = false) (hint : u.interruptNow n = false) (hlead : (u.coreAt n).lead = some l)
    (hfwd : (u.coreAt n).fwd = f :: rest) : u.coreTurn n = .word f.word (u.setFwd n f) := by
  simp [State.coreTurn, hruns, hcheck, hfrz, hint, hlead, hfwd]

/-- A supervisor fetch within the server kernel's text (R268). -/
theorem fetch_server (u : State) (n : Nat) (hmode : (u.coreAt n).mode = .s) (halign : (u.coreAt n).pc.toNat % 4 = 0)
    (hlow : Config.serverEntry ≤ (u.coreAt n).pc.toNat) (hhigh : (u.coreAt n).pc.toNat + 4 ≤ Config.serverEntry + Config.serverTextSize)
    (hpoison : u.poisoned (kText (u.coreAt n).pc.toNat) = false) : u.fetch n = .word (u.textWord (u.coreAt n).pc.toNat) := by
  simp [State.fetch, hmode, halign, hlow, hhigh, hpoison]

/-- A user fetch within the text of a sealed capsule (R38). -/
theorem fetch_task (u : State) (n : Nat) (k : Task) (hmode : (u.coreAt n).mode = .u) (htask : (u.coreAt n).task = some k)
    (hst : (u.cap k.caps).st = .sealed) (halign : (u.coreAt n).pc.toNat % 4 = 0) (hlow : textBase k.caps ≤ (u.coreAt n).pc.toNat)
    (hhigh : (u.coreAt n).pc.toNat < textBase k.caps + 4 * (u.cap k.caps).nins)
    (hpoison : u.poisoned (kText (u.coreAt n).pc.toNat) = false) : u.fetch n = .word (u.textWord (u.coreAt n).pc.toNat) := by
  simp [State.fetch, hmode, htask, hst, halign, hlow, hhigh, hpoison]

theorem stepRunsTheDecodedServerInstruction : StepRunsTheDecodedServerInstruction := by
  intro s n i hdue hsched hcur u c hruns hcheck hfrz hint hlead hmode hdsel halign hlow hhigh hpoison hdec
  have htable : u.coreTable n = none := by simp [State.coreTable, State.table, u, c, hdsel]
  rw [step_idle s hdue hsched]
  refine turn_word _ _ n _ i (by rw [State.run_pass, hcur]) (coreTurn_fetched u n _ hruns hcheck hfrz hint hlead
    (fetch_server u n hmode halign hlow hhigh hpoison)) ?_
  rw [htable]
  exact hdec

theorem stepRunsTheDecodedTaskInstruction : StepRunsTheDecodedTaskInstruction := by
  intro s n k i hdue hsched hcur u c hruns hcheck hfrz hint hlead hmode htask hst halign hlow hhigh hpoison hdec
  rw [step_idle s hdue hsched]
  exact turn_word _ _ n _ i (by rw [State.run_pass, hcur]) (coreTurn_fetched u n _ hruns hcheck hfrz hint hlead
    (fetch_task u n k hmode htask hst halign hlow hhigh hpoison)) hdec

theorem stepRunsTheForwardedInstruction : StepRunsTheForwardedInstruction := by
  intro s n l f rest i hdue hsched hcur u c hruns hcheck hfrz hint hlead hfwd hdec
  rw [step_idle s hdue hsched]
  exact turn_word _ _ n _ i (by rw [State.run_pass, hcur]) (coreTurn_forwarded u n l f rest hruns hcheck hfrz hint hlead hfwd) hdec

/-- Settles O1: a step with nothing due and an empty schedule is the acting core's turn one cycle later, and that turn executes the word
that the core fetches or the oldest word it was forwarded. -/
theorem stepRunsTheInstruction : Obligations.StepRunsTheInstruction :=
  ⟨stepRunsTheDecodedServerInstruction, stepRunsTheDecodedTaskInstruction, stepRunsTheForwardedInstruction⟩

/-- With nothing due, the first turn of the schedule acts as soon as its cycles may all pass. -/
theorem step_turn (s : State) (t : Turn) (rest : List Turn) (hdue : s.due = none) (hsched : s.run.sched = t :: rest)
    (hgap : t.gap ≤ s.gapLimit t.gap) : step s = act t.act (({ s with run := { s.run with sched := rest } }).pass t.gap) := by
  simp only [step, hdue, hsched, Nat.not_lt.mpr hgap, if_false]

/-- Settles O2: each kind of act is what `act` does with it after the turn's cycles. -/
theorem stepFollowsTheSchedule : Obligations.StepFollowsTheSchedule := by
  intro s g rest hdue hgap
  refine ⟨fun a hs => ?_, fun i hi hs => ?_, fun j hs => ?_⟩
  · rw [step_turn s _ rest hdue hs hgap]
    simp only [act, State.run_pass]
  · rw [step_turn s _ rest hdue hs hgap]
    simp only [act, hi, if_true]
  · exact step_turn s _ rest hdue hs hgap

/-- A table that lists `a` at each of some rising keys. -/
theorem Tbl.get_map_const {α : Type} (d a : α) (l : List Nat) (hl : l.Pairwise (· < ·)) (k : Nat) :
    Tbl.get d (l.map (fun j => (j, a))) k = if l.contains k then a else d := by
  induction l with
  | nil => rfl
  | cons j l ih =>
    obtain ⟨hj, hl⟩ := List.pairwise_cons.mp hl
    have hlow : k < j → k ∉ l := fun h hk => absurd (hj k hk) (by omega)
    simp only [List.map_cons, Tbl.get, ih hl]
    grind

/-- After reset a cluster of the server mask has power and every other is gated (R8, R20). -/
theorem reset_power (c : Nat) :
    (State.reset.clusterAt c).power = if State.reset.tabs.servers.contains c then .awake else .gated := by
  have hget : State.reset.clusterAt c = if State.reset.tabs.servers.contains c then Cluster.awake else Cluster.gated :=
    Tbl.get_map_const Cluster.gated Cluster.awake Config.serverClusters (by decide) c
  rw [hget]
  split <;> rfl

@[simp] theorem reset_coreAt (n : Nat) : State.reset.coreAt n = Core.reset := rfl

/-- Settles O5: the tables of the reset state are canonical, every core stands as `Core.reset`, and the rest are its fields. -/
theorem resetStateIsAsTheSpecSays : Obligations.ResetStateIsAsTheSpecSays := by
  refine ⟨⟨State.reset_mem_wf, State.reset_cores_wf, by decide⟩, reset_power, fun _ => rfl, rfl, rfl, rfl, rfl, rfl, fun n =>
    ⟨rfl, rfl, rfl, rfl, rfl, rfl, rfl, ?_, ?_⟩⟩
  · simp [State.csrRead, Core.reset, Sup.reset]
  · simp [State.csrRead, flags91, Core.reset, Sup.reset]

end Sys2Proof.Machine
end

section
/-! PROOFS. Rules of the operations over the state that several statements need: lookups after an update, folds over cores and clusters, and
bytes after an overlay. -/

namespace Sys2Proof.Machine

/-! Lookups. -/

theorem State.cap_updCap (s : State) (c k : Nat) (f : Caps → Caps) : (s.updCap c f).cap k = if k = c then f (s.cap c) else s.cap k := by
  simp [State.cap, State.updCap, Tbl.get_set]

theorem State.clusterAt_setCluster (s : State) (c k : Nat) (x : Cluster) :
    (s.setCluster c x).clusterAt k = if k = c then x else s.clusterAt k := by
  simp [State.clusterAt, State.setCluster, Tbl.get_set]

theorem State.clusterAt_updCluster (s : State) (c k : Nat) (f : Cluster → Cluster) :
    (s.updCluster c f).clusterAt k = if k = c then f (s.clusterAt c) else s.clusterAt k := by
  simp [State.updCluster, State.clusterAt_setCluster]

/-- A launch is found, changed, under its number, when the change keeps the number. -/
theorem State.launch_updLaunch_self (s : State) (j : Nat) (f : Launch → Launch) (hf : ∀ l, (f l).jseq = l.jseq) :
    (s.updLaunch j f).launch j = (s.launch j).map f := by
  have hkey : ((fun l : Launch => decide (l.jseq = j)) ∘ fun l => if l.jseq = j then f l else l) = fun l => decide (l.jseq = j) := by
    funext l
    by_cases h : l.jseq = j <;> simp [h, hf]
  simp only [State.launch, State.updLaunch, List.find?_map, hkey]
  cases h : s.disp.launches.find? (fun l => decide (l.jseq = j)) with
  | none => rfl
  | some l =>
    have hl : l.jseq = j := by simpa using List.find?_some h
    simp [hl]

/-- A field is found, changed, by its task, when the change keeps the field's names. -/
theorem State.fieldOf_updField_self (s : State) (t : Task) (g : Field → Field)
    (hg : ∀ f, (g f).jseq = f.jseq ∧ (g f).stage = f.stage ∧ (g f).f = f.f) : (s.updField t g).fieldOf t = (s.fieldOf t).map g := by
  let key : Field → Bool := fun f => decide (f.jseq = t.jseq) && decide (f.stage = t.stage) && decide (f.f = t.field)
  have hkey : (key ∘ fun f => if key f then g f else f) = key := by
    funext f
    obtain ⟨h1, h2, h3⟩ := hg f
    by_cases h : key f = true <;> simp only [Function.comp_apply, h, if_true] <;> simp_all [key]
  change (s.disp.fields.map (fun f => if key f then g f else f)).find? key = (s.disp.fields.find? key).map g
  rw [List.find?_map, hkey]
  cases h : s.disp.fields.find? key with
  | none => rfl
  | some f => simp [List.find?_some h]

/-! Folds. -/

/-- A change made once to each core of a list that a second time makes no difference. -/
theorem State.coreAt_foldl_updCore (g : Core → Core) (hg : ∀ c, g (g c) = g c) (l : List Nat) (s : State) (k : Nat) :
    (l.foldl (fun s n => s.updCore n g) s).coreAt k = if k ∈ l then g (s.coreAt k) else s.coreAt k := by
  induction l generalizing s with
  | nil => simp
  | cons n l ih =>
    rw [List.foldl_cons, ih, State.coreAt_updCore]
    by_cases hn : k = n
    · subst hn; simp [hg]
    · simp [hn]

/-! Bytes. -/

/-- Bytes after an overlay: those given inside it, the old ones elsewhere and where `none` stands. -/
theorem Mem.byte_overlay (m : Mem) (k : Nat) (l : List (Option Byte)) (a : Nat) :
    (m.overlay k l).byte a = if k ≤ a ∧ a < k + l.length then (l.getD (a - k) none).getD (m.byte a) else m.byte a := by
  induction l generalizing m k with
  | nil => simp [Mem.overlay]
  | cons o l ih =>
    have hnext (m' : Mem) (h : ∀ a, k ≠ a → m'.byte a = m.byte a) (hk : m'.byte k = o.getD (m.byte k)) : (m'.overlay (k + 1) l).byte a =
        if k ≤ a ∧ a < k + (o :: l).length then ((o :: l).getD (a - k) none).getD (m.byte a) else m.byte a := by
      rw [ih]
      by_cases hak : a = k
      · subst hak; simp [hk]
      · rw [h a (Ne.symm hak)]
        by_cases hin : k + 1 ≤ a ∧ a < k + 1 + l.length
        · have hidx : a - k = a - (k + 1) + 1 := by omega
          rw [if_pos hin, if_pos (by simp only [List.length_cons]; omega), hidx, List.getD_cons_succ]
        · rw [if_neg hin, if_neg (by simp only [List.length_cons]; omega)]
    cases o with
    | none => exact hnext m (fun _ _ => rfl) rfl
    | some b => exact hnext (m.put k b) (fun a h => Mem.byte_put_ne _ _ _ _ (Ne.symm h)) (by simp)

/-- The bytes of an overlay of given bytes. -/
theorem Mem.byte_overlay_some (m : Mem) (k n : Nat) (f : Nat → Byte) (i : Nat) (h : i < n) :
    (m.overlay k ((List.range n).map (fun i => some (f i)))).byte (k + i) = f i := by
  simp [Mem.byte_overlay, h]

theorem Mem.byte_overlay_list (m : Mem) (k : Nat) (l : List Byte) (i : Nat) (h : i < l.length) :
    (m.overlay k (l.map some)).byte (k + i) = l.getD i 0#8 := by
  simp [Mem.byte_overlay, h]

theorem Mem.byte_overlay_replicate (m : Mem) (k n : Nat) (b : Byte) (i : Nat) (h : i < n) :
    (m.overlay k (List.replicate n (some b))).byte (k + i) = b := by
  simp [Mem.byte_overlay, h]

/-- An overlay leaves every byte outside it alone. -/
theorem Mem.byte_overlay_ne (m : Mem) (k : Nat) (l : List (Option Byte)) (a : Nat) (h : a < k ∨ k + l.length ≤ a) :
    (m.overlay k l).byte a = m.byte a := by
  rw [Mem.byte_overlay, if_neg (by omega)]

/-- A read depends on the bytes it reads alone. -/
theorem Mem.read_congr (m m' : Mem) (k n : Nat) (h : ∀ i, i < n → m.byte (k + i) = m'.byte (k + i)) : m.read k n = m'.read k n := by
  induction n generalizing k with
  | zero => rfl
  | succ n ih =>
    have hrest := ih (k + 1) (fun i hi => by rw [Nat.add_assoc, Nat.add_comm 1 i]; exact h (i + 1) (by omega))
    rw [Mem.read, Mem.read, hrest, show m.byte k = m'.byte k from h 0 (by omega)]

/-- A byte inside a write. -/
theorem Mem.byte_write_in (m : Mem) (k n v i : Nat) (h : i < n) : (m.write k n v).byte (k + i) = BitVec.ofNat 8 (v / 256 ^ i) := by
  induction n generalizing m k v i with
  | zero => omega
  | succ n ih =>
    cases i with
    | zero => rw [Mem.write, Mem.byte_write _ _ _ _ _ (Or.inl (by omega))]; simp
    | succ i =>
      rw [Mem.write, show k + (i + 1) = k + 1 + i by omega, ih _ _ _ _ (by omega), Nat.div_div_eq_div_mul, Nat.pow_succ, Nat.mul_comm 256]

/-- A read of bytes that hold a number. -/
theorem Mem.read_of_bytes (m : Mem) (k n v : Nat) (h : ∀ i, i < n → m.byte (k + i) = BitVec.ofNat 8 (v / 256 ^ i)) : m.read k n = v % 256 ^ n := by
  rw [← Mem.read_write m k n v]
  exact Mem.read_congr _ _ _ _ (fun i hi => (h i hi).trans (Mem.byte_write_in m k n v i hi).symm)

/-- A read outside a write. -/
theorem Mem.read_write_ne (m : Mem) (k n v a j : Nat) (h : a + j ≤ k ∨ k + n ≤ a) : (m.write k n v).read a j = m.read a j :=
  Mem.read_congr _ _ _ _ (fun _ _ => Mem.byte_write _ _ _ _ _ (by omega))

@[simp] theorem natToBytes_length (n v : Nat) : (natToBytes n v).length = n := by
  induction n generalizing v with
  | zero => rfl
  | succ n ih => simp [natToBytes, ih]

theorem natToBytes_getD (n v i : Nat) (h : i < n) : (natToBytes n v).getD i 0#8 = BitVec.ofNat 8 (v / 256 ^ i) := by
  induction n generalizing v i with
  | zero => omega
  | succ n ih =>
    cases i with
    | zero => simp [natToBytes]
    | succ i => rw [natToBytes, List.getD_cons_succ, ih _ _ (by omega), Nat.div_div_eq_div_mul, Nat.pow_succ, Nat.mul_comm 256]

theorem length_flatMap_natToBytes {α : Type} (n : Nat) (f : α → Nat) (l : List α) :
    (l.flatMap (fun a => natToBytes n (f a))).length = n * l.length := by
  induction l with
  | nil => rfl
  | cons a l ih => rw [List.flatMap_cons, List.length_append, ih, natToBytes_length, List.length_cons, Nat.mul_succ, Nat.add_comm]

/-- Byte `j` of the `i`-th number in a row of numbers of `n` bytes. -/
theorem getD_flatMap_natToBytes {α : Type} (n : Nat) (f : α → Nat) (d : α) (hd : f d = 0) (l : List α) (i j : Nat) (hj : j < n) :
    (l.flatMap (fun a => natToBytes n (f a))).getD (n * i + j) 0#8 = BitVec.ofNat 8 (f (l.getD i d) / 256 ^ j) := by
  induction l generalizing i with
  | nil => simp [hd]
  | cons a l ih =>
    rw [List.flatMap_cons]
    cases i with
    | zero => rw [List.getD_append _ _ _ _ (by simpa using hj), Nat.mul_zero, Nat.zero_add, natToBytes_getD _ _ _ hj, List.getD_cons_zero]
    | succ i =>
      rw [List.getD_append_right _ _ _ _ (by rw [natToBytes_length, Nat.mul_succ]; omega), natToBytes_length, List.getD_cons_succ, ← ih]
      congr 1
      rw [Nat.mul_succ]; omega

theorem bytesToNat_lt (l : List Byte) : bytesToNat l < 256 ^ l.length := by
  induction l with
  | nil => simp [bytesToNat]
  | cons b l ih =>
    have hb := b.isLt
    simp only [bytesToNat, List.length_cons, Nat.pow_succ]
    omega

/-- A word as wide as a list of bytes holds the number that the list holds. -/
theorem toNat_ofNat_bytes (n : Nat) (l : List Byte) (h : l.length = n) : (BitVec.ofNat (8 * n) (bytesToNat l)).toNat = bytesToNat l := by
  have hlt := bytesToNat_lt l
  rw [h, show (256 : Nat) = 2 ^ 8 from rfl, ← Nat.pow_mul] at hlt
  rw [BitVec.toNat_ofNat, Nat.mod_eq_of_lt hlt]

/-- A byte of the number that a list of bytes holds. -/
theorem bytesToNat_byte (l : List Byte) (i : Nat) : BitVec.ofNat 8 (bytesToNat l / 256 ^ i) = l.getD i 0#8 := by
  induction l generalizing i with
  | nil => simp [bytesToNat]
  | cons b l ih =>
    have hb : b.toNat < 256 := b.isLt
    cases i with
    | zero => apply BitVec.eq_of_toNat_eq; simpa [bytesToNat] using hb
    | succ i =>
      have hdiv : bytesToNat (b :: l) / 256 ^ (i + 1) = bytesToNat l / 256 ^ i := by
        rw [Nat.pow_succ, Nat.mul_comm, ← Nat.div_div_eq_div_mul, bytesToNat]
        congr 1
        omega
      rw [hdiv, ih, List.getD_cons_succ]

/-! Canonical tables. -/

/-- A key below those of a table reads as the default. -/
theorem Tbl.get_low {α : Type} [DecidableEq α] (d : α) (t : Tbl α) (lo k : Nat) (w : Tbl.wfAbove d lo t = true) (h : k < lo) : Tbl.get d t k = d := by
  cases t with
  | nil => rfl
  | cons e t =>
    obtain ⟨j, a⟩ := e
    simp only [Tbl.wfAbove, Bool.and_eq_true, decide_eq_true_eq] at w
    simp [Tbl.get, show ¬ j = k by omega, show k < j by omega]

/-- An entry of a canonical table is what its key reads as. -/
theorem Tbl.get_of_mem {α : Type} [DecidableEq α] (d : α) (t : Tbl α) (lo : Nat) (w : Tbl.wfAbove d lo t = true) (k : Nat) (a : α)
    (h : (k, a) ∈ t) : Tbl.get d t k = a ∧ lo ≤ k := by
  induction t generalizing lo with
  | nil => simp at h
  | cons e t ih =>
    obtain ⟨j, b⟩ := e
    simp only [Tbl.wfAbove, Bool.and_eq_true, decide_eq_true_eq] at w
    obtain ⟨⟨hlo, -⟩, ht⟩ := w
    rcases List.mem_cons.mp h with heq | hmem
    · obtain ⟨rfl, rfl⟩ := Prod.mk.inj heq
      exact ⟨by simp [Tbl.get], hlo⟩
    · obtain ⟨hget, hle⟩ := ih (j + 1) ht hmem
      simp [Tbl.get, hget, show ¬ j = k by omega, show ¬ k < j by omega, show lo ≤ k by omega]

/-- Changing every entry of a canonical table changes what each listed key reads as. -/
theorem Tbl.get_mapCanon {α : Type} [DecidableEq α] (d : α) (f : α → α) (t : Tbl α) (lo : Nat) (w : Tbl.wfAbove d lo t = true) (k : Nat) :
    Tbl.get d (Tbl.mapCanon d f t) k = if Tbl.get d t k = d then d else f (Tbl.get d t k) := by
  induction t generalizing lo with
  | nil => simp [Tbl.mapCanon]
  | cons e t ih =>
    obtain ⟨j, a⟩ := e
    simp only [Tbl.wfAbove, Bool.and_eq_true, decide_eq_true_eq, Bool.not_eq_true', decide_eq_false_iff_not] at w
    obtain ⟨⟨-, ha⟩, ht⟩ := w
    have hrest := ih (j + 1) ht
    have hcons : Tbl.mapCanon d f ((j, a) :: t) = if f a = d then Tbl.mapCanon d f t else (j, f a) :: Tbl.mapCanon d f t := by
      by_cases hf : f a = d <;> simp [Tbl.mapCanon, hf]
    rw [hcons]
    by_cases hk : j = k
    · subst hk
      have hlow := Tbl.get_low d t (j + 1) j ht (by omega)
      by_cases hf : f a = d <;> simp [Tbl.get, hf, ha, hrest, hlow]
    · by_cases hlt : k < j
      · have hlow := Tbl.get_low d t (j + 1) k ht (by omega)
        by_cases hf : f a = d <;> simp [Tbl.get, hf, hk, hlt, hrest, hlow]
      · by_cases hf : f a = d <;> simp [Tbl.get, hf, hk, hlt, hrest]

/-- A change that keeps the default changes what every key reads as. -/
theorem Tbl.get_mapCanon_fix {α : Type} [DecidableEq α] (d : α) (f : α → α) (hf : f d = d) (t : Tbl α) (w : Tbl.wf d t = true) (k : Nat) :
    Tbl.get d (Tbl.mapCanon d f t) k = f (Tbl.get d t k) := by
  rw [Tbl.get_mapCanon d f t 0 w]
  split
  · next h => rw [h, hf]
  · rfl

end Sys2Proof.Machine
end

section
/-! PROOFS. What ending a task does (O46). -/

namespace Sys2Proof.Machine

/-! Writing back a workspace. -/

/-- The dispatcher's launches and fields. -/
def State.work (s : State) : List Launch × List Field := (s.disp.launches, s.disp.fields)

theorem State.launch_of_work {s t : State} (h : t.work = s.work) (j : Nat) : t.launch j = s.launch j := by
  have hl : t.disp.launches = s.disp.launches := congrArg Prod.fst h
  rw [State.launch, hl, State.launch]

theorem State.fieldOf_of_work {s t : State} (h : t.work = s.work) (k : Task) : t.fieldOf k = s.fieldOf k := by
  have hf : t.disp.fields = s.disp.fields := congrArg Prod.snd h
  rw [State.fieldOf, hf, State.fieldOf]

@[simp] theorem State.mem_wakeWaita (s : State) (n : Nat) : (s.wakeWaita n).mem = s.mem := by unfold State.wakeWaita; split <;> rfl
@[simp] theorem State.tabs_wakeWaita (s : State) (n : Nat) : (s.wakeWaita n).tabs = s.tabs := by unfold State.wakeWaita; split <;> rfl
@[simp] theorem State.work_wakeWaita (s : State) (n : Nat) : (s.wakeWaita n).work = s.work := by unfold State.wakeWaita; split <;> rfl

/-- What waking a sleeper and changing a core leave alone, waking the watchers of a block leaves alone. -/
theorem State.wakeWatch_keeps {β : Type} (P : State → β) (hcore : ∀ s n f, P (State.updCore s n f) = P s)
    (hwake : ∀ s n, P (State.wakeWaita s n) = P s) (s : State) (core off n : Nat) : P (s.wakeWatch core off n) = P s := by
  unfold State.wakeWatch
  exact (hcore _ _ _).trans (foldl_keeps P (fun s (w : Nat × Nat) => s.wakeWaita w.1) (fun s w => hwake s w.1) _ s)

@[simp] theorem State.mem_wakeWatch (s : State) (core off n : Nat) : (s.wakeWatch core off n).mem = s.mem :=
  State.wakeWatch_keeps State.mem (fun _ _ _ => rfl) State.mem_wakeWaita s core off n
@[simp] theorem State.tabs_wakeWatch (s : State) (core off n : Nat) : (s.wakeWatch core off n).tabs = s.tabs :=
  State.wakeWatch_keeps State.tabs (fun _ _ _ => rfl) State.tabs_wakeWaita s core off n
@[simp] theorem State.work_wakeWatch (s : State) (core off n : Nat) : (s.wakeWatch core off n).work = s.work :=
  State.wakeWatch_keeps State.work (fun _ _ _ => rfl) State.work_wakeWaita s core off n

@[simp] theorem State.mem_padWrite (s : State) (core off : Nat) (bytes : List (Option Byte)) :
    (s.padWrite core off bytes).mem = s.mem.overlay (kPad core off) bytes := State.mem_wakeWatch _ _ _ _
@[simp] theorem State.tabs_padWrite (s : State) (core off : Nat) (bytes : List (Option Byte)) :
    (s.padWrite core off bytes).tabs = s.tabs := State.tabs_wakeWatch _ _ _ _
@[simp] theorem State.work_padWrite (s : State) (core off : Nat) (bytes : List (Option Byte)) :
    (s.padWrite core off bytes).work = s.work := State.work_wakeWatch _ _ _ _

@[simp] theorem State.tabs_writeBackWs (s : State) (n : Nat) : (s.writeBackWs n).tabs = s.tabs := by
  unfold State.writeBackWs; dsimp only; split
  · exact State.tabs_padWrite _ _ _ _
  · rfl
@[simp] theorem State.work_writeBackWs (s : State) (n : Nat) : (s.writeBackWs n).work = s.work := by
  unfold State.writeBackWs; dsimp only; split
  · exact State.work_padWrite _ _ _ _
  · rfl

/-- A workspace that lies in the own scratchpad holds the registers after its core's write-back (R71). -/
theorem State.byte_writeBackWs (s : State) (n i : Nat) (hin : (s.coreAt n).wsIn = true) (hi : i < 2368) :
    (s.writeBackWs n).mem.byte (kPad n ((s.coreAt n).wsOff + i)) = (s.coreAt n).wsByte i := by
  have hkey : kPad n ((s.coreAt n).wsOff + i) = kPad n (s.coreAt n).wsOff + i := by simp only [kPad]; omega
  simp only [State.writeBackWs, hin, if_true, State.mem_padWrite, hkey]
  exact Mem.byte_overlay_some _ _ _ _ _ hi

/-! The end of a task. -/

@[simp] theorem State.coreAt_endLease (s : State) (n k : Nat) : (s.endLease n).coreAt k = s.coreAt k := by
  unfold State.endLease; split <;> rfl
@[simp] theorem State.tabs_endLease (s : State) (n : Nat) : (s.endLease n).tabs = s.tabs := by
  unfold State.endLease; split <;> rfl
@[simp] theorem State.work_endLease (s : State) (n : Nat) : (s.endLease n).work = s.work := by
  unfold State.endLease; split <;> rfl

/-- The task's capsule counts it no longer, if its field has started (R242). -/
def State.countedOff (s : State) (n : Nat) (t : Task) : State :=
  if s.fieldStarted n then s.updCap t.caps (fun c => { c with nrun := c.nrun - 1#16 }) else s

/-- The core is without its task, its lease freed and its registers in its workspace; the dispatcher has not been told yet. -/
def State.taskLeft (s : State) (n : Nat) (t : Task) : State := (((s.countedOff n t).endLease n).writeBackWs n).updCore n Core.dropTask

/-- The launch with one more of the stage's tasks ended. -/
def Launch.oneEnded (l : Launch) (st : Nat) : Launch :=
  ({ l with ntask := l.ntask + 1 }).updStage st (fun g => { g with ended := g.ended + 1 })

/-- The dispatcher counts the task of its launch and its field. -/
def State.taskCounted (s : State) (t : Task) : State :=
  (s.updLaunch t.jseq (fun l => l.oneEnded t.stage)).updField t (fun f => { f with ended := t.logical :: f.ended })

/-- The queues of the stage are closed when it has ended (R194). -/
def State.stageClosed (s : State) (t : Task) (st : StageRun) : State :=
  if st.tcnt ≤ st.ended then
    { s with disp := { s.disp with queues := s.disp.queues.map (fun q => if q.jseq = t.jseq ∧ q.stage = t.stage then { q with cl := true } else q) } }
  else s

/-- The end of a task whose launch and field stand, in the parts above. -/
theorem endTask_eq (s : State) (n : Nat) (t : Task) (l : Launch) (f : Field) (htask : (s.coreAt n).task = some t)
    (hl : ((s.taskLeft n t).taskCounted t).launch t.jseq = some l)
    (hf : (((s.taskLeft n t).taskCounted t).stageClosed t (l.stage t.stage)).fieldOf t = some f) :
    s.endTask n = if f.tasks (l.stage t.stage) ≤ f.ended.length
      then (((s.taskLeft n t).taskCounted t).stageClosed t (l.stage t.stage)).fieldEnd f
      else ((s.taskLeft n t).taskCounted t).stageClosed t (l.stage t.stage) := by
  unfold State.endTask
  simp only [htask]
  split
  · next h => exact absurd (h.symm.trans hl) (by simp)
  · next l' h =>
    obtain rfl : l' = l := Option.some.inj (h.symm.trans hl)
    split
    · next h => exact absurd (h.symm.trans hf) (by simp)
    · next f' h =>
      obtain rfl : f' = f := Option.some.inj (h.symm.trans hf)
      rfl

/-! What the parts make of the state. -/

@[simp] theorem State.coreAt_countedOff (s : State) (n k : Nat) (t : Task) : (s.countedOff n t).coreAt k = s.coreAt k := by
  unfold State.countedOff; split <;> rfl
@[simp] theorem State.work_countedOff (s : State) (n : Nat) (t : Task) : (s.countedOff n t).work = s.work := by
  unfold State.countedOff; split <;> rfl

theorem State.nrun_countedOff (s : State) (n : Nat) (t : Task) : ((s.countedOff n t).cap t.caps).nrun =
    if s.fieldStarted n then (s.cap t.caps).nrun - 1#16 else (s.cap t.caps).nrun := by
  unfold State.countedOff
  split
  · simp [State.cap_updCap]
  · rfl

theorem State.tabs_taskLeft (s : State) (n : Nat) (t : Task) : (s.taskLeft n t).tabs = (s.countedOff n t).tabs := by
  simp [State.taskLeft]

theorem State.work_taskLeft (s : State) (n : Nat) (t : Task) : (s.taskLeft n t).work = s.work := by
  have h : (s.taskLeft n t).work = (((s.countedOff n t).endLease n).writeBackWs n).work := rfl
  simp [h]

theorem State.launch_taskLeft (s : State) (n j : Nat) (t : Task) : (s.taskLeft n t).launch j = s.launch j :=
  State.launch_of_work (State.work_taskLeft s n t) j

theorem State.fieldOf_taskLeft (s : State) (n : Nat) (t k : Task) : (s.taskLeft n t).fieldOf k = s.fieldOf k :=
  State.fieldOf_of_work (State.work_taskLeft s n t) k

theorem State.nrun_taskLeft (s : State) (n : Nat) (t : Task) : ((s.taskLeft n t).cap t.caps).nrun =
    if s.fieldStarted n then (s.cap t.caps).nrun - 1#16 else (s.cap t.caps).nrun := by
  rw [State.cap, State.tabs_taskLeft]
  exact State.nrun_countedOff s n t

theorem State.task_taskLeft (s : State) (n : Nat) (t : Task) : ((s.taskLeft n t).coreAt n).task = none := by
  simp [State.taskLeft, State.coreAt_updCore, Core.dropTask]

theorem State.byte_taskLeft (s : State) (n i : Nat) (t : Task) (hin : (s.coreAt n).wsIn = true) (hi : i < 2368) :
    (s.taskLeft n t).mem.byte (kPad n ((s.coreAt n).wsOff + i)) = (s.coreAt n).wsByte i := by
  have h := State.byte_writeBackWs ((s.countedOff n t).endLease n) n i (by simpa using hin) hi
  simpa [State.taskLeft] using h

theorem Launch.stage_oneEnded (l : Launch) (st : Nat) :
    ((l.oneEnded st).stage st).tcnt = (l.stage st).tcnt ∧ ((l.oneEnded st).stage st).w = (l.stage st).w := by
  by_cases h : st < l.stages.length <;> simp [Launch.oneEnded, Launch.updStage, Launch.stage, List.getD, h]

theorem State.launch_taskCounted (s : State) (t : Task) (l : Launch) (hl : s.launch t.jseq = some l) :
    (s.taskCounted t).launch t.jseq = some (l.oneEnded t.stage) := by
  have h := State.launch_updLaunch_self s t.jseq (fun l => l.oneEnded t.stage) (fun _ => rfl)
  rw [hl] at h
  exact h

theorem State.fieldOf_taskCounted (s : State) (t : Task) (f : Field) (hf : s.fieldOf t = some f) :
    (s.taskCounted t).fieldOf t = some { f with ended := t.logical :: f.ended } := by
  have h := State.fieldOf_updField_self (s.updLaunch t.jseq (fun l => l.oneEnded t.stage)) t (fun f => { f with ended := t.logical :: f.ended })
    (fun _ => ⟨rfl, rfl, rfl⟩)
  rw [show (s.updLaunch t.jseq (fun l => l.oneEnded t.stage)).fieldOf t = some f from hf] at h
  exact h

theorem State.stageClosed_keeps {β : Type} (P : State → β) (hP : ∀ (s : State) (q : List StageQ), P { s with disp := { s.disp with queues := q } } = P s)
    (s : State) (t : Task) (st : StageRun) : P (s.stageClosed t st) = P s := by
  unfold State.stageClosed
  split
  · exact hP _ _
  · rfl

/-- The state in which the dispatcher has counted the end of a task. -/
def State.taskEnded (s : State) (t : Task) (l : Launch) : State := (s.taskCounted t).stageClosed t ((l.oneEnded t.stage).stage t.stage)

theorem State.taskEnded_keeps {β : Type} (P : State → β) (hP : ∀ (s : State) (d : Disp), P { s with disp := d } = P s)
    (s : State) (t : Task) (l : Launch) : P (s.taskEnded t l) = P s :=
  (State.stageClosed_keeps P (fun s _ => hP s _) _ _ _).trans (hP s _)

theorem State.launch_taskEnded (s : State) (t : Task) (l : Launch) (hl : s.launch t.jseq = some l) :
    (s.taskEnded t l).launch t.jseq = some (l.oneEnded t.stage) :=
  (State.stageClosed_keeps (fun s => s.launch t.jseq) (fun _ _ => rfl) _ _ _).trans (State.launch_taskCounted s t l hl)

theorem State.fieldOf_taskEnded (s : State) (t : Task) (l : Launch) (f : Field) (hf : s.fieldOf t = some f) :
    (s.taskEnded t l).fieldOf t = some { f with ended := t.logical :: f.ended } :=
  (State.stageClosed_keeps (fun s => s.fieldOf t) (fun _ _ => rfl) _ _ _).trans (State.fieldOf_taskCounted s t f hf)

/-- The end of a field frees every core of it and touches no memory, table or launch (R22, R219). -/
theorem State.fieldEnd_spec (s : State) (f : Field) : (∀ k, (s.fieldEnd f).coreAt k = if k ∈ f.cores then (s.coreAt k).dropTask else s.coreAt k) ∧
    (s.fieldEnd f).mem = s.mem ∧ (s.fieldEnd f).tabs = s.tabs ∧ (s.fieldEnd f).disp.launches = s.disp.launches := by
  have hc : ∀ (β : Type) (P : State → β), (∀ (s : State) (c : Nat) (g : Cluster → Cluster), P (s.updCluster c g) = P s) →
      (∀ (s : State) (l : List Field), P { s with disp := { s.disp with fields := l } } = P s) →
      P (s.fieldEnd f) = P (f.cores.foldl (fun s n => s.updCore n Core.dropTask) s) := by
    intro β P hP hd
    unfold State.fieldEnd
    exact (hd _ _).trans (foldl_keeps P _ (fun s c => hP s c _) _ _)
  have hk : ∀ (β : Type) (P : State → β), (∀ s n g, P (State.updCore s n g) = P s) →
      P (f.cores.foldl (fun s n => s.updCore n Core.dropTask) s) = P s := fun β P hP => foldl_keeps P _ (fun s n => hP s n _) _ s
  refine ⟨fun k => ?_, ?_, ?_, ?_⟩
  · rw [hc _ (fun s => s.coreAt k) (fun _ _ _ => rfl) (fun _ _ => rfl)]
    exact State.coreAt_foldl_updCore Core.dropTask (fun _ => rfl) _ _ _
  · exact (hc _ State.mem (fun _ _ _ => rfl) (fun _ _ => rfl)).trans (hk _ State.mem (fun _ _ _ => rfl))
  · exact (hc _ State.tabs (fun _ _ _ => rfl) (fun _ _ => rfl)).trans (hk _ State.tabs (fun _ _ _ => rfl))
  · exact (hc _ (fun s => s.disp.launches) (fun _ _ _ => rfl) (fun _ _ => rfl)).trans (hk _ (fun s => s.disp.launches) (fun _ _ _ => rfl))

/-- What the end of a task leaves: `c` is the core as it stood. -/
structure TaskEnded (s t : State) (n : Nat) (k : Task) (l : Launch) (f : Field) (c : Core) : Prop where
  task : (t.coreAt n).task = none
  nrun : (t.cap k.caps).nrun = if s.fieldStarted n then (s.cap k.caps).nrun - 1#16 else (s.cap k.caps).nrun
  counted : ∃ m, t.launch k.jseq = some m ∧ m.ntask = l.ntask + 1
  saved : ∀ i, i < 2368 → t.mem.byte (kPad n (c.wsOff + i)) = c.wsByte i
  freed : f.tasks (l.stage k.stage) ≤ f.ended.length + 1 → ∀ m ∈ f.cores, (t.coreAt m).task = none

theorem endTask_spec (s : State) (n : Nat) (k : Task) (l : Launch) (f : Field) (htask : (s.coreAt n).task = some k)
    (hl : s.launch k.jseq = some l) (hf : s.fieldOf k = some f) (hin : (s.coreAt n).wsIn = true) :
    TaskEnded s (s.endTask n) n k l f (s.coreAt n) := by
  have hl' := (State.launch_taskLeft s n k.jseq k).trans hl
  have hf' := (State.fieldOf_taskLeft s n k k).trans hf
  have hlu := State.launch_taskEnded _ k l hl'
  have hfu := State.fieldOf_taskEnded _ k l f hf'
  rw [endTask_eq s n k _ _ htask (State.launch_taskCounted _ k l hl') hfu]
  change TaskEnded s (if _ then ((s.taskLeft n k).taskEnded k l).fieldEnd _ else (s.taskLeft n k).taskEnded k l) n k l f (s.coreAt n)
  have hcore := (State.taskEnded_keeps (fun s => (s.coreAt n).task) (fun _ _ => rfl) _ k l).trans (State.task_taskLeft s n k)
  have hnrun := (State.taskEnded_keeps (fun s => (s.cap k.caps).nrun) (fun _ _ => rfl) _ k l).trans (State.nrun_taskLeft s n k)
  have hbytes : ∀ i, i < 2368 → ((s.taskLeft n k).taskEnded k l).mem.byte (kPad n ((s.coreAt n).wsOff + i)) = (s.coreAt n).wsByte i :=
    fun i hi => (State.taskEnded_keeps (fun s => s.mem.byte _) (fun _ _ => rfl) _ k l).trans (State.byte_taskLeft s n i k hin hi)
  obtain ⟨htcnt, hw⟩ := l.stage_oneEnded k.stage
  have hended : Field.tasks { f with ended := k.logical :: f.ended } ((l.oneEnded k.stage).stage k.stage) = f.tasks (l.stage k.stage) := by
    simp only [Field.tasks, htcnt, hw]
  rw [hended]
  generalize (s.taskLeft n k).taskEnded k l = u at *
  split
  · obtain ⟨ecore, emem, etabs, elaunch⟩ := u.fieldEnd_spec { f with ended := k.logical :: f.ended }
    refine ⟨?_, ?_, ⟨l.oneEnded k.stage, ?_, rfl⟩, fun i hi => ?_, fun _ m hm => ?_⟩
    · rw [ecore n]; split
      · rfl
      · exact hcore
    · rw [← hnrun, State.cap, etabs]; rfl
    · rw [← hlu, State.launch, elaunch]; rfl
    · rw [← hbytes i hi, emem]
    · have hm' : m ∈ Field.cores { f with ended := k.logical :: f.ended } := hm
      rw [ecore m, if_pos hm']; rfl
  · next h => exact ⟨hcore, hnrun, ⟨_, hlu, rfl⟩, hbytes, fun h' => absurd h' h⟩

/-! A retirement that ends the task. -/

@[simp] theorem Core.task_wx (c : Core) (r : BitVec 5) (w : Word) : (c.wx r w).task = c.task := by unfold Core.wx; split <;> rfl
@[simp] theorem Core.csr_wx (c : Core) (r : BitVec 5) (w : Word) : (c.wx r w).csr = c.csr := by unfold Core.wx; split <;> rfl
@[simp] theorem Core.mode_wx (c : Core) (r : BitVec 5) (w : Word) : (c.wx r w).mode = c.mode := by unfold Core.wx; split <;> rfl

theorem Core.wsByte_congr {a b : Core} (hx : a.x = b.x) (hv : a.v = b.v) (hm : a.m = b.m) (i : Nat) : a.wsByte i = b.wsByte i := by
  simp only [Core.wsByte, hx, hv, hm]

theorem Core.wsOff_congr {a b : Core} (h : a.csr = b.csr) : a.wsOff = b.wsOff :=
  congrArg (fun r : Csr => r.wsp.toNat - 0x22000000000) h

/-- The workspace lies in the own scratchpad when it begins and ends there (R69). -/
theorem Core.wsIn_iff (c : Core) : c.wsIn = true ↔ 0x22000000000 ≤ c.csr.wsp.toNat ∧ c.wsOff + 2368 ≤ 0x40000 := by
  unfold Core.wsIn
  rw [Bool.and_eq_true, decide_eq_true_iff, decide_eq_true_iff]
  exact Iff.rfl

theorem Core.wsIn_congr {a b : Core} (h : a.csr = b.csr) (hb : b.wsIn = true) : a.wsIn = true := by
  rw [Core.wsIn_iff] at hb ⊢
  rw [h, Core.wsOff_congr h]
  exact hb

theorem State.fieldStarted_congr {s t : State} {n : Nat} (htask : (t.coreAt n).task = (s.coreAt n).task) (hdisp : t.disp = s.disp) :
    t.fieldStarted n = s.fieldStarted n := by
  simp only [State.fieldStarted, State.fieldOf, htask, hdisp]

theorem Core.of_plain {a b : Core} (h : a.plain = b.plain) :
    a.x = b.x ∧ a.v = b.v ∧ a.m = b.m ∧ a.csr = b.csr ∧ a.task = b.task ∧ a.mode = b.mode := by
  have hx := congrArg Core.x h
  have hv := congrArg Core.v h
  have hm := congrArg Core.m h
  have hcsr := congrArg Core.csr h
  have htask := congrArg Core.task h
  have hmode := congrArg Core.mode h
  exact ⟨hx, hv, hm, hcsr, htask, hmode⟩

/-- The task of a core ends after a change that leaves the core, but for what a retirement sets, as `d`. -/
theorem endTask_retired (s r : State) (n : Nat) (k : Task) (l : Launch) (f : Field) (d : Core) (hplain : (r.coreAt n).plain = d.plain)
    (hout : OutsideKept s r) (htask : (s.coreAt n).task = some k) (hl : s.launch k.jseq = some l) (hf : s.fieldOf k = some f)
    (hd : d.task = (s.coreAt n).task) (hin : d.wsIn = true) : TaskEnded s (r.endTask n) n k l f d := by
  obtain ⟨-, -, -, -, htabs, hdisp, -⟩ := hout
  obtain ⟨hx, hv, hm, hcsr, hrtask, -⟩ := Core.of_plain hplain
  have hoff := Core.wsOff_congr hcsr
  obtain ⟨e1, e2, e3, e4, e5⟩ := endTask_spec r n k l f (hrtask.trans (hd.trans htask)) (by rw [← hl]; simp only [State.launch, hdisp])
    (by rw [← hf]; simp only [State.fieldOf, hdisp]) (Core.wsIn_congr hcsr hin)
  refine ⟨e1, ?_, e3, fun i hi => ?_, e5⟩
  · rw [e2, State.fieldStarted_congr (hrtask.trans hd) hdisp, State.cap, htabs]; rfl
  · rw [← hoff, e4 i hi]; exact Core.wsByte_congr hx hv hm i

/-- A change of vector timing alone keeps the end of the task. -/
theorem TaskEnded.awaitVector {s t : State} {n : Nat} {k : Task} {l : Launch} {f : Field} {d : Core} (h : TaskEnded s t n k l f d) :
    TaskEnded s (t.updCore n Core.awaitVector) n k l f d := by
  obtain ⟨e1, e2, e3, e4, e5⟩ := h
  have htask : ∀ m, ((t.updCore n Core.awaitVector).coreAt m).task = (t.coreAt m).task := fun m => by
    rw [State.coreAt_updCore]; split
    · next h => subst h; rfl
    · rfl
  exact ⟨(htask n).trans e1, e2, e3, e4, fun hle m hm => (htask m).trans (e5 hle m hm)⟩

theorem State.jumped_taskExit (s : State) (n : Nat) (hmode : (s.coreAt n).mode = .u) :
    s.jumped n taskExit = (s.retireTo n taskExit).endTask n := by
  simp [State.jumped, hmode]

theorem taskExit_aligned : ¬ taskExit.toNat % 4 ≠ 0 := by decide

section Exit
variable (n : Nat) (k : Task) (l : Launch) (f : Field) (s : State) (hmode : (s.coreAt n).mode = .u)
  (htask : (s.coreAt n).task = some k) (hl : s.launch k.jseq = some l) (hf : s.fieldOf k = some f) (hin : (s.coreAt n).wsIn = true)
include hmode htask hl hf hin

/-- A jump of user mode to the task-exit address retires and ends the task. -/
theorem jump_taskExit (rd : BitVec 5) :
    ∃ t, s.jump n rd taskExit = .ok t ∧ TaskEnded s t n k l f ((s.coreAt n).wx rd (s.coreAt n).next) := by
  obtain ⟨u, hu⟩ : ∃ u, u = s.updCore n (fun c => c.wx rd (c.pc + 4#64)) := ⟨_, rfl⟩
  have hcore : u.coreAt n = (s.coreAt n).wx rd (s.coreAt n).next := by rw [hu, State.coreAt_updCore, if_pos rfl]; rfl
  have hmode' : (u.coreAt n).mode = .u := by rw [hcore, Core.mode_wx, hmode]
  obtain ⟨⟨hplain, -⟩, -, hout⟩ := retireTo_spec u n taskExit
  refine ⟨(u.retireTo n taskExit).endTask n, ?_, endTask_retired s _ n k l f _ (hplain.trans (congrArg Core.plain hcore))
    (.trans (hu ▸ outside_updCore _ _ _) hout) htask hl hf (Core.task_wx _ _ _) (Core.wsIn_congr (Core.csr_wx _ _ _) hin)⟩
  rw [State.jump, if_neg taskExit_aligned, ← hu, State.jumped_taskExit u n hmode']

/-- So does a taken branch. -/
theorem takeBranch_taskExit : ∃ t, s.takeBranch n taskExit = .ok t ∧ TaskEnded s t n k l f (s.coreAt n) := by
  obtain ⟨⟨hplain, -⟩, -, hout⟩ := retireBranch_spec s n taskExit true
  refine ⟨(s.retireBranch n taskExit true).endTask n, ?_, endTask_retired s _ n k l f _ hplain hout htask hl hf rfl hin⟩
  rw [State.takeBranch, if_neg taskExit_aligned, hmode]
  rfl

end Exit

/-- A branch whose condition holds takes its target. -/
theorem exec_branch_taken (p : (BitVec 5 → BitVec 5 → BitVec 7 → BitVec 5 → Instr) × (Word → Word → Prop)) (hp : p ∈ branchOps)
    (rs1 rs2 : BitVec 5) (hi : BitVec 7) (lo : BitVec 5) (n : Nat) (s : State) (hcur : s.run.cur = .core n)
    (h : p.2 ((s.coreAt n).rx rs1) ((s.coreAt n).rx rs2)) :
    exec (p.1 rs1 rs2 hi lo) s = finish n (s.takeBranch n ((s.coreAt n).pc + immB hi lo)) := by
  have hbranch (taken : Word → Word → Bool) (ht : taken ((s.coreAt n).rx rs1) ((s.coreAt n).rx rs2) = true) :
      branch taken rs1 rs2 hi lo s = finish n (s.takeBranch n ((s.coreAt n).pc + immB hi lo)) := by
    simp only [branch, rx_core s n hcur, ht, if_true, hcur, runAny]
  simp only [branchOps, List.mem_cons, List.not_mem_nil, or_false] at hp
  rcases hp with rfl | rfl | rfl | rfl | rfl | rfl
  · exact hbranch (fun a b => a == b) (by simpa using h)
  · exact hbranch (fun a b => a != b) (by simpa using h)
  · exact hbranch (fun a b => a.slt b) (by simpa [BitVec.slt] using h)
  · exact hbranch (fun a b => b.sle a) (by simpa [BitVec.sle] using h)
  · exact hbranch (fun a b => a.ult b) (by simpa [BitVec.ult] using h)
  · exact hbranch (fun a b => b.ule a) (by simpa [BitVec.ule] using h)

/-- Settles O46: each of the three retires to the task-exit address in user mode, and the end of the task then writes the registers back. -/
theorem taskExitEndsTheTask : Obligations.TaskExitEndsTheTask := by
  intro n k l f s hcur hmode htask hl hf c o ends hlow hhigh
  have hin : c.wsIn = true := (Core.wsIn_iff c).mpr ⟨hlow, hhigh⟩
  have hends {i : Instr} {d : Core} {t : State} (he : exec i s = .next t) (hd : d.csr = c.csr) (h : TaskEnded s t n k l f d) : ends i d := by
    have hoff : d.wsOff = o := Core.wsOff_congr hd
    obtain ⟨e1, e2, e3, e4, e5⟩ := h
    exact ⟨t, he, e1, e2, e3, fun i hi => by rw [← hoff]; exact e4 i hi, e5⟩
  refine ⟨fun rd j hj => ?_, fun rd rs1 i hj => ?_, fun p hp rs1 rs2 hi lo hcond hb => ?_⟩
  · obtain ⟨t, ht, h⟩ := jump_taskExit n k l f s hmode htask hl hf hin rd
    refine hends ?_ (Core.csr_wx _ _ _) h
    change execJal rd j s = _
    have hdst : (s.coreAt n).pc + immJ j = taskExit := hj
    simp only [execJal, hcur, hdst, ht, finish]
  · obtain ⟨t, ht, h⟩ := jump_taskExit n k l f s hmode htask hl hf hin rd
    refine hends ?_ (Core.csr_wx _ _ _) h.awaitVector
    change execJalr rd rs1 i s = _
    have hdst : ((s.coreAt n).rx rs1 + immI i) &&& 0xFFFFFFFFFFFFFFFE#64 = taskExit := hj
    simp only [execJalr, runCore, hcur, hdst, ht]
    rfl
  · obtain ⟨t, ht, h⟩ := takeBranch_taskExit n k l f s hmode htask hl hf hin
    refine hends ?_ rfl h
    have hdst : (s.coreAt n).pc + immB hi lo = taskExit := hb
    rw [exec_branch_taken p hp rs1 rs2 hi lo n s hcur hcond, hdst, ht, finish_ok]

end Sys2Proof.Machine
end

section
/-! PROOFS. Votes (O45 fails). -/

namespace Sys2Proof.Machine

/-- A core of rank 0 in user mode that is about to vote, in the only team of its field. -/
def voter : Core := { Core.reset with mode := .u, task := some ⟨1, 0, 0, 0, 0, 0, 1, 1, false⟩ }

/-- Core 0 is listed twice, so the table of cores is not canonical: it reads as `voter`, and the entry that no read reaches names core 0 as
its leader. Core 1, another active rank of the field, has not voted. -/
def listedTwice : State :=
  { State.reset with
    cores := [(0, voter), (0, { voter with lead := some 0 })]
    disp := { Disp.reset with
      launches := [⟨1, 0, 1, 1, 0, 0#64, 0#64, 0, 0, [], [⟨16, 1, 1, 0⟩], true, 0, 0, 0⟩]
      fields := [⟨1, 0, 0, [0], [], List.range 16, [], 0⟩] } }

/-- The forwarded instructions of core 0 after a step's outcome. -/
def fwdAfter (r : Host.Outcome State Fault Refusal) : List Fwd := match r with | .next t => (t.coreAt 0).fwd | _ => []

/-- Its vote is forwarded to core 0 itself, as to a follower. -/
theorem fwdAfter_vote : fwdAfter (exec (.voteAnd 0#5 0#5) listedTwice) = [⟨0#32, voter.pc, voter.pc + 4#64, false, true⟩] := by
  decide +kernel

/-- Refutes O45: `VotesMeet` has no premise that the table of cores is canonical. Where the acting core is listed twice, a voter who is not
the last is told of its own vote, though the core that it reads as follows nobody; the statement has it unchanged there. -/
theorem not_votesAndFollowing : ¬ Obligations.VotesAndFollowing := by
  intro ⟨hvotes, _⟩
  have hvote := hvotes (.voteAnd, 0, false, 0xFFFFFFFF#32, fun a b => a &&& b) (List.mem_cons_self ..) 0#5 0#5 0 listedTwice
    rfl rfl rfl rfl rfl (by decide) (by decide)
  obtain ⟨-, hwaits, -⟩ := hvote
  have hvoter : 1 ∈ listedTwice.voters 0 := by decide
  obtain ⟨t, ht, hcore, -⟩ := hwaits 1 hvoter (by decide) rfl
  have hfwd : (t.coreAt 0).fwd = [] := by rw [hcore]; rfl
  have htold := fwdAfter_vote
  rw [ht] at htold
  exact absurd (hfwd.symm.trans htold) (by simp)

end Sys2Proof.Machine
end

section
/-! PROOFS. Self-ticks, rebases, throttling, the watchdog, revocation and quiescence (O49). -/

namespace Sys2Proof.Machine

/-! Error counters. -/

theorem errCounter_count (s : State) (i k : Nat) : errCounter (s.count i k) i = min (2 ^ 64 - 1) (errCounter s i + k) := by
  simp [errCounter, State.count]

/-- A counter rises by one when the state counts it and nothing before that did. -/
theorem countsOne_count {s t : State} (i : Nat) (h : t.tabs.errs = s.tabs.errs) : CountsOne s (t.count i 1) i := by
  rw [CountsOne, errCounter_count, errCounter, h, errCounter]

/-! Self-ticks. -/

theorem get_consCore (n : Nat) (c : Core) (l : Tbl Core) (w : Tbl.wfAbove Core.reset (n + 1) l = true) (k : Nat) :
    Tbl.get Core.reset (consCore n c l) k = if k = n then c else Tbl.get Core.reset l k := by
  have hlow (h : k ≤ n) := Tbl.get_low Core.reset l (n + 1) k w (by omega)
  unfold consCore
  split
  · next hc =>
    split
    · next hk => rw [hlow (by omega), hc]
    · rfl
  · by_cases hk : k = n
    · simp [Tbl.get, hk]
    · by_cases hlt : k < n
      · simp [Tbl.get, hk, Ne.symm hk, hlt, hlow (by omega)]
      · simp [Tbl.get, hk, Ne.symm hk, hlt]

/-- One step of ticking: the core at `n` as it reads, then what stands above it. -/
theorem tickCores_succ (ceil k n : Nat) (l : Tbl Core) (w : Tbl.wfAbove Core.reset n l = true) :
    ∃ l', tickCores ceil (k + 1) n l = consCore n ((Tbl.get Core.reset l n).ticked ceil) (tickCores ceil k (n + 1) l') ∧
      Tbl.wfAbove Core.reset (n + 1) l' = true ∧ ∀ i, i ≠ n → Tbl.get Core.reset l' i = Tbl.get Core.reset l i := by
  cases l with
  | nil => exact ⟨[], rfl, rfl, fun _ _ => rfl⟩
  | cons e t =>
    obtain ⟨j, c⟩ := e
    simp only [Tbl.wfAbove, Bool.and_eq_true, decide_eq_true_eq] at w
    obtain ⟨⟨hj, hc⟩, ht⟩ := w
    by_cases h : j = n
    · subst h
      refine ⟨t, by simp [tickCores, Tbl.get], ht, fun i hi => ?_⟩
      by_cases hlt : i < j
      · rw [Tbl.get_low _ t (j + 1) i ht (by omega)]; simp [Tbl.get, Ne.symm hi, hlt]
      · simp [Tbl.get, Ne.symm hi, hlt]
    · refine ⟨(j, c) :: t, ?_, ?_, fun _ _ => rfl⟩
      · have hlt : n < j := by omega
        simp [tickCores, Tbl.get, h, hlt]
      · simp only [Tbl.wfAbove, Bool.and_eq_true, decide_eq_true_eq]
        exact ⟨⟨by omega, hc⟩, ht⟩

/-- Ticking `k` cores from number `n` on ticks each of them, listed or not, and no other. -/
theorem get_tickCores (ceil k n : Nat) (l : Tbl Core) (w : Tbl.wfAbove Core.reset n l = true) (i : Nat) :
    Tbl.get Core.reset (tickCores ceil k n l) i =
      if n ≤ i ∧ i < n + k then (Tbl.get Core.reset l i).ticked ceil else Tbl.get Core.reset l i := by
  induction k generalizing n l with
  | zero =>
    rw [if_neg (by omega)]
    cases l <;> rfl
  | succ k ih =>
    obtain ⟨l', heq, hw, hget⟩ := tickCores_succ ceil k n l w
    rw [heq, get_consCore _ _ _ (tickCores_wfAbove _ _ _ _ hw), ih _ _ hw]
    by_cases hi : i = n
    · subst hi; rw [if_pos rfl, if_pos (by omega)]
    · rw [if_neg hi, hget i hi]
      exact if_congr (by omega) rfl rfl

/-! Rebases. -/

theorem State.drain_empty (s : State) (n : Nat) (h : (s.coreAt n).sb = []) : s.drain n = .ok s := by
  simp only [State.drain, h, List.length_nil]; rfl

theorem State.drainAll_empty (s : State) (h : ∀ n, (s.coreAt n).sb = []) : s.drainAll = s := by
  have hl (l : List Nat) : l.foldl (fun s n => absorb (s.drain n)) s = s := by
    induction l with
    | nil => rfl
    | cons n l ih => rw [List.foldl_cons, State.drain_empty s n (h n), absorb, ih]
  exact hl s.listed

theorem State.buffersEmpty_of_coreAt (s : State) (w : Tbl.wf Core.reset s.cores = true) (h : ∀ n, (s.coreAt n).sb = []) :
    s.buffersEmpty = true := by
  refine List.all_eq_true.mpr fun e he => ?_
  have hget : s.coreAt e.1 = e.2 := (Tbl.get_of_mem Core.reset s.cores 0 w e.1 e.2 he).1
  rw [← hget, h]; rfl

/-- With every store buffer empty, a rebase reduces at once. -/
theorem State.rebase_empty (s : State) (w : Tbl.wf Core.reset s.cores = true) (h : ∀ n, (s.coreAt n).sb = []) :
    s.rebase = { (s.reduce (s.ceil - 2 ^ 24)).count cREBASE 1 with time := { s.time with tbase := 2 ^ 24, g0 := s.time.gtc } } := by
  have hcan : s.canRebase = true := by rw [State.canRebase, s.drainAll_empty h, s.buffersEmpty_of_coreAt w h]
  simp only [State.rebase, hcan, s.drainAll_empty h]
  rfl

theorem Core.rebase_reset (b : Nat) : Core.reset.rebase b = Core.reset := by
  have hbm : (Vector.replicate 128 0).map (fun m => m - b) = Vector.replicate 128 0 := by simp
  simp only [Core.rebase, Core.reset, Csr.reset, hbm, Nat.zero_sub, List.filter_nil, List.map_nil]

theorem State.coreAt_reduce (s : State) (b n : Nat) (w : Tbl.wf Core.reset s.cores = true) : (s.reduce b).coreAt n = (s.coreAt n).rebase b :=
  Tbl.get_mapCanon_fix Core.reset (fun c => c.rebase b) (Core.rebase_reset b) s.cores w n

/-- A core in the new scale: its clocks and marks are reduced, its registers stay and its shared copies leave (R129). -/
theorem Core.rebase_spec (c : Core) (b : Nat) : (c.rebase b).csr.lclk = c.csr.lclk - b ∧ (c.rebase b).swm = c.swm - b ∧
    (c.rebase b).scm = c.scm - b ∧ (c.rebase b).x = c.x ∧ ∀ a ∈ (c.rebase b).l1, a.owned = true := by
  refine ⟨rfl, rfl, rfl, rfl, fun a h => ?_⟩
  simp only [Core.rebase, List.mem_map, List.mem_filter] at h
  obtain ⟨a', ⟨-, ho⟩, rfl⟩ := h
  exact ho

/-! Fault records. -/

/-- The 64 bytes of a record. -/
def FaultRec.bytes (r : FaultRec) (fseqn gtc : Nat) : List Byte :=
  natToBytes 8 fseqn ++ natToBytes 2 r.cause ++ natToBytes 2 r.srck ++ natToBytes 4 r.unit ++ natToBytes 8 r.addr ++ natToBytes 1 r.kacc ++
    natToBytes 3 0 ++ natToBytes 4 r.fsec ++ natToBytes 8 r.tag ++ natToBytes 8 r.jseq ++ natToBytes 4 r.lcore ++ natToBytes 4 0 ++ natToBytes 8 gtc

theorem FaultRec.toNat_raw (r : FaultRec) (fseqn gtc : Nat) : (r.raw fseqn gtc).toNat = bytesToNat (r.bytes fseqn gtc) :=
  toNat_ofNat_bytes 64 (r.bytes fseqn gtc) (by simp [FaultRec.bytes])

/-- Bytes 8 and 9 of a record hold its cause. -/
theorem FaultRec.cause_bytes (r : FaultRec) (fseqn gtc : Nat) : (r.bytes fseqn gtc).getD 8 0#8 = BitVec.ofNat 8 r.cause ∧
    (r.bytes fseqn gtc).getD 9 0#8 = BitVec.ofNat 8 (r.cause / 256) := by
  simp [FaultRec.bytes, natToBytes]

/-- The cause that a fault record shows (R205). -/
theorem State.cause_putRecord (s : State) (ten i : Nat) (r : FaultRec) (fseqn gtc : Nat) (cmd : BitVec 512) :
    (s.putRecord ten i (r.raw fseqn gtc) cmd).mem.read (kCtrl (fqOff ten + 64 * (i % 1024) + 8)) 2 = r.cause % 65536 := by
  have hmem : (s.putRecord ten i (r.raw fseqn gtc) cmd).mem = (s.mem.write (kCtrl (fqOff ten + 64 * (i % 1024))) 64 (r.raw fseqn gtc).toNat).write
    (kCtrl (fqOff ten + 0x10000 + 64 * (i % 1024))) 64 cmd.toNat := by simp only [State.putRecord, State.mem_setMem]
  have hi : i % 1024 < 1024 := Nat.mod_lt _ (by decide)
  have hbyte (j : Nat) (hj : j < 64) : (s.mem.write (kCtrl (fqOff ten + 64 * (i % 1024))) 64 (r.raw fseqn gtc).toNat).byte
      (kCtrl (fqOff ten + 64 * (i % 1024)) + j) = (r.bytes fseqn gtc).getD j 0#8 := by
    rw [Mem.byte_write_in _ _ _ _ _ hj, FaultRec.toNat_raw, bytesToNat_byte]
  have hkey : kCtrl (fqOff ten + 64 * (i % 1024) + 8) = kCtrl (fqOff ten + 64 * (i % 1024)) + 8 := by simp only [kCtrl]; omega
  obtain ⟨hlow, hhigh⟩ := r.cause_bytes fseqn gtc
  rw [hmem, Mem.read_write_ne _ _ _ _ _ _ (Or.inl (by simp only [kCtrl]; omega)), hkey, Mem.read, Mem.read, Mem.read,
    hbyte 8 (by decide), Nat.add_assoc, hbyte 9 (by decide), hlow, hhigh]
  simp only [BitVec.toNat_ofNat]
  omega

theorem State.errs_setFq (s : State) (ten : Nat) (q : FaultQ) : (s.setFq ten q).tabs.errs = s.tabs.errs := rfl

/-- A fault record that finds room: the queue's count and the cause it shows (R205). -/
theorem State.putFault_spec (s : State) (ten : Nat) (r : FaultRec) (cmd : BitVec 512) (h : (s.fq ten).next - (s.fq ten).head < 1024) :
    ((s.putFault ten r cmd).1.fq ten).next = (s.fq ten).next + 1 ∧ (s.putFault ten r cmd).1.tabs.errs = s.tabs.errs ∧
      (s.putFault ten r cmd).1.disp = s.disp ∧ (s.putFault ten r cmd).1.mem.read (kCtrl (fqOff ten + 64 * ((s.fq ten).next % 1024) + 8)) 2 = r.cause % 65536 := by
  rw [putFault_room s ten r cmd h]
  refine ⟨by simp [State.fq, State.setFq], ?_, ?_, ?_⟩
  · rw [State.errs_setFq, State.tabs_putRecord]
  · rw [State.disp_setFq, State.disp_putRecord]
  · rw [State.mem_setFq, State.cause_putRecord]

/-- A self-tick ticks every core, listed or not (R121). -/
theorem State.selfTick_spec (s : State) (w : Tbl.wf Core.reset s.cores = true) :
    ∃ t, exec .selfTick s = .next t ∧ t.time = { s.time with ticks := s.time.ticks + 1 } ∧ t.mem = s.mem ∧
      ∀ n, n < 5120 → t.coreAt n = (s.coreAt n).ticked s.ceil := by
  have hget := get_tickCores s.ceil 5120 0 s.cores w
  change ∃ t, execSelfTick s = .next t ∧ _
  refine ⟨{ s with time := { s.time with ticks := s.time.ticks + 1 }, cores := tickCores s.ceil 5120 0 s.cores }, rfl, rfl, rfl, fun n hn => ?_⟩
  rw [State.coreAt, hget, if_pos ⟨Nat.zero_le _, by omega⟩, State.coreAt]

/-- The parts of the state that a rebase shows in its statement. -/
theorem State.reduce_spec (s : State) (b : Nat) : (s.reduce b).tabs.errs = s.tabs.errs ∧ (s.reduce b).mem = s.mem ∧
    (s.reduce b).home.llc = s.home.llc.map (fun (l : LlcLine) => { l with wts := l.wts - b, rts := l.rts - b }) := ⟨rfl, rfl, rfl⟩

/-- A rebase at the limit, with every store buffer empty (R129). -/
theorem State.rebase_spec (s : State) (w : Tbl.wf Core.reset s.cores = true) (h : ∀ n, (s.coreAt n).sb = []) :
    s.rebase.ceil = 2 ^ 24 ∧ CountsOne s s.rebase 20 ∧ SameMem s s.rebase ∧
      (∀ n, s.rebase.coreAt n = (s.coreAt n).rebase (s.ceil - 2 ^ 24)) ∧
      s.rebase.home.llc = s.home.llc.map (fun (l : LlcLine) => { l with wts := l.wts - (s.ceil - 2 ^ 24), rts := l.rts - (s.ceil - 2 ^ 24) }) := by
  rw [s.rebase_empty w h]
  generalize s.ceil - 2 ^ 24 = b
  have hcore := fun n => s.coreAt_reduce b n w
  obtain ⟨herrs, hmem, hllc⟩ := s.reduce_spec b
  generalize s.reduce b = v at *
  refine ⟨?_, countsOne_count (t := v) 20 herrs, fun a => ?_, hcore, hllc⟩
  · rw [State.ceil, Nat.sub_self, Nat.zero_div, Nat.add_zero]
  · exact congrArg (fun m : Mem => m.byte a) hmem

/-- Throttling withholds issue cycles from every core that does not stand as after reset (R35). -/
theorem State.throttle_spec (s : State) (k : Nat) (w : Tbl.wf Core.reset s.cores = true) :
    ∃ t, exec (.throttle k) s = .next t ∧ errCounter t 18 = min (2 ^ 64 - 1) (errCounter s 18 + k) ∧ t.time = s.time ∧
      ∀ n, s.coreAt n ≠ Core.reset → t.coreAt n = { s.coreAt n with vnext := max (s.coreAt n).vnext s.time.gtc + k } := by
  have hget := Tbl.get_mapCanon Core.reset (fun c => { c with vnext := max c.vnext s.time.gtc + k }) s.cores 0 w
  change ∃ t, execThrottle k s = .next t ∧ _
  refine ⟨_, rfl, errCounter_count _ 18 k, rfl, fun n hn => ?_⟩
  rw [State.coreAt_count, State.coreAt, hget]
  exact if_neg hn

/-- The watchdog freezes a core that has retired nothing for its time (R221). -/
theorem State.watchdogFreeze_spec (s : State) (n : Nat) (h : s.watched52 n (s.coreAt n) = true) (hlate : (s.coreAt n).lastRet + 3600000 ≤ s.time.gtc) :
    ∃ t, exec (.watchdogFreeze n) s = .next t ∧ (t.coreAt n).frz = some ⟨52, (s.coreAt n).pc, (s.coreAt n).pc, true, s.time.gtc⟩ ∧
      (t.coreAt n).x = (s.coreAt n).x ∧ CountsOne s t 9 := by
  change ∃ t, execWatchdogFreeze n s = .next t ∧ _
  rw [execWatchdogFreeze, if_pos ⟨h, hlate⟩]
  refine ⟨_, rfl, ?_, ?_, countsOne_count 9 rfl⟩
  · rw [State.coreAt_count, State.coreAt_updCore, if_pos rfl]; rfl
  · rw [State.coreAt_count, State.coreAt_updCore, if_pos rfl]; rfl

/-- An idle holder loses the lease (R308). -/
theorem State.leaseRevocation_spec (s : State) (c h : Nat) (hidle : s.leaseIdle c = true) (hlong : 65537 ≤ (s.clusterAt c).lidle)
    (hholder : (s.clusterAt c).holder = some h) : ∃ t, exec (.leaseRevocation c) s = .next t ∧
      t.clusterAt c = { s.clusterAt c with holder := none, lastHolder := some h, lidle := 0 } ∧ t.cores = s.cores ∧ SameMem s t := by
  change ∃ t, execLeaseRevocation c s = .next t ∧ _
  rw [execLeaseRevocation, if_pos ⟨hidle, hlong⟩]
  refine ⟨_, rfl, ?_, rfl, fun _ => rfl⟩
  rw [State.clusterAt_updCluster, if_pos rfl, hholder]

/-- A quiescent tenant raises cause 49 in its fault queue, once an episode (R243). -/
theorem State.quiescence_spec (s : State) (k : Nat) (hact : s.disp.active = some k) (hslot : s.slotActive k = true) (hq : s.quiescent k = true)
    (hnot : s.disp.quietRaised.contains k = false) (hlong : 65536 ≤ Tbl.get 0 s.disp.quiet k) (hroom : (s.fq k).next - (s.fq k).head < 1024) :
    ∃ t, exec (.quiescence k) s = .next t ∧ (t.fq k).next = (s.fq k).next + 1 ∧ t.disp.quietRaised = k :: s.disp.quietRaised ∧ CountsOne s t 21 ∧
      t.mem.read (kCtrl (fqOff k + 64 * ((s.fq k).next % 1024) + 8)) 2 = 49 := by
  obtain ⟨hnext, herrs, hdisp, hmem⟩ := s.putFault_spec k (s.unitRecord 49 k k) s.openCopy hroom
  change ∃ t, execQuiescence k s = .next t ∧ _
  rw [execQuiescence, if_pos ⟨hact, hslot, hq, by rw [hnot]; rfl, hlong⟩]
  generalize (s.putFault k (s.unitRecord 49 k k) s.openCopy).1 = v at *
  refine ⟨_, rfl, hnext, ?_, countsOne_count 21 herrs, hmem⟩
  exact congrArg (fun d : Disp => k :: d.quietRaised) hdisp

/-- Settles O49: one clause for each event. -/
theorem clocksMoveAsTheRulesSay : Obligations.ClocksMoveAsTheRulesSay := by
  intro s w
  refine ⟨s.selfTick_spec w, fun h => ?_, fun h hsb => ?_, fun k => s.throttle_spec k w, s.watchdogFreeze_spec, s.leaseRevocation_spec,
    s.quiescence_spec⟩
  · change execRebase s = _
    rw [execRebase, if_neg (Nat.not_le.mpr h)]
  · obtain ⟨hceil, hcount, hmem, hcore, hllc⟩ := s.rebase_spec w hsb
    refine ⟨s.rebase, ?_, hceil, hcount, hmem, fun n => ?_, hllc⟩
    · exact congrArg Host.Outcome.next (if_pos h)
    · rw [hcore n]
      exact Core.rebase_spec _ _

end Sys2Proof.Machine
end

section
/-! PROOFS. Placing and loading fields, and the power of clusters (O48). -/

namespace Sys2Proof.Machine

/-! Placement. -/

/-- The clusters of a pick are free ones (R19, R196). -/
theorem State.picks_free (s : State) (l : Launch) (st : Nat) (teams held : List Nat) (h : s.picks l st = some (teams, held)) :
    ∀ c ∈ teams ++ held, c ∈ s.freeClusters l.ten := by
  intro c hc
  unfold State.picks at h
  dsimp only at h
  split at h
  · split at h
    · next r hr =>
      obtain ⟨rfl, rfl⟩ := Prod.mk.inj (Option.some.inj h)
      rw [List.take_append_drop] at hc
      have hgood := List.find?_some hr
      obtain ⟨hfree, -⟩ := Bool.and_eq_true_iff.mp hgood
      simpa using List.all_eq_true.mp hfree c hc
    · cases h
  · split at h
    · cases h
    · split at h
      · obtain ⟨rfl, rfl⟩ := Prod.mk.inj (Option.some.inj h)
        rw [List.append_nil] at hc
        exact List.mem_of_mem_take hc
      · split at h
        · split at h
          · obtain ⟨rfl, rfl⟩ := Prod.mk.inj (Option.some.inj h)
            rw [List.append_nil] at hc
            exact List.mem_of_mem_filter (List.mem_of_mem_take hc)
          · cases h
        · cases h

/-- A field without a gang, with no stage to keep clusters for, takes the first free ones (R19). -/
theorem State.picks_first (s : State) (l : Launch) (st : Nat) (teams held : List Nat) (h : s.picks l st = some (teams, held))
    (hgang : (s.cap l.caps).gang st = none) (hkept : s.keptStages l st = []) :
    teams = (s.freeClusters l.ten).take ((l.stage st).teams (l.stage st).placed) := by
  simp only [State.picks, hgang, hkept, reserveFor, Option.isSome_some, if_true] at h
  split at h
  · cases h
  · exact (Prod.mk.inj (Option.some.inj h)).1.symm

theorem State.zeroSram_keeps {β : Type} (P : State → β) (hmem : ∀ s m, P (State.setMem s m) = P s) (hhome : ∀ (s : State) (h : Home), P { s with home := h } = P s)
    (hcluster : ∀ s c f, P (State.updCluster s c f) = P s) (s : State) (c : Nat) : P (s.zeroSram c) = P s := by
  unfold State.zeroSram
  exact (hcluster _ _ _).trans ((hhome _ _).trans (hmem _ _))

/-- Zeroing a cluster's SRAM changes no other cluster, and neither whose the cluster is nor its power (R216). -/
theorem State.clusterAt_zeroSram (s : State) (c k : Nat) :
    ((s.zeroSram c).clusterAt k).user = (s.clusterAt k).user ∧ ((s.zeroSram c).clusterAt k).power = (s.clusterAt k).power := by
  unfold State.zeroSram
  dsimp only
  rw [State.clusterAt_updCluster]
  split
  · next h => subst h; exact ⟨rfl, rfl⟩
  · exact ⟨rfl, rfl⟩

theorem State.disp_takeCluster (s : State) (t c : Nat) : (s.takeCluster t c).disp = s.disp := by
  unfold State.takeCluster
  dsimp only
  split
  · rfl
  · exact State.zeroSram_keeps State.disp (fun _ _ => rfl) (fun _ _ => rfl) (fun _ _ _ => rfl) s c

/-- Has the cluster gone to this tenant, with power called for? -/
def State.taken (s : State) (t c : Nat) : Prop := (s.clusterAt c).user = some t ∧ (s.clusterAt c).power ≠ .gated

/-- Taking a cluster takes it, and leaves taken what was taken (R20). -/
theorem State.taken_takeCluster (s : State) (t c k : Nat) (h : k = c ∨ s.taken t k) : (s.takeCluster t c).taken t k := by
  unfold State.takeCluster State.taken
  dsimp only
  rw [State.clusterAt_updCluster]
  split
  · refine ⟨rfl, ?_⟩
    dsimp only
    split <;> simp_all
  · next hk =>
    obtain ⟨huser, hpower⟩ := h.resolve_left hk
    split
    · exact ⟨huser, hpower⟩
    · obtain ⟨hu, hp⟩ := s.clusterAt_zeroSram c k
      exact ⟨hu.trans huser, hp ▸ hpower⟩

theorem State.taken_foldl (t : Nat) (l : List Nat) (s : State) (k : Nat) (h : k ∈ l ∨ s.taken t k) :
    (l.foldl (fun s c => s.takeCluster t c) s).taken t k := by
  induction l generalizing s with
  | nil => exact h.resolve_left (List.not_mem_nil)
  | cons c l ih =>
    refine ih _ ?_
    rcases h with hmem | htaken
    · rcases List.mem_cons.mp hmem with rfl | hl
      · exact .inr (State.taken_takeCluster s t k k (.inl rfl))
      · exact .inl hl
    · exact .inr (State.taken_takeCluster s t c k (.inr htaken))

/-- A field that may be placed takes the clusters of its pick (R13, R15, R19). -/
theorem State.fieldPlacement_spec (s : State) (j st : Nat) (l : Launch) (teams held : List Nat) (hl : s.launch j = some l)
    (hrun : l.running = true) (hwaits : (l.stage st).waits = true) (hslot : s.slotActive l.ten = true) (hturn : s.stageTurn l st = true)
    (hpicks : s.picks l st = some (teams, held)) : ∃ t, exec (.fieldPlacement j st) s = .next t ∧
      t.disp.fields = s.disp.fields ++ [⟨j, st, (l.stage st).placed, teams, held, [], [], 0⟩] ∧ ∀ c ∈ teams ++ held, t.taken l.ten c := by
  change ∃ t, execFieldPlacement j st s = .next t ∧ _
  simp only [execFieldPlacement, hl, hrun, hwaits, hslot, hturn, Bool.and_self, if_true, hpicks]
  have hdisp := foldl_keeps State.disp _ (fun s c => State.disp_takeCluster s l.ten c) (teams ++ held) s
  have htaken := fun k hk => State.taken_foldl l.ten (teams ++ held) s k (.inl hk)
  generalize (teams ++ held).foldl (fun s c => s.takeCluster l.ten c) s = u at *
  exact ⟨_, rfl, congrArg (fun d : Disp => d.fields ++ _) hdisp, htaken⟩

/-! Loading a rank. -/

/-- The bytes that a task finds: a zeroed workspace and the argument block (R69, R370). -/
def State.argsWritten (s : State) (n : Nat) (l : Launch) : State :=
  (s.padWrite n 0x3F000 (List.replicate 2368 (some 0#8))).padWrite n 0x3FFB8 ((l.args.flatMap (fun a => natToBytes 8 a.toNat)).map some)

/-- The rank stands on its core, and the field counts it as loaded. -/
def State.rankLoaded (s : State) (n : Nat) (l : Launch) (t : Task) : State :=
  ((s.updCore n (fun c => c.load l t (s.cap l.caps) s.time.gtc)).forgetCycle n).updField t (fun g => { g with loaded := t.logical :: g.loaded })

theorem State.coreAt_rankLoaded (s : State) (n : Nat) (l : Launch) (t : Task) :
    (s.rankLoaded n l t).coreAt n = (s.coreAt n).load l t (s.cap l.caps) s.time.gtc :=
  (State.coreAt_updCore s n n (fun c => c.load l t (s.cap l.caps) s.time.gtc)).trans (if_pos rfl)

theorem State.mem_rankLoaded (s : State) (n : Nat) (l : Launch) (t : Task) : (s.rankLoaded n l t).mem = s.mem := rfl

theorem State.tabs_rankLoaded (s : State) (n : Nat) (l : Launch) (t : Task) : (s.rankLoaded n l t).tabs = s.tabs := rfl

theorem State.fieldOf_rankLoaded (s : State) (n : Nat) (l : Launch) (t : Task) :
    (s.rankLoaded n l t).fieldOf t = (s.fieldOf t).map (fun g => { g with loaded := t.logical :: g.loaded }) :=
  State.fieldOf_updField_self _ t _ (fun _ => ⟨rfl, rfl, rfl⟩)

theorem State.tabs_argsWritten (s : State) (n : Nat) (l : Launch) : (s.argsWritten n l).tabs = s.tabs := by
  rw [State.argsWritten, State.tabs_padWrite, State.tabs_padWrite]

theorem State.work_argsWritten (s : State) (n : Nat) (l : Launch) : (s.argsWritten n l).work = s.work := by
  rw [State.argsWritten, State.work_padWrite, State.work_padWrite]

theorem State.cap_of_tabs {s t : State} (h : t.tabs = s.tabs) (n : Nat) : t.cap n = s.cap n := by
  rw [State.cap, h, State.cap]

/-- The watchdog of a core that has a task counts from now (R243). -/
def State.coreWatched (s : State) (m : Nat) : State :=
  s.updCore m (fun c => if c.task.isSome then { c with lastRet := s.time.gtc } else c)

/-- A load of a rank that is not idle, in its parts. -/
theorem loadTask_eq (s : State) (n : Nat) (l : Launch) (f : Field) (t : Task) (h : t.idle = false) :
    s.loadTask n l f t = f.cores.foldl State.coreWatched
      (((s.argsWritten n l).rankLoaded n l t).startField l t) := by
  unfold State.loadTask
  rw [h]
  rfl

theorem Vector.getD_setIfInBounds {α : Type} {n : Nat} (v : Vector α n) (i j : Nat) (a d : α) (h : i < n) :
    (v.setIfInBounds i a).getD j d = if j = i then a else v.getD j d := by
  by_cases hj : j = i
  · subst hj; simp [Vector.getD, Array.getD, h]
  · by_cases hn : j < n
    · simp [Vector.getD, Array.getD, hn, hj, Ne.symm hj]
    · simp [Vector.getD, Array.getD, hn, hj]

/-- A task finds ra, a0 and a1 set and every other x register zero (R17). -/
theorem Core.rx_load (c : Core) (l : Launch) (t : Task) (cap : Caps) (now : Nat) (r : BitVec 5) :
    (c.load l t cap now).rx r = if r = 1#5 then 0x3E400000000#64 else if r = 10#5 then 0x2200003FFB8#64
      else if r = 11#5 then BitVec.ofNat 64 t.index else 0#64 := by
  have hx : (c.load l t cap now).x = ((Core.reset.x.setIfInBounds 1 0x3E400000000#64).setIfInBounds 10 0x2200003FFB8#64).setIfInBounds 11
    (BitVec.ofNat 64 t.index) := rfl
  have hreset : Core.reset.x.getD r.toNat 0#64 = 0#64 := by
    have hr := r.isLt
    simp [Core.reset, Vector.getD, hr]
  have h1 : r.toNat = 1 ↔ r = 1#5 := BitVec.toNat_inj (y := 1#5)
  have h10 : r.toNat = 10 ↔ r = 10#5 := BitVec.toNat_inj (y := 10#5)
  have h11 : r.toNat = 11 ↔ r = 11#5 := BitVec.toNat_inj (y := 11#5)
  simp only [Core.rx, hx, Vector.getD_setIfInBounds _ _ _ _ _ (show 11 < 32 by decide), Vector.getD_setIfInBounds _ _ _ _ _ (show 10 < 32 by decide),
    Vector.getD_setIfInBounds _ _ _ _ _ (show 1 < 32 by decide), hreset, h1, h10, h11]
  split_ifs <;> simp_all

theorem Core.rv_load (c : Core) (l : Launch) (t : Task) (cap : Caps) (now : Nat) (r : BitVec 5) : (c.load l t cap now).rv r = 0#512 := by
  have hr := r.isLt
  simp [Core.rv, Core.load, Core.reset, Vector.getD, hr]

/-- The workspace of a rank is zero and its argument block holds the launch's arguments (R69, R370). -/
theorem State.mem_argsWritten (s : State) (n : Nat) (l : Launch) (hargs : l.args.length = 9) :
    (∀ i, i < 2368 → (s.argsWritten n l).mem.byte (kPad n (0x3F000 + i)) = 0#8) ∧
      ∀ i, i < 9 → (s.argsWritten n l).mem.read (kPad n (0x3FFB8 + 8 * i)) 8 = (l.args.getD i 0#64).toNat := by
  have hlen := length_flatMap_natToBytes 8 (fun a : Word => a.toNat) l.args
  have hpad (o i : Nat) : kPad n (o + i) = kPad n o + i := by simp only [kPad]; omega
  have hapart : kPad n 0x3F000 + 2368 ≤ kPad n 0x3FFB8 := by simp only [kPad]; omega
  simp only [State.argsWritten, State.mem_padWrite]
  refine ⟨fun i hi => ?_, fun i hi => ?_⟩
  · rw [hpad, Mem.byte_overlay_ne _ _ _ _ (Or.inl (by omega)), Mem.byte_overlay_replicate _ _ _ _ _ hi]
  · rw [Mem.read_of_bytes _ _ 8 (l.args.getD i 0#64).toNat fun j hj => ?_]
    · exact Nat.mod_eq_of_lt (l.args.getD i 0#64).isLt
    · rw [hpad, Nat.add_assoc, Mem.byte_overlay_list _ _ _ _ (by omega)]
      exact getD_flatMap_natToBytes 8 (fun a : Word => a.toNat) 0#64 rfl l.args i j hj

theorem State.startField_keeps {β : Type} (P : State → β) (hP : ∀ s c f, P (State.updCap s c f) = P s) (s : State) (l : Launch) (t : Task) :
    P (s.startField l t) = P s := by
  unfold State.startField
  split
  · split
    · exact hP _ _ _
    · rfl
  · rfl

/-- With the last rank of a field, NRUN rises for its tasks (R242). -/
theorem State.nrun_startField (s : State) (l : Launch) (t : Task) (f : Field) (h : s.fieldOf t = some f) :
    ((s.startField l t).cap l.caps).nrun =
      (s.cap l.caps).nrun + if f.full then BitVec.ofNat 16 (f.running (l.stage t.stage)) else 0#16 := by
  simp only [State.startField, h]
  split
  · rw [State.cap_updCap, if_pos rfl]
  · rw [BitVec.add_zero]

/-- A core but for the time of its last retirement, which the watchdog counts from. -/
def Core.unwatched (c : Core) : Core := { c with lastRet := 0 }

theorem Core.of_unwatched {a b : Core} (h : a.unwatched = b.unwatched) :
    a.task = b.task ∧ a.mode = b.mode ∧ a.csr = b.csr ∧ (∀ r, a.rx r = b.rx r) ∧ ∀ r, a.rv r = b.rv r := by
  have htask := congrArg Core.task h
  have hmode := congrArg Core.mode h
  have hcsr := congrArg Core.csr h
  have hx := congrArg Core.x h
  have hv := congrArg Core.v h
  have hx' : a.x = b.x := hx
  have hv' : a.v = b.v := hv
  exact ⟨htask, hmode, hcsr, fun r => by simp only [Core.rx, hx'], fun r => by simp only [Core.rv, hv']⟩

theorem State.unwatched_coreWatched (s : State) (n m : Nat) : ((s.coreWatched m).coreAt n).unwatched = (s.coreAt n).unwatched := by
  rw [State.coreWatched, State.coreAt_updCore]
  split
  · next h => subst h; split <;> rfl
  · rfl

/-- A load of a rank that is not idle changes its core, its bytes and its capsule's count of running tasks in three separate parts. -/
theorem State.loadTask_parts (s : State) (n : Nat) (l : Launch) (f : Field) (t : Task) (hidle : t.idle = false) :
    (∃ c now, ((s.loadTask n l f t).coreAt n).unwatched = (Core.load c l t (s.cap l.caps) now).unwatched) ∧
      (s.loadTask n l f t).mem = (s.argsWritten n l).mem ∧
      (s.loadTask n l f t).tabs = (((s.argsWritten n l).rankLoaded n l t).startField l t).tabs := by
  have hcap := State.cap_of_tabs (s.tabs_argsWritten n l) l.caps
  have hcore := (s.argsWritten n l).coreAt_rankLoaded n l t
  have hmem := (s.argsWritten n l).mem_rankLoaded n l t
  rw [hcap] at hcore
  rw [loadTask_eq s n l f t hidle]
  generalize (s.argsWritten n l).rankLoaded n l t = u at *
  refine ⟨⟨(s.argsWritten n l).coreAt n, (s.argsWritten n l).time.gtc,
      (foldl_keeps (fun s : State => (s.coreAt n).unwatched) _ (fun s m => s.unwatched_coreWatched n m) _ _).trans ?_⟩, ?_, ?_⟩
  · rw [State.startField_keeps (fun s => s.coreAt n) (fun _ _ _ => rfl) u l t, hcore]
  · exact (foldl_keeps State.mem State.coreWatched (fun _ _ => rfl) _ _).trans ((State.startField_keeps State.mem (fun _ _ _ => rfl) u l t).trans hmem)
  · exact foldl_keeps State.tabs State.coreWatched (fun _ _ => rfl) _ _

/-- NRUN after the load of a rank that is not idle (R242). -/
theorem State.nrun_loadTask (s : State) (n : Nat) (l : Launch) (f : Field) (t : Task) (hidle : t.idle = false) (hf : s.fieldOf t = some f) :
    ((s.loadTask n l f t).cap l.caps).nrun = (s.cap l.caps).nrun +
      if ({ f with loaded := t.logical :: f.loaded } : Field).full then BitVec.ofNat 16 (f.running (l.stage t.stage)) else 0#16 := by
  obtain ⟨-, -, htabs⟩ := s.loadTask_parts n l f t hidle
  have hfield := (s.argsWritten n l).fieldOf_rankLoaded n l t
  rw [State.fieldOf_of_work (s.work_argsWritten n l) t, hf] at hfield
  have hcap := State.cap_of_tabs (((s.argsWritten n l).tabs_rankLoaded n l t).trans (s.tabs_argsWritten n l)) l.caps
  rw [State.cap_of_tabs htabs, State.nrun_startField _ l t _ hfield, hcap]
  rfl

/-- A task load, when nothing of the core's earlier work is under way (R21). -/
theorem exec_taskLoad (s : State) (n ten team : Nat) (f : Field) (l : Launch) (hact : s.disp.active = some ten) (hslot : s.slotActive ten = true)
    (hfield : s.loadField ten n = some f) (hl : s.launch f.jseq = some l) (hteam : f.teams.idxOf? (clusterOf n) = some team)
    (hsb : (s.coreAt n).sb = []) (hquiet : s.coreQuiet n = true) :
    exec (.taskLoad n) s = .next (s.loadTask n l f (taskAt l f team (n % 16))) := by
  change execTaskLoad n s = _
  simp only [execTaskLoad, hact, hslot, hfield, hl, hteam, if_true, s.drain_empty n hsb]
  change Host.Outcome.next (absorb (if s.coreQuiet n then _ else _)) = _
  rw [if_pos hquiet]
  rfl

/-! Power. -/

/-- A table without the keys of a range: they read as the default, and every other as before. -/
theorem Tbl.get_clear {α : Type} [DecidableEq α] (d : α) (t : Tbl α) (low lo hi : Nat) (w : Tbl.wfAbove d low t = true) (k : Nat) :
    Tbl.get d (Tbl.clear t lo hi) k = if lo ≤ k ∧ k < hi then d else Tbl.get d t k := by
  induction t generalizing low with
  | nil => simp [Tbl.clear]
  | cons e t ih =>
    obtain ⟨j, a⟩ := e
    simp only [Tbl.wfAbove, Bool.and_eq_true, decide_eq_true_eq] at w
    obtain ⟨-, ht⟩ := w
    have hrest := ih (j + 1) ht
    have hlow (h : k ≤ j) := Tbl.get_low d t (j + 1) k ht (by omega)
    by_cases hj : lo ≤ j ∧ j < hi
    · have hcons : Tbl.clear ((j, a) :: t) lo hi = Tbl.clear t lo hi := by simp [Tbl.clear, hj.1, hj.2]
      rw [hcons, hrest]
      split
      · rfl
      · next hk =>
        have hne : ¬ j = k := fun h => hk (h ▸ hj)
        by_cases hlt : k < j
        · simp [Tbl.get, hne, hlt, hlow (by omega)]
        · simp [Tbl.get, hne, hlt]
    · have hcons : Tbl.clear ((j, a) :: t) lo hi = (j, a) :: Tbl.clear t lo hi := by
        unfold Tbl.clear
        exact List.filter_cons_of_pos (by simp; omega)
      rw [hcons]
      by_cases hk : j = k
      · subst hk; simp [Tbl.get, hj]
      · by_cases hlt : k < j
        · simp [Tbl.get, hk, hlt]
        · simp [Tbl.get, hk, hlt, hrest]

/-- A cluster that the rule gates loses its power (R20). -/
theorem State.powerGate_spec (s : State) (c : Nat) (hgate : s.gateable c = true)
    (h : s.owned c = false ∨ (s.clusterWanted c = false ∧ (s.clusterAt c).idleSince + 65536 ≤ s.time.gtc)) :
    ∃ t, exec (.powerGate c) s = .next t ∧ (t.clusterAt c).power = .gated := by
  have hrule : (s.gateable c && (!s.owned c || (!s.clusterWanted c && decide ((s.clusterAt c).idleSince + 65536 ≤ s.time.gtc)))) = true := by
    rcases h with h | ⟨h1, h2⟩
    · simp [hgate, h]
    · simp [hgate, h1, h2]
  change ∃ t, execPowerGate c s = .next t ∧ _
  rw [execPowerGate, if_pos hrule]
  refine ⟨_, rfl, ?_⟩
  rw [State.gate, State.clusterAt_updCluster, if_pos rfl]

/-- A cluster whose power is not there yet waits (R20). -/
theorem State.clusterWake_early (s : State) (c r : Nat) (h : (s.clusterAt c).power = .waking r) (hr : s.time.gtc < r) :
    exec (.clusterWake c) s = .next s := by
  change execClusterWake c s = _
  simp [execClusterWake, h, Nat.not_le.mpr hr]

/-- A cluster that has waited for its power has it, with its SRAM zero (R20). -/
theorem State.clusterWake_spec (s : State) (c r : Nat) (h : (s.clusterAt c).power = .waking r) (w : Memory.wf s.mem = true) (hr : r ≤ s.time.gtc) :
    ∃ t, exec (.clusterWake c) s = .next t ∧ (t.clusterAt c).power = .awake ∧ (t.clusterAt c).acc = [] ∧
      (∀ i, i < 32 → ((t.clusterAt c).seals.getD i ⟨true, 0, 0, 0⟩).s = false) ∧
      ∀ a, t.mem.byte a = if kPad (16 * c) 0 ≤ a ∧ a < kPad (16 * c + 16) 0 then 0#8 else s.mem.byte a := by
  have hmem : (s.zeroSram c).mem = Tbl.clear s.mem (kPad (16 * c) 0) (kPad (16 * c + 16) 0) := rfl
  have hcluster : ((s.zeroSram c).clusterAt c).acc = [] ∧ ((s.zeroSram c).clusterAt c).seals = Cluster.gated.seals := by
    unfold State.zeroSram
    dsimp only
    rw [State.clusterAt_updCluster, if_pos rfl]
    exact ⟨rfl, rfl⟩
  obtain ⟨hacc, hseals⟩ := hcluster
  change ∃ t, execClusterWake c s = .next t ∧ _
  simp only [execClusterWake, h, hr, if_true]
  generalize s.zeroSram c = u at *
  refine ⟨_, rfl, ?_, ?_, fun i hi => ?_, fun a => ?_⟩
  · rw [State.clusterAt_updCluster, if_pos rfl]
  · rw [State.clusterAt_updCluster, if_pos rfl]; exact hacc
  · rw [State.clusterAt_updCluster, if_pos rfl]
    simp [hseals, Cluster.gated, Vector.getD, hi]
  · rw [State.mem_updCluster, hmem]
    exact Tbl.get_clear Mem.blank s.mem 0 _ _ w a

/-- Settles O48: placement, load and power, each by its own lemma. -/
theorem fieldsArePlacedAndLoaded : Obligations.FieldsArePlacedAndLoaded := by
  refine ⟨fun j st l teams held s hl hrun hwaits hslot hturn hpicks => ?_,
    fun n ten team f l s hact hslot hfield hl hteam hsb _ hquiet hargs hf hidle => ?_,
    fun c s => ⟨s.powerGate_spec c, fun r hr w => ⟨s.clusterWake_early c r hr, s.clusterWake_spec c r hr w⟩⟩⟩
  · obtain ⟨t, ht, hfields, htaken⟩ := s.fieldPlacement_spec j st l teams held hl hrun hwaits hslot hturn hpicks
    exact ⟨t, ht, hfields, s.picks_first l st teams held hpicks, fun c hc =>
      ⟨s.picks_free l st teams held hpicks c hc, (htaken c hc).1, (htaken c hc).2⟩⟩
  · obtain ⟨⟨c, now, hcore⟩, hmem, -⟩ := s.loadTask_parts n l f _ hidle
    obtain ⟨htask, hmode, hcsr, hrx, hrv⟩ := Core.of_unwatched hcore
    obtain ⟨hzero, hblock⟩ := s.mem_argsWritten n l hargs
    refine ⟨_, exec_taskLoad s n ten team f l hact hslot hfield hl hteam hsb hquiet, htask, hmode, fun r => ?_, fun r => ?_, ?_, ?_, ?_, ?_,
      s.nrun_loadTask n l f _ hidle hf, ?_, ?_⟩
    · rw [hrx, Core.rx_load]
    · rw [hrv, Core.rv_load]
    · rw [hcsr]; rfl
    · rw [hcsr]; rfl
    · rw [hcsr]; rfl
    · rw [hcsr]; rfl
    · rw [hmem]; exact hzero
    · rw [hmem]; exact hblock

end Sys2Proof.Machine
end

section
/-! PROOFS. Memory in two parts, and reads of a form that lies in one page of host memory, at homes that nothing disturbs. -/

namespace Sys2Proof.Machine

/-! Tables and memory in two parts. -/

/-- A key that the second part does not hold is read in the first. -/
theorem Tbl.get_append_left {α : Type} (d : α) (t u : Tbl α) (k : Nat) (h : Tbl.get d u k = d) : Tbl.get d (t ++ u) k = Tbl.get d t k := by
  induction t with
  | nil => exact h
  | cons e t ih => simp only [List.cons_append, Tbl.get, ih]

/-- A key above the first part is read in the second. -/
theorem Tbl.get_append_right {α : Type} (d : α) (t u : Tbl α) (k : Nat) (h : ∀ e ∈ t, e.1 < k) : Tbl.get d (t ++ u) k = Tbl.get d u k := by
  induction t with
  | nil => rfl
  | cons e t ih =>
    have he := h e (List.mem_cons_self ..)
    have hrest := ih (fun a ha => h a (List.mem_cons_of_mem _ ha))
    simp [Tbl.get, Nat.ne_of_lt he, Nat.not_lt.mpr (Nat.le_of_lt he), hrest]

/-- A row of bytes as a number is what a read of them gives. -/
theorem Mem.bytesToNat_range (m : Mem) (k n : Nat) : bytesToNat ((List.range n).map (fun i => m.byte (k + i))) = m.read k n := by
  induction n generalizing k with
  | zero => rfl
  | succ n ih =>
    have hrest : (List.range n).map ((fun i => m.byte (k + i)) ∘ Nat.succ) = (List.range n).map (fun i => m.byte (k + 1 + i)) :=
      List.map_congr_left fun i _ => congrArg m.byte (by simp only [Nat.succ_eq_add_one]; omega)
    rw [List.range_succ_eq_map, List.map_cons, List.map_map, hrest, bytesToNat, ih, Mem.read, Nat.add_zero]

/-- `n` words `addi x0, x0, 0` from byte `k` on. -/
def nops : Nat → Nat → Mem
  | _, 0 => []
  | k, n + 1 => (k, 0x13#8) :: nops (k + 4) n

theorem wf_nops (n k lo : Nat) (h : lo ≤ k) : Tbl.wfAbove Mem.blank lo (nops k n) = true := by
  induction n generalizing k lo with
  | zero => rfl
  | succ n ih =>
    rw [nops, Tbl.wfAbove, ih (k + 4) (k + 1) (by omega)]
    simp [h, Mem.blank]

theorem byte_nops (n k i j : Nat) (hi : i < n) (hj : j < 4) : (nops k n).byte (k + 4 * i + j) = if j = 0 then 0x13#8 else 0#8 := by
  induction n generalizing k i with
  | zero => omega
  | succ n ih =>
    have hlow (hj : j < 4) := Tbl.get_low Mem.blank (nops (k + 4) n) (k + 4) (k + j) (wf_nops n _ _ le_rfl) (by omega)
    rw [nops, Mem.byte, Tbl.get]
    cases i with
    | zero =>
      by_cases h0 : j = 0
      · simp [h0]
      · rw [if_neg (by omega), if_neg (by omega), if_neg h0, show k + 4 * 0 + j = k + j by omega, hlow hj]
        rfl
    | succ i =>
      rw [if_neg (by omega), if_neg (by omega), show k + 4 * (i + 1) + j = k + 4 + 4 * i + j by omega]
      exact ih (k + 4) i (by omega)

/-! Reads at homes that nothing disturbs. -/

/-- No host holds a line, no word is poisoned, and line 0, which no core owns, is the one line that stands in the LLC. -/
def State.HomesAlone (s : State) : Prop :=
  s.home.dir = [] ∧ s.home.poison = [] ∧ ∃ l : LlcLine, s.home.llc = [l] ∧ l.line = 0 ∧ l.ov = false

theorem State.homeRead_alone (s : State) (h : s.HomesAlone) (k n : Nat) (hk : lineOf k = 0) : s.homeRead k n = .ok (s, s.mem.read k n) := by
  obtain ⟨hdir, -, l, hllc, hline, hov⟩ := h
  have hnone : s.dirFind 0 = none := by rw [State.dirFind, hdir]; rfl
  have hconf : s.conflicts 0 1 1 4 = [] := by simp [State.conflicts, State.hostHold, hnone, needConflicts]
  have hclear : s.hostClear 0 1 1 = .ok s := by
    have htouch : s.dirTouch 0 = s := by rw [State.dirTouch, hnone]
    rw [State.hostClear, htouch, hconf]
  have hfind : s.llcFind 0 = some l := by simp [State.llcFind, hllc, hline]
  have hput : s.llcPut l = s := by
    have hl : l :: s.home.llc.filter (fun m => !decide (m.line = l.line)) = s.home.llc := by simp [hllc]
    rw [State.llcPut, hl]
  have hres : s.resident 0 = .ok (s, l) := by
    rw [State.resident, hfind]; simp only [hput]; rfl
  have howner : s.recallOwner 0 = s := by simp [State.recallOwner, hfind, hov]
  rw [State.homeRead, hk]
  simp only [hclear, hres, howner, bind, Except.bind]
  rfl

/-- The page that the form lies in: 1 GiB of host memory from address 0 on, which a load may read. -/
def hostPage : TlbEntry := ⟨0, 0, 0, 2 ^ 30, 0, 1, true, false, false, false, false⟩

theorem hostPage_key (va : Nat) : hostPage.key va = kHost va := by
  simp [TlbEntry.key, hostPage]

/-- A walk over tables that name one page of 1 GiB, at the second entry of memory. -/
theorem State.walk_hostPage (s : State) (h : s.HomesAlone) (hroot : partRoot (s.part 0) = 0) (h0 : s.mem.read (kLpddr 0) 8 = 8)
    (h8 : s.mem.read (kLpddr 8) 8 = 0x1469) (va : Nat) (hva : va < 2 ^ 30) : s.walk 0 0 va .load = .ok (s, some hostPage) := by
  have hidx : natBits va 40 30 = 0 := by
    rw [natBits, Nat.shiftRight_eq_div_pow, Nat.div_eq_of_lt hva]
    rfl
  have hdown : s.walkDown va 8 2 3 = .ok (s, 0x1469, 8, 2) := by
    rw [State.walkDown, s.homeRead_alone h (kLpddr 8) 8 (by decide), h8]
    rfl
  have hpage : va / 2 ^ 30 * 2 ^ 30 = 0 := by rw [Nat.div_eq_of_lt hva]; rfl
  rw [State.walk]
  simp only [hroot, hidx, Nat.mul_zero, Nat.add_zero, s.homeRead_alone h (kLpddr 0) 8 (by decide), h0, bind, Except.bind, hdown]
  change Except.ok (s, some (⟨0, 0, va / 2 ^ 30 * 2 ^ 30, 2 ^ 30, 0, 1, true, false, false, false, false⟩ : TlbEntry)) = _
  rw [hpage]
  rfl

/-! Reading a form that lies in that page. -/

/-- The tenant's page is there, and no home is disturbed. -/
def State.PageRead (s : State) : Prop := s.home.poison = [] ∧ ∀ va, va < 2 ^ 30 → s.walk 0 0 va .load = .ok (s, some hostPage)

theorem State.not_atHome_kHost (s : State) (va n : Nat) (hva : va < 2 ^ 30) : s.atHome (kHost va) n = false := by
  simp [State.atHome, kHost, space]
  omega

theorem State.touch_page (s : State) (h : s.PageRead) (stop va fuel : Nat) (hstop : stop ≤ 2 ^ 30) : s.touch 0 stop va fuel = .ok (s, true) := by
  obtain ⟨hpoison, hwalk⟩ := h
  induction fuel generalizing va with
  | zero => rfl
  | succ fuel ih =>
    rw [State.touch]
    by_cases hend : stop ≤ va
    · rw [if_pos hend]; rfl
    · have hva : va < 2 ^ 30 := by omega
      rw [if_neg hend, if_neg (show ¬ 0x20000000000 ≤ va by omega), hwalk va hva]
      simp only [bind, Except.bind, hostPage_key, s.not_atHome_kHost va _ hva, State.anyPoison, hpoison]
      exact ih _

theorem State.touchAll_page (s : State) (h : s.PageRead) (l : List Part) (hl : ∀ p ∈ l, p.1 + p.2 ≤ 2 ^ 30) : s.touchAll 0 0 l = .ok (s, true) := by
  induction l with
  | nil => rfl
  | cons p l ih =>
    have hp := hl p (List.mem_cons_self ..)
    rw [State.touchAll, s.touch_page h (0 + p.1 + p.2) _ _ (by omega)]
    exact ih (fun q hq => hl q (List.mem_cons_of_mem _ hq))

theorem State.readForm_page (s : State) (h : s.PageRead) (hgood : headerGood (s.formRead 0 0) = true) (fs : List ((Nat → Nat → Nat) → List Part))
    (hfs : ∀ f ∈ fs, ∀ p ∈ f (s.formRead 0 0), p.1 + p.2 ≤ 2 ^ 30) : s.readForm 0 0 fs = .ok (s, true) := by
  induction fs with
  | nil => rfl
  | cons f fs ih =>
    rw [State.readForm, s.touchAll_page h _ (hfs f (List.mem_cons_self ..))]
    simp only [bind, Except.bind, hgood, Bool.and_self, if_true]
    exact ih (fun g hg => hfs g (List.mem_cons_of_mem _ hg))

theorem State.formRead_page (s : State) (h : s.PageRead) (o n : Nat) (hn : o + n ≤ 2 ^ 30) : s.formRead 0 0 o n = s.mem.read (kHost o) n := by
  obtain ⟨-, hwalk⟩ := h
  rw [State.formRead, ← Mem.bytesToNat_range]
  refine congrArg bytesToNat (List.map_congr_left fun i hi => ?_)
  have hi' := List.mem_range.mp hi
  have hkey : s.pfKey 0 (0 + o + i) = some (kHost o + i) := by
    rw [State.pfKey, hwalk _ (by omega)]
    simp only [hostPage_key, kHost, Nat.zero_add, Nat.add_assoc]
  rw [hkey]

end Sys2Proof.Machine
end

section
/-! PROOFS. The rebuild whose body covers the register that it answers in: the native body's bytes, a form that keeps every limit, and the state that has
it at address 0 of its tenant's one page. No hypothesis of the statement bounds the capsule's number, and text windows are 4 MiB apart (R225), so a number
far past the last capsule puts the window of local text over the control region; the form is long enough for its text to reach the block's STATUS. -/

namespace Sys2Proof.Machine

/-! The native body of a form (R49). -/

theorem length_fillLoop (ws : List FlowWord) (k : Nat) : (fillLoop ws k).length = ws.length := by
  induction k generalizing ws with
  | zero => rfl
  | succ k ih =>
    rw [fillLoop]
    split
    · rw [ih, setStall, List.length_modify]
    · rfl

theorem length_lowerStalls (old ws : List FlowWord) : (lowerStalls old ws).length = ws.length := by
  refine foldl_keeps (fun ws : List FlowWord => ws.length) _ (fun ws q => ?_) _ _
  simp only
  split
  · rfl
  · split
    · rw [setStall, List.length_modify]
    · rfl

theorem length_fillStalls (table : Option (List (BitVec 16))) (words : List IWord) : (fillStalls table words).length = words.length := by
  simp [fillStalls, length_lowerStalls, length_fillLoop]

/-- The native body keeps the low byte of every word. -/
theorem low_fillStalls (table : Option (List (BitVec 16))) (words : List IWord) (b : BitVec 8) (h : ∀ w ∈ words, w.extractLsb' 0 8 = b) :
    ∀ w ∈ fillStalls table words, w.extractLsb' 0 8 = b := by
  intro w hw
  simp only [fillStalls, List.mem_map] at hw
  obtain ⟨⟨w0, x⟩, hmem, rfl⟩ := hw
  rw [← h w0 (List.of_mem_zip hmem).1]
  simp only
  split
  · ext i hi
    simp only [BitVec.getElem_extractLsb', BitVec.getLsbD_append, BitVec.getLsbD_extractLsb']
    simp [show i < 29 by omega]
  · rfl

/-! A form of nothing but its header's numbers and `addi x0, x0, 0`. -/

def nopCount : Nat := 139277

/-- The bytes of the page tables and of the form's header that are not 0. -/
def formHead : Mem :=
  [(kLpddr 0, 8#8), (kLpddr 8, 0x69#8), (kLpddr 9, 0x14#8), (kHost 0, 0x44#8), (kHost 1, 0x5A#8), (kHost 2, 0x55#8), (kHost 3, 0x5A#8), (kHost 4, 1#8),
   (kHost 7, 1#8), (kHost 8, 0x0D#8), (kHost 9, 0x20#8), (kHost 10, 0x02#8), (kHost 25, 2#8)]

/-- A form whose header is that of `formHead`. -/
def headForm (far : Nat → Nat → Nat) (o n : Nat) : Nat := if o + n ≤ 512 then formHead.read (kHost o) n else far o n

section
variable (far : Nat → Nat → Nat)

theorem headForm_words : headForm far 24 8 = 512 := by rfl

theorem headForm_windowMask : headForm far 16 2 = 0 := by rfl

theorem headForm_header : headerGood (headForm far) = true := by
  unfold headerGood
  rw [headForm_words]
  rfl

theorem headForm_windows : windowsGood (headForm far) = true := by
  unfold windowsGood
  simp only [headForm_windowMask]
  rfl

theorem headForm_apart : allApart (formParts (headForm far)) = true := by rfl
theorem headForm_stages : stagesGood (headForm far) = true := by rfl
theorem headForm_bodies : bodiesGood (headForm far) = true := by rfl
theorem headForm_exports : exportsGood (headForm far) = true := by rfl
theorem headForm_plan : planGood (headForm far) = true := by rfl
theorem headForm_nins : formNins (headForm far) = nopCount := by rfl
/-- A form of no declarations but one stage at word 0, all of whose words are `addi x0, x0, 0`, keeps every limit. -/
theorem headForm_formWords (hfar : ∀ i, i < nopCount → far (512 + 4 * i) 4 = 0x13) :
    formWords (headForm far) = List.replicate nopCount 0x13#32 := by
  refine List.eq_replicate_iff.mpr ⟨by rw [formWords, List.length_map, List.length_range, headForm_nins], fun w hw => ?_⟩
  obtain ⟨i, hi, rfl⟩ := List.mem_map.mp hw
  rw [List.mem_range, headForm_nins] at hi
  have hout : ¬ 512 + 4 * i + 4 ≤ 512 := by omega
  simp only [headForm_words]
  rw [headForm, if_neg hout, hfar i hi]

theorem headForm_good (hfar : ∀ i, i < nopCount → far (512 + 4 * i) 4 = 0x13) : formGood (headForm far) = true := by
  have hlegal : legalWord 0x13#32 = true ∧ bodyOp 0x13#32 = false := by decide
  have hwords : wordsGood (headForm far) = true := by
    rw [wordsGood, headForm_formWords far hfar, List.all_eq_true]
    intro p hp
    have hw := List.eq_of_mem_replicate (List.fst_mem_of_mem_zipIdx hp)
    rw [hw, hlegal.1, hlegal.2]
    rfl
  have htensors : (List.range (headForm far 12 2)).all (tensorGood (headForm far)) = true := by rfl
  rw [formGood, headForm_apart, headForm_stages, headForm_windows, htensors, headForm_bodies, headForm_exports, headForm_plan, hwords]
  rfl

/-- Every part that install reads lies in the form's page. -/
theorem headForm_parts : ∀ f ∈ readParts, ∀ p ∈ f (headForm far), p.1 + p.2 ≤ 2 ^ 30 := by
  have hdata : [(headForm far 24 8, 4 * formNins (headForm far)), (headForm far 40 8, 16 * headForm far 12 2), (headForm far 48 8, 8 * headForm far 14 2),
      (headForm far 56 8, 16 * headForm far 18 2)] = [(512, 4 * nopCount), (0, 0), (0, 0), (0, 0)] := by rfl
  have hnames : [(headForm far 56 8, exportEnd (headForm far))] = [(0, 0)] := by rfl
  have hplan : planPart (headForm far) = [] := by rfl
  have hbound : ∀ l ∈ readParts.map (fun f => f (headForm far)), ∀ p ∈ l, p.1 + p.2 ≤ 2 ^ 30 := by
    simp only [readParts, List.map_cons, List.map_nil, hdata, hnames, hplan]
    decide
  exact fun f hf => hbound _ (List.mem_map_of_mem hf)

end

/-! The state. -/

/-- The capsule number whose text window starts at offset 0x10000000 of the control region. -/
def farCapsule : Nat := 2 ^ 34 + 64 - 1015808

/-- Byte 0x88030 of its text is the first byte of STATUS of the capsule block. -/
theorem text_farCapsule : kText (textBase farCapsule) + 0x88030 = kCtrl (0x10088000 + 48) := by
  decide

/-- A void entry whose rebuild is under way, and whose form is the one at address 0. -/
def voidEntry : Caps := { Caps.free with st := .void, rb := true, nins := nopCount, stages := [(0, 0, 0)] }

/-- Its rebuild was started by the command of the capsule block with sequence value 1. -/
def overlaid : State :=
  { State.reset with
    mem := formHead ++ nops (kHost 512) nopCount
    home := { Home.reset with llc := [⟨0, 0, false, false, false, 0, 0, 0⟩] }
    tabs := { Tabs.reset with caps := [(farCapsule, voidEntry)], blocks := [(4, ⟨1#64, none, some (1#64, 2 * farCapsule + 2), 3#448⟩)] } }

theorem overlaid_cap : overlaid.cap farCapsule = voidEntry := by
  simp [State.cap, overlaid, Tbl.get]

theorem overlaid_block : overlaid.block 4 = ⟨1#64, none, some (1#64, 2 * farCapsule + 2), 3#448⟩ := rfl

theorem overlaid_op : overlaid.cpOp = 3 := by
  rw [State.cpOp, State.blockField, overlaid_block]
  rfl

theorem overlaid_head (k n : Nat) (h : k + n ≤ kHost 512) : overlaid.mem.read k n = formHead.read k n :=
  Mem.read_congr _ _ _ _ fun i hi => Tbl.get_append_left Mem.blank _ _ _ (Tbl.get_low _ _ (kHost 512) _ (wf_nops _ _ _ le_rfl) (by omega))

theorem overlaid_word (i : Nat) (hi : i < nopCount) : overlaid.mem.read (kHost (512 + 4 * i)) 4 = 0x13 := by
  have habove : ∀ e ∈ formHead, e.1 < kHost 512 := by decide
  refine Mem.read_of_bytes _ _ 4 0x13 fun j hj => ?_
  have hkey : kHost (512 + 4 * i) + j = kHost 512 + 4 * i + j := by simp only [kHost]; omega
  rw [hkey]
  refine (Tbl.get_append_right Mem.blank _ _ _ fun e he => Nat.lt_of_lt_of_le (habove e he) (by omega)).trans ?_
  refine (byte_nops nopCount (kHost 512) i j hi hj).trans ?_
  interval_cases j <;> rfl

theorem overlaid_alone : overlaid.HomesAlone := ⟨rfl, rfl, _, rfl, rfl, rfl⟩

theorem overlaid_root : partRoot (overlaid.part 0) = 0 := by
  have hpart : overlaid.part 0 = 0#1024 := rfl
  rw [hpart, partRoot, BitVec.extractLsb'_zero, BitVec.toNat_zero]

theorem overlaid_page : overlaid.PageRead :=
  ⟨rfl, overlaid.walk_hostPage overlaid_alone overlaid_root (overlaid_head _ _ (by decide)) (overlaid_head _ _ (by decide))⟩

theorem overlaid_form : overlaid.formRead 0 0 = headForm (overlaid.formRead 0 0) := by
  funext o n
  rw [headForm]
  split
  · next h =>
    rw [overlaid.formRead_page overlaid_page o n (by omega)]
    exact overlaid_head _ _ (by simp only [kHost]; omega)
  · rfl

theorem overlaid_far (i : Nat) (hi : i < nopCount) : overlaid.formRead 0 0 (512 + 4 * i) 4 = 0x13 := by
  rw [overlaid.formRead_page overlaid_page _ _ (by simp only [nopCount] at hi; omega)]
  exact overlaid_word i hi

/-! The two claims about one byte. -/

/-- The first byte of a read that gives 0 is 0. -/
theorem Mem.byte_of_read_zero (m : Mem) (k n : Nat) (h : m.read k (n + 1) = 0) : m.byte k = 0#8 := by
  rw [Mem.read] at h
  exact BitVec.eq_of_toNat_eq (by simp only [BitVec.toNat_ofNat]; omega)

theorem Mem.getD_readBytes (m : Mem) (k n i : Nat) (h : i < n) : (m.readBytes k n).getD i 0#8 = m.byte (k + i) := by
  induction n generalizing k i with
  | zero => omega
  | succ n ih =>
    cases i with
    | zero => rfl
    | succ i => rw [Mem.readBytes, List.getD_cons_succ, ih _ _ (by omega), Nat.add_assoc, Nat.add_comm 1 i]

theorem length_bodyBytes (body : List IWord) : (bodyBytes body).length = 4 * body.length :=
  length_flatMap_natToBytes 4 BitVec.toNat body

/-- The first byte of each word of a body is the word's low byte. -/
theorem getD_bodyBytes (body : List IWord) (b : Byte) (h : ∀ w ∈ body, w.extractLsb' 0 8 = b) (i : Nat) (hi : i < body.length) :
    (bodyBytes body).getD (4 * i) 0#8 = b := by
  have hword : body.getD i 0#32 ∈ body := List.getD_eq_getElem _ _ hi ▸ List.getElem_mem hi
  have hbyte := getD_flatMap_natToBytes 4 BitVec.toNat 0#32 rfl body i 0 (by decide)
  rw [Nat.add_zero] at hbyte
  rw [bodyBytes, hbyte, ← h _ hword]
  apply BitVec.eq_of_toNat_eq
  simp

/-- The body made of the form that `overlaid` reads. -/
def overlaidBody : List IWord := overlaid.nativeBody 0 (overlaid.formRead 0 0)

theorem overlaidBody_low : ∀ w ∈ overlaidBody, w.extractLsb' 0 8 = 0x13#8 := by
  refine low_fillStalls _ _ _ fun w hw => ?_
  rw [overlaid_form, headForm_formWords _ overlaid_far] at hw
  rw [List.eq_of_mem_replicate hw]
  rfl

theorem overlaidBody_length : (bodyBytes overlaidBody).length = 4 * nopCount := by
  rw [length_bodyBytes, overlaidBody, State.nativeBody, length_fillStalls, overlaid_form, headForm_formWords _ overlaid_far, List.length_replicate]

theorem overlaid_wf : Memory.wf overlaid.mem = true := by
  have hnops := wf_nops nopCount (kHost 512) (kHost 25 + 1) (by decide)
  change Tbl.wfAbove Mem.blank 0 (formHead ++ nops (kHost 512) nopCount) = true
  simp only [formHead, List.cons_append, List.nil_append, Tbl.wfAbove, hnops]
  decide

theorem overlaid_readForm : overlaid.readForm 0 0 readParts = .ok (overlaid, true) :=
  overlaid.readForm_page overlaid_page (overlaid_form ▸ headForm_header _) _ (overlaid_form ▸ headForm_parts _)

theorem overlaid_sameForm : voidEntry.sameForm (overlaid.formRead 0 0) = true := by
  rw [overlaid_form]
  rfl

/-- No state has the new body in the text window and 0 in the capsule block's STATUS. -/
theorem overlaid_conflict (m : Mem) (htext : m.readBytes (kText (textBase farCapsule)) (bodyBytes overlaidBody).length = bodyBytes overlaidBody) :
    m.read (kCtrl (0x10088000 + 48)) 8 ≠ 0 := by
  intro hstatus
  have hin : 4 * 0x2200C < (bodyBytes overlaidBody).length := by rw [overlaidBody_length]; decide
  have hbyte := Mem.getD_readBytes m (kText (textBase farCapsule)) _ _ hin
  rw [htext, getD_bodyBytes _ _ overlaidBody_low _ (by rw [length_bodyBytes] at hin; omega)] at hbyte
  have hzero := Mem.byte_of_read_zero _ _ _ hstatus
  rw [← text_farCapsule] at hzero
  exact absurd (hbyte.trans hzero) (by decide)

/-- Refutes O58: the clause about the end of a rebuild takes a capsule of any number. For the number whose text window lies over the control region,
the new body covers the capsule block's STATUS, and the clause says of one byte both that it is 0x13, of the text, and that it is 0, of the STATUS. -/
theorem not_capsulesAreInstalledAndRebuilt : ¬ Obligations.CapsulesAreInstalledAndRebuilt := by
  rintro ⟨-, -, -, hend, -⟩
  have hcase := (hend farCapsule 1#64 overlaid (by rw [overlaid_cap]; rfl) (by rw [overlaid_cap]; rfl)).2 overlaid rfl
  rw [overlaid_cap] at hcase
  obtain ⟨t, -, -, htext, hstatus, -⟩ := hcase overlaid_readForm (overlaid_form ▸ headForm_good _ overlaid_far) overlaid_sameForm
    (by rw [overlaid_block]) (by rw [overlaid_block]) overlaid_op
  exact overlaid_conflict t.mem (htext overlaid_wf (overlaidBody_length.trans_le (by decide))) hstatus

end Sys2Proof.Machine
end

section
/-! PROOFS. Loads and stores of bad addresses (O13). -/

namespace Sys2Proof.Machine

/-- Where bits 63:55 are not all 0 an address names nothing (R86). -/
theorem State.region_nowhere (s : State) (own : Option Nat) (ea : Word) (h : 2 ^ 55 ≤ ea.toNat) : s.region own ea = .nowhere := by
  have hne : ea.extractLsb' 55 9 ≠ 0#9 := by
    intro he
    have hz := congrArg BitVec.toNat he
    simp only [BitVec.extractLsb'_toNat, Nat.shiftRight_eq_div_pow, BitVec.toNat_ofNat] at hz
    omega
  simp only [State.region, if_pos hne]

/-- An address below 2^42 is a local one (R86). -/
theorem State.region_local (s : State) (own : Option Nat) (ea : Word) (h : ea.toNat < 2 ^ 42) : s.region own ea = localRegion own ea.toNat := by
  have hlow : (ea.extractLsb' 0 42).toNat = ea.toNat := by
    rw [BitVec.extractLsb'_toNat, Nat.shiftRight_zero, Nat.mod_eq_of_lt h]
  have hmod : (ea.extractLsb' 42 12).toNat = 0 := by
    rw [BitVec.extractLsb'_toNat, Nat.shiftRight_eq_div_pow]; omega
  have htop : ea.extractLsb' 55 9 = 0#9 := by
    apply BitVec.eq_of_toNat_eq
    rw [BitVec.extractLsb'_toNat, Nat.shiftRight_eq_div_pow, BitVec.toNat_ofNat]; omega
  have hbit : ea.getLsbD 54 = false := Nat.testBit_lt_two_pow (h.trans (by decide))
  simp only [State.region, hlow, hmod, htop, hbit, ne_eq, not_true_eq_false, if_false, Bool.false_eq_true, if_true]

/-- A local address always decodes to a region of its own module. -/
theorem localRegion_decodes (own : Option Nat) (a : Nat) : localRegion own a ≠ .nowhere := by
  unfold localRegion
  repeat' split
  all_goals simp

/-- Condition 1 of R260: an address that does not decode. -/
theorem State.check_nowhere (s : State) (n : Nat) (ea : Word) (size align : Nat) (k : Access) (h : s.region (some n) ea = .nowhere) :
    s.check n ea size align k = trapAcc s k (accCause k) ea := by
  simp only [State.check, State.checkIn, h]

/-- Condition 3 of R260: a misaligned address of a region that is no prism window. -/
theorem State.check_misaligned (s : State) (n : Nat) (ea : Word) (size align : Nat) (k : Access) (hdec : s.region (some n) ea ≠ .nowhere)
    (hwin : ∀ w o, s.region (some n) ea ≠ .window w o) (h : ea.toNat % align ≠ 0) :
    s.check n ea size align k = trapAcc s k (alignCause k) ea := by
  cases hr : s.region (some n) ea with
  | nowhere => exact absurd hr hdec
  | window w o => exact absurd hr (hwin w o)
  | _ => simp only [State.check, State.checkIn, hr, if_pos h]

/-- A core's load whose checks fail traps before anything is read. -/
theorem load_trap (size cause : Nat) (ext : Nat → Word) (rd rs1 : BitVec 5) (i : BitVec 12) (n : Nat) (s : State) (hcur : s.run.cur = .core n)
    (h : s.check n ((s.coreAt n).rx rs1 + immI i) size size .load = trapAcc s .load cause ((s.coreAt n).rx rs1 + immI i)) :
    load size ext rd rs1 i s = .next (s.takeTrapK n cause ((s.coreAt n).rx rs1 + immI i) 1) := by
  simp only [load, rx_core s n hcur, runAny_core s n _ hcur, hcur, State.loadBytes, h]
  rfl

/-- A core's store whose checks fail traps before anything is stored. -/
theorem store_trap (size cause : Nat) (rs1 rs2 : BitVec 5) (hi : BitVec 7) (lo : BitVec 5) (n : Nat) (s : State) (hcur : s.run.cur = .core n)
    (h : ∀ k, s.check n ((s.coreAt n).rx rs1 + immS hi lo) k size .store = trapAcc s .store cause ((s.coreAt n).rx rs1 + immS hi lo)) :
    store size rs1 rs2 hi lo s = .next (s.takeTrapK n cause ((s.coreAt n).rx rs1 + immS hi lo) 2) := by
  simp only [store, runCore_core s n _ hcur, State.storeBytes, h]
  rfl

/-- Each load of R257 is `load` of its size. -/
theorem exec_loadOps (p : (BitVec 5 → BitVec 5 → BitVec 12 → Instr) × Nat × (Nat → Word)) (hp : p ∈ loadOps) :
    ∃ ext, ∀ rd rs1 i s, exec (p.1 rd rs1 i) s = load p.2.1 ext rd rs1 i s := by
  simp only [loadOps, List.mem_cons, List.not_mem_nil, or_false] at hp
  rcases hp with rfl | rfl | rfl | rfl | rfl | rfl | rfl <;> exact ⟨_, fun _ _ _ _ => rfl⟩

/-- Each store of R257 is `store` of its size. -/
theorem exec_storeOps (p : (BitVec 5 → BitVec 5 → BitVec 7 → BitVec 5 → Instr) × Nat) (hp : p ∈ storeOps) (rs1 rs2 : BitVec 5) (hi : BitVec 7)
    (lo : BitVec 5) (s : State) : exec (p.1 rs1 rs2 hi lo) s = store p.2 rs1 rs2 hi lo s := by
  simp only [storeOps, List.mem_cons, List.not_mem_nil, or_false] at hp
  rcases hp with rfl | rfl | rfl | rfl <;> rfl

theorem misalignedAccessesTrap : MisalignedAccessesTrap := by
  intro n s hcur
  have hcheck (ea : Word) (size align : Nat) (k : Access) (hlocal : ea.toNat < 2 ^ 42) (hmis : ea.toNat % align ≠ 0)
      (hwin : ∀ w o, localRegion (some n) ea.toNat ≠ .window w o) : s.check n ea size align k = trapAcc s k (alignCause k) ea := by
    rw [← s.region_local (some n) ea hlocal] at hwin
    exact s.check_misaligned n ea size align k (s.region_local (some n) ea hlocal ▸ localRegion_decodes _ _) hwin hmis
  refine ⟨fun p hp rd rs1 i => ?_, fun p hp rs1 rs2 hi lo => ?_⟩ <;> intro ea hlocal hmis hwin
  · obtain ⟨ext, hexec⟩ := exec_loadOps p hp
    rw [hexec]
    exact load_trap _ 4 ext rd rs1 i n s hcur (hcheck ea _ _ .load hlocal hmis hwin)
  · rw [exec_storeOps p hp]
    exact store_trap _ 6 rs1 rs2 hi lo n s hcur (fun k => hcheck ea k _ .store hlocal hmis hwin)

theorem undecodableAddressesFault : UndecodableAddressesFault := by
  intro n s hcur
  refine ⟨fun p hp rd rs1 i => ?_, fun p hp rs1 rs2 hi lo => ?_⟩ <;> intro ea hhigh
  · obtain ⟨ext, hexec⟩ := exec_loadOps p hp
    rw [hexec]
    exact load_trap _ 5 ext rd rs1 i n s hcur (s.check_nowhere n ea _ _ .load (s.region_nowhere _ ea hhigh))
  · rw [exec_storeOps p hp]
    exact store_trap _ 7 rs1 rs2 hi lo n s hcur (fun k => s.check_nowhere n ea k _ .store (s.region_nowhere _ ea hhigh))

/-- Settles O13: the checks of R260 come first in every load and store, and a failed one is their whole effect. -/
theorem badAddressesTrap : Obligations.BadAddressesTrap := ⟨misalignedAccessesTrap, undecodableAddressesFault⟩

end Sys2Proof.Machine
end

section
/-! PROOFS. The matrix array: the elements of a row, saturating sums, and what an operation on one tile leaves of the state; the facts that O30 and
O33 share. -/

namespace Sys2Proof.Machine

/-! Rows of 96 elements. -/

/-- A bit of a row under construction: of the elements laid over it from number `k` on, or of what was there. -/
theorem getLsbD_rowFold (l : List Nat) (r : BitVec 3072) (k b : Nat) :
    ((l.zipIdx k).foldl (fun r p => r ||| (BitVec.ofNat 3072 (p.1 % 2 ^ 32) <<< (32 * p.2))) r).getLsbD b =
      (r.getLsbD b || (decide (b < 3072) && decide (32 * k ≤ b) && (l.getD (b / 32 - k) 0).testBit (b % 32))) := by
  induction l generalizing r k with
  | nil => simp
  | cons x l ih =>
    have hbit : (r ||| (BitVec.ofNat 3072 (x % 2 ^ 32) <<< (32 * k))).getLsbD b =
        (r.getLsbD b || (decide (b < 3072) && decide (32 * k ≤ b) && (decide (b / 32 = k) && x.testBit (b % 32)))) := by
      rw [BitVec.getLsbD_or, BitVec.getLsbD_shiftLeft, BitVec.getLsbD_ofNat, Nat.testBit_mod_two_pow]
      by_cases hb : b < 3072 <;> by_cases hk : 32 * k ≤ b
      · by_cases he : b / 32 = k
        · have hm : b - 32 * k = b % 32 := by omega
          simp [hb, hk, Nat.not_lt.mpr hk, he, hm, show b % 32 < 32 by omega, show b % 32 < 3072 by omega]
        · simp [he, show ¬ b - 32 * k < 32 by omega]
      · simp [hk, Nat.not_le.mp hk]
      · simp [hb]
      · simp [hb]
    rw [List.zipIdx_cons, List.foldl_cons, ih, hbit]
    by_cases hlow : b < 32 * k
    · simp [show ¬ 32 * k ≤ b by omega, show ¬ 32 * (k + 1) ≤ b by omega]
    · by_cases he : b / 32 = k
      · simp [he, show 32 * k ≤ b by omega, show ¬ 32 * (k + 1) ≤ b by omega]
      · have hidx : b / 32 - k = b / 32 - (k + 1) + 1 := by omega
        rw [hidx, List.getD_cons_succ]
        simp [he, show 32 * k ≤ b by omega, show 32 * (k + 1) ≤ b by omega]

/-- The elements of a row made from a list are the list's, cut to 32 bits. -/
theorem rowElem_rowMake (l : List Nat) (j : Nat) (hj : j < 96) : rowElem (rowMake l) j = l.getD j 0 % 2 ^ 32 := by
  apply Nat.eq_of_testBit_eq
  intro i
  rw [rowElem, BitVec.testBit_toNat, BitVec.getLsbD_extractLsb', Nat.testBit_mod_two_pow]
  by_cases hi : i < 32
  · rw [rowMake, getLsbD_rowFold]
    simp [hi, show 32 * j + i < 3072 by omega, show (32 * j + i) / 32 = j by omega, show (32 * j + i) % 32 = i by omega]
  · simp [hi]

/-! Saturating sums (R112). -/

/-- The 32-bit two's complement value of a number. -/
theorem signedOf_eq_toInt (n v : Nat) (hn : 0 < n) : signedOf n v = (BitVec.ofNat n v).toInt := by
  have hpow : 2 ^ n = 2 * 2 ^ (n - 1) := by rw [← Nat.pow_succ']; congr 1; omega
  rw [signedOf, BitVec.toInt_eq_toNat_cond, BitVec.toNat_ofNat]
  split <;> split <;> omega

theorem clampInt_eq_satS (i : Int) : (clampInt i (-(2 ^ 31)) (2 ^ 31 - 1)).1 = satS 32 i := by
  unfold clampInt satS
  split
  · omega
  · split <;> omega

/-- The model's saturating addition is the rule's. -/
theorem satAdd32_eq_addSat (acc : Nat) (i : Int) : (satAdd32 acc i).1 = (BitVec.ofInt 32 (addSat acc i)).toNat := by
  rw [satAdd32, addSat, ← clampInt_eq_satS, ← signedOf_eq_toInt 32 acc (by decide), BitVec.toNat_ofInt]
  rfl

/-- A saturated sum fits in 32 bits. -/
theorem toInt_addSat (acc : Nat) (i : Int) : (BitVec.ofInt 32 (addSat acc i)).toInt = addSat acc i := by
  rw [BitVec.toInt_ofInt_eq_self (by decide)] <;> unfold addSat satS <;> omega

/-- To add nothing to a saturated sum changes nothing. -/
theorem addSat_addSat_zero (acc : Nat) (i : Int) : addSat (BitVec.ofInt 32 (addSat acc i)).toNat 0 = addSat acc i := by
  change satS 32 ((BitVec.ofNat 32 (BitVec.ofInt 32 (addSat acc i)).toNat).toInt + 0) = addSat acc i
  rw [BitVec.ofNat_toNat, BitVec.setWidth_eq, toInt_addSat]
  unfold addSat satS
  omega

/-- A dot product of at most 32 terms is added in two chunks of at most 16. -/
theorem mmaInt_two_chunks (acc : Nat) (a b : List Int) (inv : Bool) (hne : a.zip b ≠ []) (hlen : (a.zip b).length ≤ 32) :
    (mmaInt acc a b inv).1 = (BitVec.ofInt 32 (addSat (BitVec.ofInt 32 (addSat acc (((a.zip b).take 16).map (fun p => p.1 * p.2)).sum)).toNat
      (((a.zip b).drop 16).map (fun p => p.1 * p.2)).sum)).toNat := by
  have htail : ((a.zip b).drop 16).take 16 = (a.zip b).drop 16 := List.take_of_length_le (by rw [List.length_drop]; omega)
  have hfirst : (a.zip b).isEmpty = false := by simpa using hne
  by_cases hmore : (a.zip b).drop 16 = []
  · simp only [mmaInt, intChunks, hfirst, hmore, satAdd32_eq_addSat, List.isEmpty_nil, if_true, List.map_nil, List.sum_nil, Bool.false_eq_true, if_false]
    rw [addSat_addSat_zero]
  · have hsecond : ((a.zip b).drop 16).isEmpty = false := by simpa using hmore
    simp only [mmaInt, intChunks, hfirst, hsecond, htail, satAdd32_eq_addSat, Bool.false_eq_true, if_false]

/-! What an operation on one tile leaves of the state. -/

/-- State `t` differs from `s` in its cores, the model's own fields and, of cluster `c`, in what an operation on one tile may change. -/
def OnTile (c tile : Nat) (s t : State) : Prop :=
  t.time = s.time ∧ t.mem = s.mem ∧ t.home = s.home ∧ t.tabs = s.tabs ∧ t.disp = s.disp ∧ t.net = s.net ∧ t.engines = s.engines ∧
    (∀ k, k ≠ c → t.clusterAt k = s.clusterAt k) ∧ Cluster.besidesTile (t.clusterAt c) tile = Cluster.besidesTile (s.clusterAt c) tile ∧
    ∀ i u, u ≠ tile → i < 64 → t.accRow c u i = s.accRow c u i

theorem OnTile.refl (c tile : Nat) (s : State) : OnTile c tile s s := by simp [OnTile]

theorem OnTile.trans {c tile : Nat} {s t u : State} (h : OnTile c tile s t) (k : OnTile c tile t u) : OnTile c tile s u := by
  obtain ⟨h1, h2, h3, h4, h5, h6, h7, h8, h9, h10⟩ := h
  obtain ⟨k1, k2, k3, k4, k5, k6, k7, k8, k9, k10⟩ := k
  exact ⟨k1.trans h1, k2.trans h2, k3.trans h3, k4.trans h4, k5.trans h5, k6.trans h6, k7.trans h7, fun a ha => (k8 a ha).trans (h8 a ha),
    k9.trans h9, fun i u hu hi => (k10 i u hu hi).trans (h10 i u hu hi)⟩

theorem onTile_updCore (c tile : Nat) (s : State) (n : Nat) (f : Core → Core) : OnTile c tile s (s.updCore n f) := by
  simp [OnTile, State.accRow]

theorem onTile_note (c tile : Nat) (s : State) (a : Note) : OnTile c tile s (s.note a) := OnTile.refl c tile s

/-- A change of the cluster that keeps what stands besides the tile, and the rows of other tiles. -/
theorem onTile_updCluster (c tile : Nat) (s : State) (f : Cluster → Cluster)
    (hf : Cluster.besidesTile (f (s.clusterAt c)) tile = Cluster.besidesTile (s.clusterAt c) tile)
    (hacc : ∀ i u, u ≠ tile → i < 64 → Tbl.get 0#3072 (f (s.clusterAt c)).acc (64 * u + i) = Tbl.get 0#3072 (s.clusterAt c).acc (64 * u + i)) :
    OnTile c tile s (s.updCluster c f) := by
  refine ⟨rfl, rfl, rfl, rfl, rfl, rfl, rfl, fun k hk => ?_, ?_, fun i u hu hi => ?_⟩
  · rw [State.clusterAt_updCluster, if_neg hk]
  · rw [State.clusterAt_updCluster, if_pos rfl, hf]
  · rw [State.accRow, State.clusterAt_updCluster, if_pos rfl]
    exact hacc i u hu hi

theorem onTile_idleZero (c tile : Nat) (s : State) : OnTile c tile s (s.updCluster c (fun k => { k with lidle := 0 })) :=
  onTile_updCluster c tile s _ rfl (fun _ _ _ _ => rfl)

theorem onTile_tileEvents (c tile : Nat) (s : State) (l : List Events) : OnTile c tile s (s.tileEvents c tile l) :=
  onTile_updCluster c tile s _ (by simp [Cluster.besidesTile]) (fun _ _ _ _ => rfl)

theorem onTile_setProg (c tile : Nat) (s : State) (row : Nat) (act : Bool) : OnTile c tile s (s.setProg c tile row act) :=
  onTile_updCluster c tile s _ (by simp [Cluster.besidesTile]) (fun _ _ _ _ => rfl)

theorem onTile_setScale (c tile : Nat) (s : State) (r : Scale) : OnTile c tile s (s.setScale c tile r) :=
  onTile_updCluster c tile s _ (by simp [Cluster.besidesTile]) (fun _ _ _ _ => rfl)

theorem onTile_setAccRow (c tile i : Nat) (s : State) (r : BitVec 3072) (hi : i < 64) : OnTile c tile s (s.setAccRow c tile i r) := by
  refine onTile_updCluster c tile s _ ?_ (fun j u hu hj => Tbl.get_set_ne _ _ _ _ _ (by omega))
  have hrow : ∀ p : Nat × Nat, p.1 = 64 * tile + i → p.1 / 64 = tile := fun p hp => by omega
  simp only [Cluster.besidesTile, List.filter_filter]
  congr 1
  apply List.filter_congr
  intro p _
  by_cases hp : p.1 = 64 * tile + i
  · simp [hrow p hp]
  · simp [hp]

theorem State.accRow_setAccRow (s : State) (c tile i j : Nat) (r : BitVec 3072) :
    (s.setAccRow c tile i r).accRow c tile j = if j = i then r else s.accRow c tile j := by
  rw [State.accRow, State.setAccRow, State.clusterAt_updCluster, if_pos rfl, Tbl.get_set]
  by_cases h : j = i <;> simp [h, State.accRow]

theorem State.accRow_tileEvents (s : State) (c tile i : Nat) (l : List Events) : (s.tileEvents c tile l).accRow c tile i = s.accRow c tile i := by
  rw [State.accRow, State.tileEvents, State.clusterAt_updCluster, if_pos rfl, State.accRow]

theorem State.accRow_setScale (s : State) (c tile i : Nat) (r : Scale) : (s.setScale c tile r).accRow c tile i = s.accRow c tile i := by
  rw [State.accRow, State.setScale, State.clusterAt_updCluster, if_pos rfl, State.accRow]

theorem State.accRow_setProg (s : State) (c tile i row : Nat) (act : Bool) : (s.setProg c tile row act).accRow c tile i = s.accRow c tile i := by
  rw [State.accRow, State.setProg, State.clusterAt_updCluster, if_pos rfl, State.accRow]

/-- A progress word that has been cleared. -/
theorem State.prog_setProg_clear (s : State) (c tile : Nat) (h : tile < 8) :
    ((s.setProg c tile 0 false).clusterAt c).prog.getD tile 0#64 = 0#64 := by
  rw [State.setProg, State.clusterAt_updCluster, if_pos rfl]
  simp [Vector.getD_setIfInBounds _ _ _ _ _ h]

theorem OnTile.badRow {c tile : Nat} {s t : State} (h : OnTile c tile s t) : (t.clusterAt c).badRow = (s.clusterAt c).badRow := by
  obtain ⟨-, -, -, -, -, -, -, -, hbesides, -⟩ := h
  simpa only [Cluster.besidesTile] using congrArg Cluster.badRow hbesides

/-! Rows in order (R315, R321, R323). -/

theorem State.accBad_of_clean (s : State) (c tile i : Nat) (h : TileClean s c tile) (hi : i < 64) : s.accBad c tile i = false := by
  rw [State.accBad, List.any_eq_false]
  intro p hp hrow
  exact h p hp (by simp only [decide_eq_true_eq] at hrow; omega)

theorem State.rowsLeft_lt (s : State) (c tile i : Nat) (h : i ∈ s.rowsLeft c tile) : i < 64 := by
  simp only [State.rowsLeft] at h
  split at h
  · exact List.mem_range.mp (List.mem_of_mem_drop h)
  · exact List.mem_range.mp h

theorem State.rowsLeft_fresh (s : State) (c tile : Nat) (h : ((s.clusterAt c).prog.getD tile 0#64).getLsbD 7 = false) :
    s.rowsLeft c tile = List.range 64 := by
  simp only [State.rowsLeft, h, Bool.false_eq_true, if_false]

/-- A row written with its events. -/
def State.putRow (s : State) (c tile i : Nat) (l : List (Nat × Events)) : State :=
  (s.setAccRow c tile i (rowMake (l.map Prod.fst))).tileEvents c tile (l.map Prod.snd)

theorem State.onTile_putRow (s : State) (c tile i : Nat) (l : List (Nat × Events)) (hi : i < 64) : OnTile c tile s (s.putRow c tile i l) :=
  (onTile_setAccRow c tile i s _ hi).trans (onTile_tileEvents c tile _ _)

theorem State.accRow_putRow (s : State) (c tile i j : Nat) (l : List (Nat × Events)) :
    (s.putRow c tile i l).accRow c tile j = if j = i then rowMake (l.map Prod.fst) else s.accRow c tile j := by
  rw [State.putRow, State.accRow_tileEvents, State.accRow_setAccRow]

/-- With no bad row among them, all rows are written, each from what it was given. -/
theorem State.runRows_good (c tile : Nat) (bad : Nat → Bool) (f : Nat → List (Nat × Events)) (l : List Nat) (s : State)
    (hrow : (s.clusterAt c).badRow = none) (hlt : ∀ i ∈ l, i < 64) (hbad : ∀ i ∈ l, bad i = false) :
    ∃ t, s.runRows c tile bad f l = .ok t ∧ OnTile c tile s t ∧ t.cores = s.cores ∧ t.run = s.run ∧
      ∀ j, t.accRow c tile j = if j ∈ l then rowMake ((f j).map Prod.fst) else s.accRow c tile j := by
  induction l generalizing s with
  | nil => exact ⟨s, rfl, OnTile.refl c tile s, rfl, rfl, fun j => by simp⟩
  | cons i l ih =>
    have hput := s.onTile_putRow c tile i (f i) (hlt i List.mem_cons_self)
    obtain ⟨t, hrun, hon, hcores, hr, hacc⟩ := ih (s.putRow c tile i (f i)) (hput.badRow.trans hrow)
      (fun j hj => hlt j (List.mem_cons_of_mem i hj)) (fun j hj => hbad j (List.mem_cons_of_mem i hj))
    refine ⟨t, ?_, hput.trans hon, hcores.trans rfl, hr.trans rfl, fun j => ?_⟩
    · simp only [State.runRows, hrow, reduceCtorEq, if_false, hbad i List.mem_cons_self, Bool.false_eq_true]
      exact hrun
    · rw [hacc, State.accRow_putRow]
      by_cases hj : j ∈ l <;> by_cases hji : j = i <;> simp [hj, hji]

/-! Issue and retirement of a matrix instruction. -/

theorem withLease_held (s : State) (n : Nat) (f : State → Nat → Nat → Except Stop State) (hcur : s.run.cur = .core n) (hheld : s.leaseHeld n = true) :
    withLease s f = finish n (f (s.updCluster (clusterOf n) (fun k => { k with lidle := 0 })) n (clusterOf n)) := by
  simp only [withLease, runCore_core s n _ hcur, hheld, if_true]

/-- The issue of a core whose store buffer is empty raises its clock alone (R177, R303). -/
theorem State.arrayIssue_empty (s : State) (n : Nat) (h : (s.coreAt n).sb = []) : s.arrayIssue n = .ok (s.raise n (s.coreAt n).swm) := by
  simp only [State.arrayIssue, State.release, s.drain_empty n h]
  rfl

/-- The state once a matrix instruction of core `n` has issued. -/
def State.issuedTo (s : State) (n : Nat) : State := (s.updCluster (clusterOf n) (fun k => { k with lidle := 0 })).raise n (s.coreAt n).swm

theorem State.arrayIssue_held (s : State) (n : Nat) (h : (s.coreAt n).sb = []) :
    (s.updCluster (clusterOf n) (fun k => { k with lidle := 0 })).arrayIssue n = .ok (s.issuedTo n) :=
  State.arrayIssue_empty _ n h

theorem State.onTile_issuedTo (s : State) (n tile : Nat) : OnTile (clusterOf n) tile s (s.issuedTo n) :=
  (onTile_idleZero _ tile s).trans (onTile_updCore _ tile _ n _)

theorem State.coreAt_issuedTo (s : State) (n k : Nat) : (s.issuedTo n).coreAt k = if k = n then (s.coreAt n).issued else s.coreAt k := by
  rw [State.issuedTo, State.raise, State.coreAt_updCore, State.coreAt_updCluster, State.coreAt_updCluster]
  rfl

theorem State.clusterAt_issuedTo (s : State) (n : Nat) : (s.issuedTo n).clusterAt (clusterOf n) = { s.clusterAt (clusterOf n) with lidle := 0 } := by
  rw [State.issuedTo, State.raise, State.clusterAt_updCore, State.clusterAt_updCluster, if_pos rfl]

theorem State.accRow_issuedTo (s : State) (n tile i : Nat) : (s.issuedTo n).accRow (clusterOf n) tile i = s.accRow (clusterOf n) tile i := by
  rw [State.accRow, State.clusterAt_issuedTo, State.accRow]

theorem complete_core (s : State) (n : Nat) (h : s.run.cur = .core n) : s.complete = s.retireTo n ((s.coreAt n).pc + 4#64) := by
  simp only [State.complete, h]

/-- A matrix instruction that has done its work on the tile, and to its core, retires. -/
theorem OnTile.retires {n tile : Nat} {s u : State} {d : Core} (hon : OnTile (clusterOf n) tile s u) (hcur : u.run.cur = .core n)
    (hn : u.coreAt n = d) (hothers : ∀ k, k ≠ n → u.coreAt k = s.coreAt k) (hpc : d.pc = (s.coreAt n).pc)
    (hfrz : d.frzReq = (s.coreAt n).frzReq) (hstep : d.stepping = (s.coreAt n).stepping) :
    TileRetires n tile s u.complete d ∧ ∀ k, u.complete.clusterAt k = u.clusterAt k := by
  subst hn
  rw [complete_core u n hcur]
  obtain ⟨⟨hplain, hp, hwait, hfree⟩, ho, htime, hclusters, hmem, hhome, htabs, hdisp, hnet, hengines⟩ :=
    retireTo_spec u n ((u.coreAt n).pc + 4#64)
  have hcl (k : Nat) : (u.retireTo n ((u.coreAt n).pc + 4#64)).clusterAt k = u.clusterAt k := by
    rw [State.clusterAt, hclusters, State.clusterAt]
  obtain ⟨h1, h2, h3, h4, h5, h6, h7, h8, h9, h10⟩ := hon
  refine ⟨⟨⟨⟨hplain, ?_, hwait, fun hf hs => hfree (hfrz.trans hf) (hstep.trans hs)⟩, fun k hk => ?_, htime.trans h1, hhome.trans h3, htabs.trans h4,
    hdisp.trans h5, hnet.trans h6, hengines.trans h7, fun k hk => ?_, ?_, fun i u hu hi => ?_⟩, fun a => ?_⟩, hcl⟩
  · rw [hp, hpc]; rfl
  · rw [ho k hk, hothers k hk]
  · rw [hcl, h8 k hk]
  · rw [hcl, h9]
  · rw [State.accRow, hcl]; exact h10 i u hu hi
  · rw [hmem a, h2]

end Sys2Proof.Machine
end

section
/-! PROOFS. Multiplies (O30). -/

namespace Sys2Proof.Machine

/-! Popping the operand rings (R73, R315). -/

theorem Core.ring_setRing_ne (c : Core) (a b : BitVec 5) (q : Word) (h : a ≠ b) (hb : b.toNat < 16) : (c.setRing b q).ring a = c.ring a := by
  have hne : a.toNat ≠ b.toNat := fun he => h (BitVec.eq_of_toNat_eq he)
  rw [Core.ring, Core.setRing, Vector.getD_setIfInBounds _ _ _ _ _ hb, if_neg hne, Core.ring]

theorem Core.setRing_comm (c : Core) (a b : BitVec 5) (p q : Word) (h : a ≠ b) : (c.setRing b q).setRing a p = (c.setRing a p).setRing b q := by
  have hne : a.toNat ≠ b.toNat := fun he => h (BitVec.eq_of_toNat_eq he)
  have hq : (c.q.setIfInBounds b.toNat q).setIfInBounds a.toNat p = (c.q.setIfInBounds a.toNat p).setIfInBounds b.toNat q := by
    ext i hi
    grind
  simp only [Core.setRing, hq]

theorem Core.ring_issued (c : Core) (r : BitVec 5) : c.issued.ring r = c.ring r := rfl

/-- The pops of a multiply: ring B, and ring A unless KEEPA is set. -/
def State.popOperands (s : State) (n : Nat) (ra rb : BitVec 5) (ka : BitVec 1) : State :=
  if ka = 0#1 then (s.popRing n rb).popRing n ra else s.popRing n rb

theorem State.coreAt_popRing (s : State) (n k : Nat) (r : BitVec 5) :
    (s.popRing n r).coreAt k = if k = n then (s.coreAt n).setRing r (ringPop ((s.coreAt n).ring r)) else s.coreAt k :=
  State.coreAt_updCore s n k (fun c => c.setRing r (ringPop (c.ring r)))

theorem State.onTile_popOperands (s : State) (n c tile : Nat) (ra rb : BitVec 5) (ka : BitVec 1) : OnTile c tile s (s.popOperands n ra rb ka) := by
  have hpop (u : State) (r : BitVec 5) : OnTile c tile u (u.popRing n r) := (onTile_updCore c tile u n _).trans (onTile_note c tile _ _)
  unfold State.popOperands
  split
  · exact (hpop s rb).trans (hpop _ ra)
  · exact hpop s rb

theorem State.popOperands_keeps (s : State) (n : Nat) (ra rb : BitVec 5) (ka : BitVec 1) :
    (s.popOperands n ra rb ka).run.cur = s.run.cur ∧ (s.popOperands n ra rb ka).clusters = s.clusters ∧
      ∀ k, k ≠ n → (s.popOperands n ra rb ka).coreAt k = s.coreAt k := by
  unfold State.popOperands
  split
  · exact ⟨rfl, rfl, fun k hk => by rw [State.coreAt_popRing, if_neg hk, State.coreAt_popRing, if_neg hk]⟩
  · exact ⟨rfl, rfl, fun k hk => by rw [State.coreAt_popRing, if_neg hk]⟩

theorem State.coreAt_popOperands (s : State) (n : Nat) (ra rb : BitVec 5) (ka : BitVec 1) (hne : ra ≠ rb) (hb : rb.toNat < 16) :
    (s.popOperands n ra rb ka).coreAt n = (if ka = 0#1 then (s.coreAt n).setRing ra (ringPop ((s.coreAt n).ring ra)) else s.coreAt n).setRing rb
      (ringPop ((s.coreAt n).ring rb)) := by
  unfold State.popOperands
  split
  · rw [State.coreAt_popRing, if_pos rfl, State.coreAt_popRing, if_pos rfl, Core.ring_setRing_ne _ _ _ _ hne hb, Core.setRing_comm _ _ _ _ _ hne]
  · rw [State.coreAt_popRing, if_pos rfl]

/-- What a multiply does once its rows are written: the scale record, the pops, and the progress word (R315, R316). -/
def State.mmaEnd (s : State) (n tile : Nat) (r : Scale) (ra rb : BitVec 5) (ka : BitVec 1) : State :=
  ((s.setScale (clusterOf n) tile r).popOperands n ra rb ka).setProg (clusterOf n) tile 0 false

theorem State.onTile_mmaEnd (s : State) (n tile : Nat) (r : Scale) (ra rb : BitVec 5) (ka : BitVec 1) :
    OnTile (clusterOf n) tile s (s.mmaEnd n tile r ra rb ka) :=
  ((onTile_setScale _ _ s r).trans (State.onTile_popOperands _ n _ _ ra rb ka)).trans (onTile_setProg _ _ _ 0 false)

theorem State.cur_mmaEnd (s : State) (n tile : Nat) (r : Scale) (ra rb : BitVec 5) (ka : BitVec 1) :
    (s.mmaEnd n tile r ra rb ka).run.cur = s.run.cur :=
  (State.popOperands_keeps _ n ra rb ka).1

theorem State.coreAt_mmaEnd_ne (s : State) (n tile k : Nat) (r : Scale) (ra rb : BitVec 5) (ka : BitVec 1) (hk : k ≠ n) :
    (s.mmaEnd n tile r ra rb ka).coreAt k = s.coreAt k :=
  (State.popOperands_keeps _ n ra rb ka).2.2 k hk

theorem State.coreAt_mmaEnd (s : State) (n tile : Nat) (r : Scale) (ra rb : BitVec 5) (ka : BitVec 1) (hne : ra ≠ rb) (hb : rb.toNat < 16) :
    (s.mmaEnd n tile r ra rb ka).coreAt n = (if ka = 0#1 then (s.coreAt n).setRing ra (ringPop ((s.coreAt n).ring ra)) else s.coreAt n).setRing rb
      (ringPop ((s.coreAt n).ring rb)) :=
  State.coreAt_popOperands _ n ra rb ka hne hb

theorem State.accRow_mmaEnd (s : State) (n tile i : Nat) (r : Scale) (ra rb : BitVec 5) (ka : BitVec 1) :
    (s.mmaEnd n tile r ra rb ka).accRow (clusterOf n) tile i = s.accRow (clusterOf n) tile i := by
  rw [State.mmaEnd, State.accRow_setProg, State.accRow, State.clusterAt, (State.popOperands_keeps _ n ra rb ka).2.1, ← State.clusterAt,
    ← State.accRow, State.accRow_setScale]

/-! What a trap leaves (R269, R270). -/

theorem State.faultRecord_keeps (s : State) (ten : Nat) (r : FaultRec) (cmd : BitVec 512) :
    (s.faultRecord ten r cmd).1.cores = s.cores ∧ (s.faultRecord ten r cmd).1.clusters = s.clusters := by
  simp only [State.faultRecord, State.putFault]
  split <;> simp

/-- Whatever its route, a trap leaves the core's x registers and rings, and every cluster. -/
theorem State.takeTrapK_keeps (s : State) (n cause : Nat) (tval : Word) (kacc : Nat) :
    ((s.takeTrapK n cause tval kacc).coreAt n).x = (s.coreAt n).x ∧ ((s.takeTrapK n cause tval kacc).coreAt n).q = (s.coreAt n).q ∧
      (s.takeTrapK n cause tval kacc).clusters = s.clusters := by
  have hupd (f : Core → Core) (hx : ∀ c, (f c).x = c.x) (hq : ∀ c, (f c).q = c.q) : ((s.updCore n f).coreAt n).x = (s.coreAt n).x ∧
      ((s.updCore n f).coreAt n).q = (s.coreAt n).q ∧ (s.updCore n f).clusters = s.clusters := by
    rw [State.coreAt_updCore, if_pos rfl]
    exact ⟨hx _, hq _, rfl⟩
  simp only [State.takeTrapK]
  split
  · exact hupd _ (fun _ => rfl) (fun _ => rfl)
  · split
    · exact hupd _ (fun _ => rfl) (fun _ => rfl)
    · obtain ⟨hcores, hclusters⟩ := State.faultRecord_keeps (s.updCore n fun c => c.freeze cause c.pc tval
        (decide (routeOf (s.pair n) cause = 1)) s.time.gtc) (s.coreAt n).ten (State.trapRecord _ n cause tval kacc) (State.openCopy _)
      rw [State.coreAt, hcores, hclusters, ← State.coreAt]
      exact hupd _ (fun _ => rfl) (fun _ => rfl)

/-- A trap that a core takes on itself names its cause and its value (R269). -/
theorem State.takeTrapK_sup (s : State) (n cause : Nat) (tval : Word) (kacc : Nat) (h : s.trapsSelf n cause = true) :
    ((s.takeTrapK n cause tval kacc).coreAt n).sup.scause = 0#1 ++ BitVec.ofNat 63 cause ∧
      ((s.takeTrapK n cause tval kacc).coreAt n).sup.stval = tval := by
  rw [takeTrapK_self s n cause tval kacc h, State.coreAt_updCore, if_pos rfl]
  exact ⟨rfl, rfl⟩

/-! The three ways in which a multiply of the lease holder ends (R315). -/

section
variable (ra rb : BitVec 5) (ka : BitVec 1) (fmt acc : BitVec 3) (km1 : BitVec 5) (n : Nat) (s : State)
variable (hcur : s.run.cur = .core n) (hheld : s.leaseHeld n = true)
include hcur hheld

/-- Two names of one ring, or a ring that does not serve: cause 25 with the ring's number. -/
theorem exec_mma_trap (h : ra = rb ∨ ringServes ((s.coreAt n).ring ra) fmt false = false ∨ ringServes ((s.coreAt n).ring rb) fmt true = false) :
    exec (.mma ra rb ka fmt acc km1) s = .next ((s.updCluster (clusterOf n) (fun k => { k with lidle := 0 })).takeTrapK n 25
      (BitVec.ofNat 64 (if ra = rb ∨ ringServes ((s.coreAt n).ring ra) fmt false = true then rb.toNat else ra.toNat)) 0xFF) := by
  change execMma ra rb ka fmt acc km1 s = _
  rw [execMma, withLease_held s n _ hcur hheld]
  simp only [State.coreAt_updCluster]
  by_cases hsame : ra = rb
  · simp only [hsame, if_true, true_or, BitVec.ofNat_toNat]; rfl
  · by_cases ha : ringServes ((s.coreAt n).ring ra) fmt false = true
    · have hb : ringServes ((s.coreAt n).ring rb) fmt true = false := by
        rcases h with h | h | h
        · exact absurd h hsame
        · exact absurd (ha.symm.trans h) (by decide)
        · exact h
      simp only [hsame, if_false, ha, hb, Bool.not_true, Bool.false_eq_true, Bool.not_false, if_true, or_true, BitVec.ofNat_toNat]; rfl
    · rw [Bool.not_eq_true] at ha
      simp only [hsame, if_false, ha, Bool.not_false, Bool.false_eq_true, if_true, or_self, BitVec.ofNat_toNat]; rfl

variable (hsb : (s.coreAt n).sb = []) (hne : ra ≠ rb) (hsa : ringServes ((s.coreAt n).ring ra) fmt false = true)
variable (hsbr : ringServes ((s.coreAt n).ring rb) fmt true = true)
include hsb hne hsa hsbr

/-- An empty ring: the core waits, its issue made. -/
theorem exec_mma_wait (h : ringCnt ((s.coreAt n).ring ra) = 0 ∨ ringCnt ((s.coreAt n).ring rb) = 0) :
    exec (.mma ra rb ka fmt acc km1) s = .next ((s.issuedTo n).updCore n (fun c => { c with wait := .ring })) := by
  change execMma ra rb ka fmt acc km1 s = _
  rw [execMma, withLease_held s n _ hcur hheld]
  simp only [State.coreAt_updCluster, hne, hsa, hsbr, if_false, Bool.not_true, Bool.false_eq_true, State.arrayIssue_held s n hsb, bind, Except.bind, h,
    if_true]
  rfl

/-- An entry in each ring: every row that is left takes its products, the rings are popped, the progress word is cleared, and the multiply retires. -/
theorem exec_mma_retires (hb16 : rb.toNat < 16) (hca : ringCnt ((s.coreAt n).ring ra) ≠ 0) (hcb : ringCnt ((s.coreAt n).ring rb) ≠ 0)
    (hrow : (s.clusterAt (clusterOf n)).badRow = none) (hclean : TileClean s (clusterOf n) acc.toNat) (ea eb : Nat)
    (hea : ea = ringAt ((s.coreAt n).ring ra) (ringHead ((s.coreAt n).ring ra)))
    (heb : eb = ringAt ((s.coreAt n).ring rb) (ringHead ((s.coreAt n).ring rb)))
    (hops : OperandsClean s (clusterOf n) fmt ea eb (km1.toNat + 1)) :
    ∃ t, exec (.mma ra rb ka fmt acc km1) s = .next t ∧
      TileRetires n acc.toNat s t ((if ka = 0#1 then (s.coreAt n).issued.setRing ra (ringPop ((s.coreAt n).ring ra)) else (s.coreAt n).issued).setRing rb
        (ringPop ((s.coreAt n).ring rb))) ∧
      (t.clusterAt (clusterOf n)).prog.getD acc.toNat 0#64 = 0#64 ∧
      ∀ i, i ∈ s.rowsLeft (clusterOf n) acc.toNat → t.accRow (clusterOf n) acc.toNat i =
        rowMake (((s.issuedTo n).mmaRow (clusterOf n) acc.toNat ea eb (mmaFmt fmt) (km1.toNat + 1) i).map Prod.fst) := by
  have hissued : (s.issuedTo n).coreAt n = (s.coreAt n).issued := by rw [State.coreAt_issuedTo, if_pos rfl]
  have hclean' : TileClean (s.issuedTo n) (clusterOf n) acc.toNat := by
    rw [TileClean, State.clusterAt_issuedTo]; exact hclean
  have hleft : (s.issuedTo n).rowsLeft (clusterOf n) acc.toNat = s.rowsLeft (clusterOf n) acc.toNat := by
    rw [State.rowsLeft, State.clusterAt_issuedTo, State.rowsLeft]
  have hlt := fun i hi => s.rowsLeft_lt (clusterOf n) acc.toNat i hi
  obtain ⟨u, hrun, hon, hcores, hr, hacc⟩ := State.runRows_good (clusterOf n) acc.toNat ((s.issuedTo n).accBad (clusterOf n) acc.toNat)
    ((s.issuedTo n).mmaRow (clusterOf n) acc.toNat ea eb (mmaFmt fmt) (km1.toNat + 1)) (s.rowsLeft (clusterOf n) acc.toNat) (s.issuedTo n)
    (by rw [State.clusterAt_issuedTo]; exact hrow) hlt (fun i hi => State.accBad_of_clean _ _ _ i hclean' (hlt i hi))
  have hcoreAt (k : Nat) : u.coreAt k = (s.issuedTo n).coreAt k := by rw [State.coreAt, hcores, State.coreAt]
  let scale (v : State) : Scale := if mmaFmt fmt = .i4x then
      scaleAfter (v.scaleOf (clusterOf n) acc.toNat) ((List.range 64).map (v.iLine (clusterOf n) ea 64 (km1.toNat + 1)))
        ((List.range 96).map (v.iLine (clusterOf n) eb 96 (km1.toNat + 1)))
    else v.scaleOf (clusterOf n) acc.toNat
  have hexec : exec (.mma ra rb ka fmt acc km1) s = .next (u.mmaEnd n acc.toNat (scale (s.issuedTo n)) ra rb ka).complete := by
    change execMma ra rb ka fmt acc km1 s = _
    have hops' : (s.issuedTo n).clPoisoned (clusterOf n) (entryReads (mmaFmt fmt) ea 64 (km1.toNat + 1) ++
      entryReads (mmaFmt fmt) eb 96 (km1.toNat + 1)) = none := hops
    rw [execMma, withLease_held s n _ hcur hheld]
    simp only [State.coreAt_updCluster, hne, hsa, hsbr, if_false, Bool.not_true, Bool.false_eq_true, State.arrayIssue_held s n hsb, bind, Except.bind,
      hca, hcb, or_self, ← hea, ← heb, hops', hleft, hrun]
    rfl
  generalize scale (s.issuedTo n) = r at hexec
  have hcore := u.coreAt_mmaEnd n acc.toNat r ra rb ka hne hb16
  rw [hcoreAt, hissued, Core.ring_issued, Core.ring_issued] at hcore
  have hkept : ∀ {β : Type} (P : Core → β), (∀ (c : Core) r q, P (c.setRing r q) = P c) → P (s.coreAt n).issued = P (s.coreAt n) →
      P ((u.mmaEnd n acc.toNat r ra rb ka).coreAt n) = P (s.coreAt n) := by
    intro β P hP hi
    rw [hcore, hP]
    split
    · rw [hP, hi]
    · exact hi
  obtain ⟨hretires, hclusters⟩ := (((s.onTile_issuedTo n _).trans hon).trans (u.onTile_mmaEnd n _ r ra rb ka)).retires
    ((u.cur_mmaEnd n _ r ra rb ka).trans ((congrArg Run.cur hr).trans hcur)) rfl
    (fun k hk => by rw [State.coreAt_mmaEnd_ne _ _ _ _ _ _ _ _ hk, hcoreAt, State.coreAt_issuedTo, if_neg hk])
    (hkept Core.pc (fun _ _ _ => rfl) rfl) (hkept Core.frzReq (fun _ _ _ => rfl) rfl) (hkept Core.stepping (fun _ _ _ => rfl) rfl)
  refine ⟨_, hexec, hcore ▸ hretires, ?_, fun i hi => ?_⟩
  · rw [hclusters]
    exact State.prog_setProg_clear _ _ _ acc.isLt
  · rw [State.accRow, hclusters, ← State.accRow, State.accRow_mmaEnd, hacc, if_pos hi]

end

/-! The elements of an INT8 multiply (R112). -/

/-- The codes of an INT8 line are its signed bytes (R310). -/
theorem State.lineCodes_int8 (s : State) (c o i k : Nat) :
    (s.lineCodes c (o + lineBytes .int8 * i) .int8 k).map (signedOf 8) = (List.range k).map (int8At s c o i) := by
  rw [State.lineCodes, List.map_map]
  refine List.map_congr_left fun b _ => ?_
  have hread (a : Nat) : s.clRead c a 1 = (s.clByte c a).toNat := by simp [State.clRead, bytesToNat]
  change signedOf 8 (s.clRead c (o + 32 * i + b * 1) 1) = (s.clByte c (o + 32 * i + b)).toInt
  rw [hread, Nat.mul_one, signedOf_eq_toInt 8 _ (by decide), BitVec.ofNat_toNat, BitVec.setWidth_eq]

/-- An element of an INT8 multiply: its dot product over K, in two saturating chunks. -/
theorem State.mmaRow_int8 (s : State) (c tile ea eb k i j : Nat) (hj : j < 96) (h0 : 0 < k) (h32 : k ≤ 32) :
    ((s.mmaRow c tile ea eb .int8 k i).map Prod.fst).getD j 0 = (BitVec.ofInt 32 (addSat (BitVec.ofInt 32 (addSat (accElem s c tile i j)
      (int8Dot s c ea eb i j 0 (min 16 k)))).toNat (int8Dot s c ea eb i j 16 k))).toNat := by
  have hzip : ((List.range k).map (int8At s c ea i)).zip ((List.range k).map (int8At s c eb j)) =
      (List.range k).map (fun b => (int8At s c ea i b, int8At s c eb j b)) := List.zip_map' ..
  have helem : ((s.mmaRow c tile ea eb .int8 k i).map Prod.fst).getD j 0 = (mmaInt (rowElem (s.accRow c tile i) j)
      ((List.range k).map (int8At s c ea i)) ((List.range k).map (int8At s c eb j)) false).1 := by
    simp [State.mmaRow, State.lineCodes_int8, hj]
  rw [helem, mmaInt_two_chunks _ _ _ _ (by rw [hzip]; simpa using Nat.ne_of_gt h0) (by rw [hzip]; simpa using h32), hzip, ← List.map_take, ← List.map_drop,
    List.take_range, List.map_map, List.map_map]
  rfl

theorem int8MultiplyAccumulates : Int8MultiplyAccumulates := by
  intro ra rb ka acc km1 n s hcur c cl qa qb ea eb mid hheld hsb hne _ hb16 hsa hsbr hca hcb hrow hclean hops hprog
  obtain ⟨t, hexec, hretires, hp, hacc⟩ := exec_mma_retires ra rb ka 4#3 acc km1 n s hcur hheld hsb hne hsa hsbr hb16 hca hcb hrow hclean ea eb rfl rfl hops
  refine ⟨t, hexec, hretires, hp, fun i j hi hj => ?_⟩
  have hlt : km1.toNat < 32 := km1.isLt
  rw [accElem, hacc i (by rw [State.rowsLeft_fresh _ _ _ hprog]; exact List.mem_range.mpr hi), rowElem_rowMake _ _ hj,
    show mmaFmt 4#3 = .int8 from rfl, State.mmaRow_int8 _ _ _ _ _ _ _ _ hj (by omega) (by omega), accElem, State.accRow_issuedTo,
    Nat.mod_eq_of_lt (BitVec.isLt _), BitVec.ofNat_toNat, BitVec.setWidth_eq, toInt_addSat]
  rfl

theorem multiplyConsumesItsOperands : MultiplyConsumesItsOperands := by
  intro ra rb ka fmt acc km1 n s _ hcur c cl qa qb hheld hsb ha16 hb16
  refine ⟨fun hne hsa hsbr hca hcb hrow hclean hops => ?_, fun h => ?_, fun hne hsa hsbr h => ?_⟩
  · obtain ⟨t, hexec, hretires, hp, -⟩ :=
      exec_mma_retires ra rb ka fmt acc km1 n s hcur hheld hsb hne hsa hsbr hb16 hca hcb hrow hclean _ _ rfl rfl hops
    exact ⟨t, hexec, hretires, hp⟩
  · refine ⟨_, exec_mma_trap ra rb ka fmt acc km1 n s hcur hheld h, ?_⟩
    obtain ⟨hx, hq, hclusters⟩ := State.takeTrapK_keeps (s.updCluster cl (fun k => { k with lidle := 0 })) n 25
      (BitVec.ofNat 64 (if ra = rb ∨ ringServes qa fmt false = true then rb.toNat else ra.toNat)) 0xFF
    refine ⟨hx, hq, fun i _ => ?_, fun hself => ?_⟩
    · rw [State.accRow, State.clusterAt, hclusters, ← State.clusterAt, State.clusterAt_updCluster, if_pos rfl, State.accRow]
    · exact State.takeTrapK_sup _ n 25 _ 0xFF hself
  · refine ⟨_, exec_mma_wait ra rb ka fmt acc km1 n s hcur hheld hsb hne hsa hsbr h, ?_⟩
    rw [State.coreAt_updCore, if_pos rfl, State.coreAt_issuedTo, if_pos rfl]
    exact ⟨rfl, rfl, rfl⟩

/-- Settles O30: what a multiply does to the tile and to its rings in each of its three endings. -/
theorem multipliesAccumulateAndConsume : Obligations.MultipliesAccumulateAndConsume := ⟨int8MultiplyAccumulates, multiplyConsumesItsOperands⟩

end Sys2Proof.Machine
end

section
/-! PROOFS. A gang reduction of two teams (O33). -/

namespace Sys2Proof.Machine

/-- Two cores retire one after the other: each moves to its next address, and nothing but the cores changes. -/
theorem State.retireTo_two (s : State) (p q : Nat) (hne : p ≠ q) :
    (let t := (s.retireTo p ((s.coreAt p).pc + 4#64)).retireTo q (((s.retireTo p ((s.coreAt p).pc + 4#64)).coreAt q).pc + 4#64)
     (∀ k, k = p ∨ k = q → (t.coreAt k).pc = (s.coreAt k).next ∧ (t.coreAt k).wait = .none) ∧ OutsideKept s t) := by
  intro t
  obtain ⟨⟨-, hp, hpw, -⟩, ho, hout⟩ := retireTo_spec s p ((s.coreAt p).pc + 4#64)
  obtain ⟨⟨-, hq, hqw, -⟩, ho', hout'⟩ :=
    retireTo_spec (s.retireTo p ((s.coreAt p).pc + 4#64)) q (((s.retireTo p ((s.coreAt p).pc + 4#64)).coreAt q).pc + 4#64)
  refine ⟨fun k hk => ?_, hout.trans hout'⟩
  rcases hk with rfl | rfl
  · obtain ⟨-, hpc, hwait, -⟩ := unfed_of (ho' k hne)
    exact ⟨hpc.trans hp, hwait.trans hpw⟩
  · obtain ⟨-, hpc, -⟩ := unfed_of (ho k (Ne.symm hne))
    exact ⟨by rw [hq, hpc]; rfl, hqw⟩

/-! The combined element (R113). -/

/-- One element combined with another tile's. -/
def combined (float : Bool) (x y : Nat) : Nat :=
  if float then (accAdd x (Fmt.fp32.decode y)).1 % 2 ^ 32 else (BitVec.ofInt 32 (addSat x (BitVec.ofNat 32 y).toInt)).toNat

theorem gredStep_combined (float : Bool) (x y : Nat) (ev : Events) : (gredStep float (x, ev) y).1 % 2 ^ 32 = combined float x y := by
  unfold gredStep combined
  cases float with
  | true => rfl
  | false =>
    simp only [Bool.false_eq_true, if_false, satAdd32_eq_addSat, signedOf_eq_toInt 32 y (by decide)]
    exact Nat.mod_eq_of_lt (BitVec.isLt _)

theorem State.gredRow_two (s : State) (float : Bool) (tile a b i j : Nat) (hj : j < 96) :
    rowElem (rowMake ((s.gredRow float tile a [b] i).map Prod.fst)) j = combined float (accElem s a tile i j) (accElem s b tile i j) := by
  rw [rowElem_rowMake _ _ hj, ← gredStep_combined float _ _ Events.none]
  simp [State.gredRow, hj, accElem]

/-- Two holders who have met, with nothing in the way of the rows: the first one's tile takes the combined elements, and both retire. -/
theorem State.gredRun_two (s : State) (float : Bool) (tile p q a b : Nat) (hpa : clusterOf p = a) (hqb : clusterOf q = b) (hab : a ≠ b)
    (hrow : (s.clusterAt a).badRow = none) (hprog : ((s.clusterAt a).prog.getD tile 0#64).getLsbD 7 = false) (ha : TileClean s a tile) (hb : TileClean s b tile) :
    (let t := s.gredRun float tile [p, q]
     (∀ k, k = p ∨ k = q → (t.coreAt k).pc = (s.coreAt k).next ∧ (t.coreAt k).wait = .none) ∧ SameMem s t ∧
       (∀ i, t.accRow b tile i = s.accRow b tile i) ∧
       ∀ i j, i < 64 → j < 96 → accElem t a tile i j = combined float (accElem s a tile i j) (accElem s b tile i j)) := by
  have hne : p ≠ q := fun h => hab (by rw [← hpa, ← hqb, h])
  obtain ⟨u, hrun, hon, hcores, -, hacc⟩ := State.runRows_good a tile (fun i => [p, q].any (fun m => s.accBad (clusterOf m) tile i))
    (s.gredRow float tile a [b]) (List.range 64) s hrow (fun i hi => List.mem_range.mp hi) (fun i hi => by
      have hi := List.mem_range.mp hi
      simp [hpa, hqb, s.accBad_of_clean a tile i ha hi, s.accBad_of_clean b tile i hb hi])
  have ht : s.gredRun float tile [p, q] = ((u.setProg a tile 0 false).retireTo p (((u.setProg a tile 0 false).coreAt p).pc + 4#64)).retireTo q
      ((((u.setProg a tile 0 false).retireTo p (((u.setProg a tile 0 false).coreAt p).pc + 4#64)).coreAt q).pc + 4#64) := by
    simp only [State.gredRun, hpa, List.map_cons, List.map_nil, hqb, s.rowsLeft_fresh a tile hprog]
    rw [hrun]
    rfl
  obtain ⟨hretire, -, hclusters, hmem, -⟩ := (u.setProg a tile 0 false).retireTo_two p q hne
  rw [← ht] at hretire hclusters hmem
  obtain ⟨-, humem, -, -, -, -, -, hother, -⟩ := hon.trans (onTile_setProg a tile u 0 false)
  have hcoreAt (k : Nat) : (u.setProg a tile 0 false).coreAt k = s.coreAt k := by
    rw [State.coreAt, State.setProg, State.cores_updCluster, hcores, State.coreAt]
  have hrows (c i : Nat) : (s.gredRun float tile [p, q]).accRow c tile i = (u.setProg a tile 0 false).accRow c tile i := by
    rw [State.accRow, State.clusterAt, hclusters, ← State.clusterAt, ← State.accRow]
  refine ⟨fun k hk => ?_, fun x => (hmem x).trans (by rw [humem]), fun i => ?_, fun i j hi hj => ?_⟩
  · rw [← hcoreAt k]; exact hretire k hk
  · rw [hrows, State.accRow, hother b (Ne.symm hab), State.accRow]
  · rw [accElem, hrows, State.accRow_setProg, hacc, if_pos (List.mem_range.mpr hi), State.gredRow_two _ _ _ _ _ _ _ hj]

/-! The meeting (R323). -/

/-- Core `n` has issued its reduction and brings it to the meeting. -/
def State.joined (s : State) (n : Nat) (g : Contrib) : State := (s.issuedTo n).updCore n (fun c => { c with contrib := g, wait := .gred })

theorem State.coreAt_joined (s : State) (n k : Nat) (g : Contrib) :
    (s.joined n g).coreAt k = if k = n then { (s.coreAt n).issued with contrib := g, wait := .gred } else s.coreAt k := by
  rw [State.joined, State.coreAt_updCore, State.coreAt_issuedTo, if_pos rfl, State.coreAt_issuedTo]
  split <;> rfl

/-- Of the clusters the issue has touched the idle count of one alone. -/
theorem State.clusterAt_joined (s : State) (n c : Nat) (g : Contrib) :
    (s.joined n g).clusterAt c = if c = clusterOf n then { s.clusterAt c with lidle := 0 } else s.clusterAt c := by
  rw [State.joined, State.clusterAt_updCore, State.issuedTo, State.raise, State.clusterAt_updCore, State.clusterAt_updCluster]
  by_cases h : c = clusterOf n
  · rw [if_pos h, if_pos h, h]
  · rw [if_neg h, if_neg h]

theorem State.joined_keeps {β : Type} (s : State) (n c : Nat) (g : Contrib) (P : Cluster → β) (hP : ∀ k : Cluster, P { k with lidle := 0 } = P k) :
    P ((s.joined n g).clusterAt c) = P (s.clusterAt c) := by
  rw [State.clusterAt_joined]
  split
  · exact hP _
  · rfl

/-- The group of a reduction of two teams, once the holders of both have come. -/
theorem State.gredGroup_two (s : State) (f : Field) (team a b p q : Nat) (float float' : Bool) (tile tile' x x' : Nat) (hteams : f.teams = [a, b])
    (hteam : team < 2) (ha : s.holderCore a = some p) (hb : s.holderCore b = some q) (hp : (s.coreAt p).contrib = .gred float tile x)
    (hq : (s.coreAt q).contrib = .gred float' tile' x') : s.gredGroup f team 2 = [some p, some q] := by
  have hbase : team / 2 * 2 = 0 := by omega
  simp [State.gredGroup, List.range_succ, hteams, hbase, ha, hb, hp, hq]

/-- The last of two holders to come makes the reduction run. -/
theorem exec_gred_two (rs1 : BitVec 5) (acc : BitVec 3) (float : Bool) (a b p q n : Nat) (k : Task) (f : Field) (s : State) (hcur : s.run.cur = .core n)
    (hrx : (s.coreAt n).rx rs1 = 2#64) (htask : (s.coreAt n).task = some k) (hfield : s.fieldOf k = some f) (hteams : f.teams = [a, b])
    (hteam : k.team < 2) (ha : s.holderCore a = some p) (hb : s.holderCore b = some q) (hheld : s.leaseHeld n = true) (hsb : (s.coreAt n).sb = [])
    (hp : ((s.joined n (.gred float acc.toNat 2)).coreAt p).contrib = .gred float acc.toNat 2)
    (hq : ((s.joined n (.gred float acc.toNat 2)).coreAt q).contrib = .gred float acc.toNat 2) :
    exec (if float then .gredF32 rs1 acc else .gredI32 rs1 acc) s =
      .next ((s.joined n (.gred float acc.toNat 2)).gredRun float acc.toNat [p, q]) := by
  have hexec : exec (if float then .gredF32 rs1 acc else .gredI32 rs1 acc) s = gred float rs1 acc s := by cases float <;> rfl
  have hk : (s.rx rs1).toNat = 2 := by rw [rx_core s n hcur, hrx]; rfl
  have hholder (c : Nat) : (s.joined n (.gred float acc.toNat 2)).holderCore c = s.holderCore c :=
    s.joined_keeps n c _ (fun x => x.holder.map (coreIn c)) (fun _ => rfl)
  have hgroup := State.gredGroup_two (s.joined n (.gred float acc.toNat 2)) f k.team a b p q float float acc.toNat acc.toNat 2 2 hteams hteam
    ((hholder a).trans ha) ((hholder b).trans hb) hp hq
  rw [hexec, gred, runCore_core s n _ hcur]
  simp only [hk, htask, hfield, hteams, hheld, State.arrayIssue_held s n hsb, bind, Except.bind]
  rw [← State.joined, hgroup]
  simp [hp, hq, finish]

/-- Settles O33: the holder of each team stands on its own side of the meeting, whichever of them comes last. -/
theorem gangReductionCombinesTwoTeams : Obligations.GangReductionCombinesTwoTeams := by
  intro rs1 acc float a b n m k f s hcur hrx htask hfield hteams hab hteam ha hb hnm hna hmb hsb hcontrib hrow hprog hta htb
  have hheld : s.leaseHeld n = true := by
    have hholder : s.holderCore (clusterOf n) = some n := by
      rw [hna]
      split
      · next h => rw [ha, if_pos h]
      · next h => rw [hb, if_neg h]
    exact decide_eq_true hholder
  have hn : ((s.joined n (.gred float acc.toNat 2)).coreAt n).contrib = .gred float acc.toNat 2 := by rw [State.coreAt_joined, if_pos rfl]
  have hm : ((s.joined n (.gred float acc.toNat 2)).coreAt m).contrib = .gred float acc.toNat 2 := by
    rw [State.coreAt_joined, if_neg (Ne.symm hnm), hcontrib]
  have hpc : ((s.joined n (.gred float acc.toNat 2)).coreAt n).next = (s.coreAt n).next := by rw [State.coreAt_joined, if_pos rfl]; rfl
  have hpcm : ((s.joined n (.gred float acc.toNat 2)).coreAt m).next = (s.coreAt m).next := by rw [State.coreAt_joined, if_neg (Ne.symm hnm)]
  have hacc (c i : Nat) : (s.joined n (.gred float acc.toNat 2)).accRow c acc.toNat i = s.accRow c acc.toNat i :=
    s.joined_keeps n c _ (fun x => Tbl.get 0#3072 x.acc (64 * acc.toNat + i)) (fun _ => rfl)
  have hclean (c : Nat) (h : TileClean s c acc.toNat) : TileClean (s.joined n (.gred float acc.toNat 2)) c acc.toNat := by
    rw [TileClean, s.joined_keeps n c _ Cluster.accPoison (fun _ => rfl)]; exact h
  have hmeet (p q : Nat) (ha : s.holderCore a = some p) (hb : s.holderCore b = some q) (hpa : clusterOf p = a) (hqb : clusterOf q = b)
      (hnp : n = p ∧ m = q ∨ n = q ∧ m = p) : ∃ t, exec (if float then .gredF32 rs1 acc else .gredI32 rs1 acc) s = .next t ∧
      (t.coreAt n).pc = (s.coreAt n).next ∧ (t.coreAt m).pc = (s.coreAt m).next ∧ (t.coreAt n).wait = .none ∧ (t.coreAt m).wait = .none ∧ SameMem s t ∧
      (∀ i, i < 64 → t.accRow b acc.toNat i = s.accRow b acc.toNat i) ∧
      ∀ i j, i < 64 → j < 96 → accElem t a acc.toNat i j = combined float (accElem s a acc.toNat i j) (accElem s b acc.toNat i j) := by
    have hboth : ((s.joined n (.gred float acc.toNat 2)).coreAt p).contrib = .gred float acc.toNat 2 ∧
        ((s.joined n (.gred float acc.toNat 2)).coreAt q).contrib = .gred float acc.toNat 2 := by
      rcases hnp with ⟨rfl, rfl⟩ | ⟨rfl, rfl⟩
      · exact ⟨hn, hm⟩
      · exact ⟨hm, hn⟩
    obtain ⟨hcores, hmem, hkept, hset⟩ := State.gredRun_two (s.joined n (.gred float acc.toNat 2)) float acc.toNat p q a b hpa hqb hab
      ((s.joined_keeps n a _ Cluster.badRow (fun _ => rfl)).trans hrow)
      (by rw [s.joined_keeps n a _ Cluster.prog (fun _ => rfl)]; exact hprog) (hclean a hta) (hclean b htb)
    obtain ⟨hnpc, hnwait⟩ := hcores n (hnp.imp And.left And.left)
    obtain ⟨hmpc, hmwait⟩ := hcores m (hnp.symm.imp And.right And.right)
    refine ⟨_, exec_gred_two rs1 acc float a b p q n k f s hcur hrx htask hfield hteams hteam ha hb hheld hsb hboth.1 hboth.2, hnpc.trans hpc,
      hmpc.trans hpcm, hnwait, hmwait, hmem, fun i _ => (hkept i).trans (hacc b i), fun i j hi hj => ?_⟩
    rw [hset i j hi hj, accElem, accElem, hacc, hacc, accElem, accElem]
  by_cases h0 : k.team = 0
  · rw [if_pos h0] at ha hb hna hmb
    exact hmeet n m ha hb hna hmb (.inl ⟨rfl, rfl⟩)
  · rw [if_neg h0] at ha hb hna hmb
    exact hmeet m n ha hb hmb hna (.inr ⟨rfl, rfl⟩)

end Sys2Proof.Machine
end

section
/-! PROOFS. Sectors of a copy engine (O40). -/

namespace Sys2Proof.Machine

/-! Bytes and poison. -/

@[simp] theorem Mem.length_readBytes (m : Mem) (k n : Nat) : (m.readBytes k n).length = n := by
  induction n generalizing k with
  | zero => rfl
  | succ n ih => simp [Mem.readBytes, ih]

/-- A list of bytes laid over memory reads back as the list. -/
theorem Mem.readBytes_overlay_list (m : Mem) (k n : Nat) (l : List Byte) (hn : l.length = n) :
    (m.overlay k (l.map some)).readBytes k n = l := by
  subst hn
  refine List.ext_getElem (Mem.length_readBytes _ _ _) fun i hi hl => ?_
  rw [← List.getD_eq_getElem _ 0#8 hi, Mem.getD_readBytes _ _ _ _ hl, Mem.byte_overlay_list _ _ _ _ hl, List.getD_eq_getElem _ 0#8 hl]

/-- Where no word is poisoned, none is poisoned in part. -/
theorem State.partPoison_of_anyPoison (s : State) (k n : Nat) (h : s.anyPoison k n = false) : s.partPoison k n = false := by
  rw [State.anyPoison, List.any_eq_false] at h
  rw [State.partPoison, List.any_eq_false]
  intro w hw hpart
  exact h w hw (by simp only [Bool.and_eq_true] at hpart ⊢; exact hpart.1)

/-- A write of bytes of which none is poisoned clears no poison (R246). -/
theorem State.unpoison_clean (s : State) (key : Nat) (bytes : List (Option Byte)) (h : s.anyPoison key bytes.length = false) :
    s.unpoison key bytes = s := by
  rw [State.anyPoison, List.any_eq_false] at h
  have hall : s.home.poison.filter (fun w => !((List.range 8).all (fun i => covers key bytes (8 * w + i)))) = s.home.poison := by
    refine List.filter_eq_self.mpr fun w hw => ?_
    rw [Bool.not_eq_true', Bool.eq_false_iff]
    intro hcov
    have h0 := List.all_eq_true.mp hcov 0 (by decide)
    simp only [covers, Nat.add_zero, Bool.and_eq_true, decide_eq_true_eq] at h0
    have hlt : 8 * w - key < bytes.length := by
      by_contra hout
      rw [List.getD_eq_default _ _ (Nat.not_lt.mp hout)] at h0
      exact absurd h0.2 (by decide)
    exact h w hw (by simp only [Bool.and_eq_true, decide_eq_true_eq]; omega)
  rw [State.unpoison, hall]

/-- With no watcher to wake, the watch table stays as it is. -/
theorem State.wakeWatch_unwatched (s : State) (core off n : Nat) (h : (s.coreAt core).watches = []) :
    s.wakeWatch core off n = s.updCore core (fun c => { c with watches := [] }) := by
  simp only [State.wakeWatch, h, List.filter_nil, List.foldl_nil, State.updCore]

/-- A write into a scratchpad of bytes that none watches and of which none is poisoned changes those bytes alone (R114). -/
theorem State.padWrite_clean (s : State) (core off : Nat) (bytes : List (Option Byte)) (hclean : s.anyPoison (kPad core off) bytes.length = false)
    (hwatch : (s.coreAt core).watches = []) :
    s.padWrite core off bytes = (s.setMem (s.mem.overlay (kPad core off) bytes)).updCore core (fun c => { c with watches := [] }) := by
  rw [State.padWrite, State.unpoison_clean (s.setMem (s.mem.overlay (kPad core off) bytes)) _ _ hclean]
  exact State.wakeWatch_unwatched _ _ _ _ hwatch

theorem State.coreAt_updCore_watches (s : State) (core k : Nat) (h : (s.coreAt core).watches = []) :
    (s.updCore core (fun c => { c with watches := [] })).coreAt k = s.coreAt k := by
  rw [State.coreAt_updCore]
  split
  · next hk => rw [hk, ← h]
  · rfl

/-! Command fields (R199). -/

theorem cmdField_eq_rawField (raw : BitVec 512) (i k : Nat) : cmdField raw i k = rawField raw i k := by
  rw [cmdField, rawField, BitVec.toNat_ushiftRight, Nat.shiftRight_eq_div_pow]

/-- A command of OP 1 with CW and RES clear that copies one sector of `len` bytes and holds no seal. -/
def Cmd.Single (c : Cmd) (len : Nat) : Prop :=
  c.op = 1 ∧ c.cw = false ∧ c.res = false ∧ c.size = 256 ∧ c.stop = 1 ∧ c.sectorLen 0 = len ∧ c.refs = []

theorem Cmd.single_of_raw (c : Cmd) (hop : c.raw.extractLsb' 0 8 = 1#8) (hcw : rawField c.raw 1 1 % 2 = 0) (hres : rawRes c.raw = false)
    (hssz : rawField c.raw 4 1 = 0) (hnsec : rawField c.raw 36 4 = 0) (hpos : 0 < rawField c.raw 24 8) (hlen : rawField c.raw 24 8 ≤ 128)
    (hrefs : c.refs = []) : c.Single (rawField c.raw 24 8) := by
  have hsize : c.size = 256 := by simp only [Cmd.size, Cmd.ssz, cmdField_eq_rawField, hssz]; rfl
  have hbit : (rawField c.raw 1 1).testBit 2 = c.raw.getLsbD 10 := by
    rw [rawField, Nat.testBit_mod_two_pow, BitVec.testBit_toNat, BitVec.getLsbD_ushiftRight]; rfl
  refine ⟨?_, ?_, ?_, hsize, ?_, ?_, hrefs⟩
  · have hop := congrArg BitVec.toNat hop
    rw [BitVec.extractLsb'_toNat, Nat.shiftRight_zero] at hop
    rw [Cmd.op, cmdField, Nat.mul_zero, pow_zero, Nat.div_one]
    exact hop
  · rw [Cmd.cw, Cmd.flg, cmdField_eq_rawField, natBit, Nat.testBit_zero]; simp [hcw]
  · rw [Cmd.res, Cmd.flg, cmdField_eq_rawField, natBit, hbit]; exact hres
  · simp only [Cmd.stop, Cmd.nsec, Cmd.total, hsize, Cmd.len, cmdField_eq_rawField, hnsec, if_true]; omega
  · simp only [Cmd.sectorLen, hsize, Cmd.len, cmdField_eq_rawField]; omega

theorem Cmd.bar_eq (c : Cmd) : c.bar = c.raw.getLsbD 9 := by
  rw [Cmd.bar, Cmd.flg, cmdField_eq_rawField, natBit, rawField, Nat.testBit_mod_two_pow, BitVec.testBit_toNat, BitVec.getLsbD_ushiftRight]; rfl

/-! The engine's own state. -/

theorem State.engAt_setEng (s : State) (e : Nat) (x : Engine) : (s.setEng e x).engAt e = x := by
  simp only [State.engAt, State.setEng]
  split
  · rw [State.clusterAt_updCluster, if_pos rfl]
  · exact Tbl.get_set_self _ _ _ _

/-- The on-chip messages hold nothing of an engine's own state. -/
@[simp] theorem State.engAt_net (s : State) (e : Nat) (n : Net) : ({ s with net := n } : State).engAt e = s.engAt e := rfl

/-- An engine's own state is no other part of the module. -/
theorem State.setEng_keeps (s : State) (e : Nat) (x : Engine) : (s.setEng e x).time = s.time ∧ (s.setEng e x).mem = s.mem ∧
    (s.setEng e x).home = s.home ∧ (s.setEng e x).tabs = s.tabs ∧ (s.setEng e x).net = s.net ∧ (s.setEng e x).cores = s.cores := by
  unfold State.setEng
  split <;> exact ⟨rfl, rfl, rfl, rfl, rfl, rfl⟩

/-- An engine with nothing to do stands. -/
theorem State.moveEng_idle (s : State) (e : Nat) (hcur : (s.engAt e).cur = none) (hshd : (s.engAt e).shd = none) (hheld : (s.engAt e).held = []) :
    s.moveEng e = s := by
  have hstart : s.startEng e = s := by simp [State.startEng, State.startCmds, hcur, hshd]
  rw [State.moveEng, hstart, State.portRetry, hheld]
  rfl

/-- An engine that holds no command but its current one, and no push at its port. -/
def Engine.Alone (x : Engine) : Prop := x.shd = none ∧ x.queue = [] ∧ x.held = []

/-- The engine's command has left; nothing else has changed but what waited for answers to it. -/
def CmdLeaves (e : Nat) (s t : State) : Prop :=
  t.engAt e = { s.engAt e with cur := none } ∧ t.time = s.time ∧ t.mem = s.mem ∧ t.home = s.home ∧ t.tabs = s.tabs ∧ t.cores = s.cores ∧
    t.net.reports = s.net.reports

/-- A command without seals ends, and its engine stands. -/
theorem State.endCmd_leaves (s : State) (e : Nat) (c : Cmd) (hrefs : c.refs = []) (halone : (s.engAt e).Alone) :
    CmdLeaves e s ((s.endCmd e c).moveEng e) := by
  obtain ⟨hshd, hqueue, hheld⟩ := halone
  let u : State := { s with net := { s.net with outs := s.net.outs.filter (fun o => !o.askOf (10000 + e)) } }
  have hadvance : ({ s.engAt e with cur := none } : Engine).advance = { s.engAt e with cur := none } := by
    simp [Engine.advance, hqueue, hshd]
  have hend : s.endCmd e c = u.setEng e { s.engAt e with cur := none } := by
    rw [← hadvance, State.endCmd, hrefs]
    rfl
  have heng : (u.setEng e { s.engAt e with cur := none }).engAt e = { s.engAt e with cur := none } := u.engAt_setEng e _
  obtain ⟨htime, hmem, hhome, htabs, hnet, hcores⟩ := u.setEng_keeps e { s.engAt e with cur := none }
  rw [hend, State.moveEng_idle _ _ (by rw [heng]) (by rw [heng, hshd]) (by rw [heng, hheld])]
  exact ⟨heng, htime, hmem, hhome, htabs, hcores, (congrArg Net.reports hnet).trans rfl⟩

/-- The end of a command that posts neither a completion word nor a result (R199). -/
theorem State.finishCmd_single (s : State) (e len : Nat) (c : Cmd) (h : c.Single len) : s.finishCmd e c = s.endCmd e c := by
  obtain ⟨-, hcw, hres, -⟩ := h
  simp only [State.finishCmd, hcw, Bool.false_eq_true, if_false, State.postResult, hres]

/-! The last sector's end (R199). -/

/-- The report of a command's bytes, if it names a barrier (R199, R235). -/
def State.sectorReport (s : State) (e len : Nat) (c : Cmd) : List BarUpd :=
  match c.core with
  | some m => if c.raw.getLsbD 9 then [⟨m, rawField c.raw 2 1, none, len, (s.engAt e).ewm, 10000 + e, s.agentInc (10000 + e)⟩] else []
  | none => []

/-- The bytes of a command's one sector are performed: they are reported, and the command leaves. -/
theorem State.sectorDone_single (s : State) (e len : Nat) (c : Cmd) (h : c.Single len) (hsector : c.sector = 0) (halone : (s.engAt e).Alone) :
    CmdLeaves e { s with net := { s.net with reports := s.net.reports ++ s.sectorReport e len c } } (s.sectorDone e c) := by
  let u : State := { s with net := { s.net with reports := s.net.reports ++ s.sectorReport e len c } }
  let d : Cmd := { c with sector := 1, done := c.done + 1, start := 1 }
  let v : State := u.setEng e { s.engAt e with cur := some d }
  have hfinish := State.finishCmd_single v e len d h
  have hrefs : d.refs = [] := h.2.2.2.2.2.2
  have hdone : s.sectorDone e c = (v.endCmd e d).moveEng e := by
    obtain ⟨hop, -, -, -, hstop, hlen, -⟩ := h
    have hd : d.stop ≤ 0 + 1 := hstop.le
    rw [← hfinish, State.sectorDone, hop, hsector, hlen, if_neg (show ¬ (1 = 2) by decide), if_pos hd]
    simp only [v, u, d, State.sectorReport, Cmd.bar_eq, Cmd.barn, cmdField_eq_rawField]
    cases c.core <;> cases c.raw.getLsbD 9 <;> simp
  have hv : v.engAt e = { s.engAt e with cur := some d } := u.engAt_setEng e _
  obtain ⟨htime, hmem, hhome, htabs, hnet, hcores⟩ := u.setEng_keeps e { s.engAt e with cur := some d }
  obtain ⟨heng', htime', hmem', hhome', htabs', hcores', hreports'⟩ := v.endCmd_leaves e d hrefs (by rw [hv]; exact halone)
  rw [hdone]
  rw [hv] at heng'
  exact ⟨heng', htime'.trans htime, hmem'.trans hmem, hhome'.trans hhome, htabs'.trans htabs, hcores'.trans hcores,
    hreports'.trans (congrArg Net.reports hnet)⟩

/-! Copying between scratchpads (R86, R89, R199). -/

/-- A package-map address of a scratchpad byte names that byte, for every agent (R88). -/
theorem State.region_padAddr (s : State) (own : Option Nat) (p o : Nat) (hp : p < 5120) (ho : o < 0x40000) :
    s.region own (BitVec.ofNat 64 (padAddr p o)) = .pad p o := by
  have hlt : padAddr p o < 0x21050000000 := by unfold padAddr; omega
  have hnat : (BitVec.ofNat 64 (padAddr p o)).toNat = padAddr p o := by rw [BitVec.toNat_ofNat, Nat.mod_eq_of_lt (by omega)]
  have hcore : (padAddr p o - 0x21000000000) / 0x40000 = p := by unfold padAddr; omega
  have hoff : (padAddr p o - 0x21000000000) % 0x40000 = o := by unfold padAddr; omega
  have hlow : 0x21000000000 ≤ padAddr p o := by unfold padAddr; omega
  rw [State.region_local _ _ _ (by rw [hnat]; omega), hnat, localRegion.eq_def, if_neg (by omega), if_neg (by omega), if_pos ⟨hlow, hlt⟩, hcore, hoff]

/-- An engine may access bytes of a scratchpad of its tenant that are no register's, and to write them, no argument's and in no sealed buffer. -/
theorem State.engCheck_pad (s : State) (ten asid p o n : Nat) (k : Access) (hp : p < 5120) (ho : o < 0x40000) (hopen : s.padOpenTo ten p = true)
    (hws : s.inWs p o n = false) (hwrite : isWrite k = true → s.inArgs p o n = false ∧ s.inSeal p o n = false)
    (hpoison : s.anyPoison (kPad p o) n = false) : s.engCheck ten asid (padAddr p o) n k = .ok (s, .pad p o) := by
  have hstops : s.poisonStops (kPad p o) n k = false := by
    cases k
    case store => exact s.partPoison_of_anyPoison _ _ hpoison
    all_goals exact hpoison
  have hshut : (isWrite k && (s.inArgs p o n || s.inSeal p o n)) = false := by
    cases hk : isWrite k with
    | false => rfl
    | true => obtain ⟨hargs, hseal⟩ := hwrite hk; rw [hargs, hseal]; rfl
  simp [State.engCheck, s.region_padAddr none p o hp ho, hopen, hws, hshut, hstops]

theorem chunk_eq (a n : Nat) (h : a % 128 + n ≤ 128) : chunk a n = n := by
  unfold chunk; omega

/-- One piece within one block at both ends, from scratchpad to scratchpad. -/
theorem State.engCopy_pads (s : State) (e ten asid src off dst to_ len fuel : Nat) (hpos : len ≠ 0) (hsrc : src < 5120) (hdst : dst < 5120)
    (hoff : off % 128 + len ≤ 128) (hto : to_ % 128 + len ≤ 128) (hsin : off + len ≤ 0x40000) (hdin : to_ + len ≤ 0x40000)
    (hsopen : s.padOpenTo ten src = true) (hdopen : s.padOpenTo ten dst = true) (hsws : s.inWs src off len = false) (hdws : s.inWs dst to_ len = false)
    (hargs : s.inArgs dst to_ len = false) (hseal : s.inSeal dst to_ len = false) (hsclean : s.anyPoison (kPad src off) len = false)
    (hdclean : s.anyPoison (kPad dst to_) len = false) :
    s.engCopy e ten asid (padAddr src off) (padAddr dst to_) len (fuel + 2) =
      .ok (s.padWrite dst to_ ((s.mem.readBytes (kPad src off) len).map some)) := by
  have hread : s.engRead ten asid (padAddr src off) len = .ok (s, s.mem.readBytes (kPad src off) len) := by
    rw [State.engRead, s.engCheck_pad ten asid src off len .load hsrc (by omega) hsopen hsws (fun h => absurd h (by decide)) hsclean]
    rfl
  have hwrite : s.engWrite e ten asid (padAddr dst to_) ((s.mem.readBytes (kPad src off) len).map some) =
      .ok (s.padWrite dst to_ ((s.mem.readBytes (kPad src off) len).map some)) := by
    rw [State.engWrite, List.length_map, Mem.length_readBytes,
      s.engCheck_pad ten asid dst to_ len .store hdst (by omega) hdopen hdws (fun _ => ⟨hargs, hseal⟩) hdclean]
    rfl
  have hsblock : chunk (padAddr src off) len = len := chunk_eq _ _ (by unfold padAddr; omega)
  have hdblock : chunk (padAddr dst to_) len = len := chunk_eq _ _ (by unfold padAddr; omega)
  simp only [State.engCopy, hpos, if_false, hsblock, hdblock, Nat.min_self, hread, hwrite, bind, Except.bind, Nat.sub_self, if_true]
  rfl

/-- The engine's next sector, once copied and with nothing out at another module. -/
theorem State.sector_copied (s t : State) (e len : Nat) (c : Cmd) (h : c.Single len) (hcur : (s.engAt e).cur = some c) (hpend : c.pend = none)
    (hstart : c.start = 1) (hsector : c.sector = 0) (hcopy : s.engCopy e c.ten c.asid c.src c.dst len 128 = .ok t)
    (hasking : t.engAsking e = false) : s.sector e = (t.setEng e { t.engAt e with cur := some c }).sectorDone e c := by
  obtain ⟨hop, -, -, hsize, hstop, hlen, hrefs⟩ := h
  have hread : t.sectorRead e c = (t.setEng e { t.engAt e with cur := some c }, c) := by
    have hc : { c with refs := [] } = c := by rw [← hrefs]
    simp only [State.sectorRead, hrefs, List.filter_nil, State.dropRefs, List.foldl_nil, hc]
  have hasks : (t.setEng e { t.engAt e with cur := some c }).engAsking e = false := by
    rw [State.engAsking, (t.setEng_keeps e _).2.2.2.2.1]; exact hasking
  simp only [State.sector, hcur, hpend, hstart, hsector, hstop, hlen, hsize, State.sectorDst, hop, Nat.reduceEqDiff, if_false, Nat.reduceLeDiff,
    Nat.zero_mul, Nat.add_zero, Nat.reduceMul, Nat.reduceDiv, hcopy, hread, hasks, Bool.false_eq_true]

/-- A sector whose first byte cannot be read ends its command by a fault. -/
theorem State.sector_faults (s u : State) (e len addr kacc : Nat) (c : Cmd) (h : c.Single len) (hcur : (s.engAt e).cur = some c)
    (hpend : c.pend = none) (hstart : c.start = 1) (hsector : c.sector = 0)
    (hcopy : s.engCopy e c.ten c.asid c.src c.dst len 128 = .error (.fault u addr kacc))
    (hfree : s.engCopyFree e c.ten c.asid c.src c.dst len 128 = s) :
    exec (.sectorFault e) s = .next ((s.faultCmd e c 0 addr kacc).moveEng e) := by
  obtain ⟨hop, -, -, hsize, hstop, hlen, -⟩ := h
  have hsec : s.sector e = (s.faultCmd e c 0 addr kacc).moveEng e := by
    simp only [State.sector, hcur, hpend, hstart, hsector, hstop, hlen, hsize, State.sectorDst, hop, Nat.reduceEqDiff, if_false, Nat.reduceLeDiff,
      Nat.zero_mul, Nat.add_zero, Nat.reduceMul, Nat.reduceDiv, hcopy, hfree]
  rw [← hsec]
  show execSectorFault e s = _
  simp only [execSectorFault, hcur, hpend, Option.isSome_none, Bool.false_eq_true, hstart, hsector, hstop, hlen, hsize, State.sectorDst, hop,
    Nat.reduceEqDiff, if_false, Nat.reduceLeDiff, or_false, Nat.zero_mul, Nat.add_zero, Nat.reduceMul, Nat.reduceDiv, hcopy]

/-- A copy from an address that decodes to nothing faults before its first byte (R86, R200). -/
theorem State.engCopy_nowhere (s : State) (e ten asid src dst n fuel : Nat) (hpos : n ≠ 0) (hsrc : 2 ^ 55 ≤ src) (hlt : src < 2 ^ 64) :
    s.engCopy e ten asid src dst n (fuel + 1) = .error (.fault s src 1) ∧ s.engCopyFree e ten asid src dst n (fuel + 1) = s := by
  have hregion : s.region none (BitVec.ofNat 64 src) = .nowhere :=
    s.region_nowhere none _ (by rw [BitVec.toNat_ofNat, Nat.mod_eq_of_lt hlt]; exact hsrc)
  have hread (k : Nat) : s.engRead ten asid src k = .error (.fault s src 1) := by
    simp only [State.engRead, State.engCheck, hregion, bind, Except.bind]
    rfl
  constructor
  · simp only [State.engCopy, hpos, if_false, hread, bind, Except.bind]
  · simp only [State.engCopyFree, hpos, if_false, hread]

/-! The fault record of an engine (R205). -/

/-- Bytes 16 to 23 of a record hold its address. -/
theorem FaultRec.addr_bytes (r : FaultRec) (fseqn gtc i : Nat) (hi : i < 8) :
    (r.bytes fseqn gtc).getD (16 + i) 0#8 = BitVec.ofNat 8 (r.addr / 256 ^ i) := by
  have hsplit : r.bytes fseqn gtc = (natToBytes 8 fseqn ++ natToBytes 2 r.cause ++ natToBytes 2 r.srck ++ natToBytes 4 r.unit) ++
      (natToBytes 8 r.addr ++ (natToBytes 1 r.kacc ++ natToBytes 3 0 ++ natToBytes 4 r.fsec ++ natToBytes 8 r.tag ++ natToBytes 8 r.jseq ++
        natToBytes 4 r.lcore ++ natToBytes 4 0 ++ natToBytes 8 gtc)) := by simp only [FaultRec.bytes, List.append_assoc]
  have hleft : (natToBytes 8 fseqn ++ natToBytes 2 r.cause ++ natToBytes 2 r.srck ++ natToBytes 4 r.unit).length = 16 := by simp
  rw [hsplit, List.getD_append_right _ _ _ _ (by omega), hleft, Nat.add_sub_cancel_left, List.getD_append _ _ _ _ (by simpa using hi),
    natToBytes_getD _ _ _ hi]

/-- A record reads back by its bytes, which its command copy leaves alone. -/
theorem State.byte_putRecord (s : State) (ten i j : Nat) (r : FaultRec) (fseqn gtc : Nat) (cmd : BitVec 512) (hj : j < 64) :
    (s.putRecord ten i (r.raw fseqn gtc) cmd).mem.byte (kCtrl (fqOff ten + 64 * (i % 1024)) + j) = (r.bytes fseqn gtc).getD j 0#8 := by
  have hi : i % 1024 < 1024 := Nat.mod_lt _ (by decide)
  simp only [State.putRecord, State.mem_setMem]
  rw [Mem.byte_write _ _ _ _ _ (by simp only [kCtrl]; omega), Mem.byte_write_in _ _ _ _ _ hj, FaultRec.toNat_raw, bytesToNat_byte]

/-- The address that a fault record shows (R205). -/
theorem State.addr_putRecord (s : State) (ten i : Nat) (r : FaultRec) (fseqn gtc : Nat) (cmd : BitVec 512) :
    (s.putRecord ten i (r.raw fseqn gtc) cmd).mem.read (kCtrl (fqOff ten + 64 * (i % 1024)) + 16) 8 = r.addr % 256 ^ 8 :=
  Mem.read_of_bytes _ _ _ _ fun j hj => by
    rw [Nat.add_assoc, s.byte_putRecord ten i (16 + j) r fseqn gtc cmd (by omega), r.addr_bytes fseqn gtc j hj]

/-- A record and its command copy lie in the control region. -/
theorem State.putRecord_below (s : State) (ten i : Nat) (r cmd : BitVec 512) (a : Nat) (h : a < space 5) :
    (s.putRecord ten i r cmd).mem.byte a = s.mem.byte a := by
  simp only [State.putRecord, State.mem_setMem]
  rw [Mem.byte_write _ _ _ _ _ (Or.inl (by simp only [kCtrl]; omega)), Mem.byte_write _ _ _ _ _ (Or.inl (by simp only [kCtrl]; omega))]

/-- A fault record that finds room, in the tenant's queue and in memory, and what it leaves alone (R205). -/
theorem State.faultRecord_room (s : State) (ten : Nat) (r : FaultRec) (cmd : BitVec 512) (h : (s.fq ten).next - (s.fq ten).head < 1024) :
    (let t := (s.faultRecord ten r cmd).1
     t.cores = s.cores ∧ (∀ e, t.engAt e = s.engAt e) ∧ (t.fq ten).next = (s.fq ten).next + 1 ∧ (∀ a, a < space 5 → t.mem.byte a = s.mem.byte a) ∧
       t.mem.read (kCtrl (fqOff ten + 64 * ((s.fq ten).next % 1024)) + 8) 2 = r.cause % 65536 ∧
       t.mem.read (kCtrl (fqOff ten + 64 * ((s.fq ten).next % 1024)) + 16) 8 = r.addr % 256 ^ 8) := by
  have hroom := putFault_room (s.updLaunch r.jseq (fun l => { l with nfault := l.nfault + 1 })) ten r cmd h
  have hkey (k : Nat) : kCtrl (k + 8) = kCtrl k + 8 := by simp only [kCtrl, Nat.add_assoc]
  refine ⟨?_, ?_, ?_, ?_, ?_, ?_⟩ <;> rw [State.faultRecord, hroom]
  · simp
  · intro e
    simp [State.engAt, State.clusterAt]
  · simp [State.fq, State.setFq]
  · intro a ha
    rw [State.mem_setFq, State.putRecord_below _ _ _ _ _ _ ha, State.mem_updLaunch]
  · rw [State.mem_setFq, ← hkey]
    exact State.cause_putRecord _ _ _ _ _ _ _
  · rw [State.mem_setFq]
    exact State.addr_putRecord _ _ _ _ _ _ _

/-! The two outcomes. -/

theorem rawField_lt (raw : BitVec 512) (i k : Nat) : rawField raw i k < 2 ^ (8 * k) := Nat.mod_lt _ (Nat.two_pow_pos _)

/-- An engine's incarnation stands in the table of incarnations (R182). -/
theorem State.agentInc_engine (s : State) (e : Nat) : s.agentInc (10000 + e) = Tbl.get 0#16 s.tabs.incs (10000 + e) :=
  if_neg (by omega)

/-- The copy of one sector between scratchpads (R86, R199). -/
theorem State.sectorComplete_single (s : State) (e src off dst to_ len : Nat) (c : Cmd) (h : c.Single len) (hcur : (s.engAt e).cur = some c)
    (hpend : c.pend = none) (hstart : c.start = 1) (hsector : c.sector = 0) (halone : (s.engAt e).Alone) (hasking : s.engAsking e = false)
    (hwatch : (s.coreAt dst).watches = []) (hdclean : s.anyPoison (kPad dst to_) len = false)
    (hcopy : s.engCopy e c.ten c.asid c.src c.dst len 128 = .ok (s.padWrite dst to_ ((s.mem.readBytes (kPad src off) len).map some))) :
    ∃ t, exec (.sectorComplete e) s = .next t ∧ t.engAt e = { s.engAt e with cur := none } ∧ t.time = s.time ∧ t.home = s.home ∧ t.tabs = s.tabs ∧
      (∀ k, t.coreAt k = s.coreAt k) ∧ t.mem.readBytes (kPad dst to_) len = s.mem.readBytes (kPad src off) len ∧
      (∀ a, (a < kPad dst to_ ∨ kPad dst to_ + len ≤ a) → t.mem.byte a = s.mem.byte a) ∧
      t.net.reports = s.net.reports ++ s.sectorReport e len c := by
  have hbytes : ((s.mem.readBytes (kPad src off) len).map some).length = len := by rw [List.length_map, Mem.length_readBytes]
  rw [s.padWrite_clean dst to_ _ (by rw [hbytes]; exact hdclean) hwatch] at hcopy
  let m : Mem := s.mem.overlay (kPad dst to_) ((s.mem.readBytes (kPad src off) len).map some)
  let u : State := (s.setMem m).updCore dst (fun k => { k with watches := [] })
  let v : State := u.setEng e { u.engAt e with cur := some c }
  have hu : u.engAt e = s.engAt e := rfl
  have hx : ({ u.engAt e with cur := some c } : Engine) = s.engAt e := by rw [hu, ← hcur]
  have hv : v.engAt e = s.engAt e := (u.engAt_setEng e _).trans hx
  obtain ⟨htime, hmem, hhome, htabs, hnet, hcores⟩ := u.setEng_keeps e { u.engAt e with cur := some c }
  obtain ⟨heng, htime', hmem', hhome', htabs', hcores', hreports⟩ := v.sectorDone_single e len c h hsector (by rw [hv]; exact halone)
  have hreport : v.sectorReport e len c = s.sectorReport e len c := by
    simp only [State.sectorReport, State.agentInc_engine, hv, v, htabs, u, State.tabs_updCore, State.tabs_setMem]
  have hm := hmem'.trans hmem
  refine ⟨v.sectorDone e c, congrArg _ (s.sector_copied u e len c h hcur hpend hstart hsector hcopy hasking), heng.trans (by rw [State.engAt_net, hv]),
    htime'.trans htime, hhome'.trans hhome, htabs'.trans htabs, fun k => ?_, ?_, fun a ha => ?_, ?_⟩
  · rw [State.coreAt, hcores'.trans hcores]
    exact (s.setMem m).coreAt_updCore_watches dst k hwatch
  · rw [hm]
    exact Mem.readBytes_overlay_list _ _ _ _ (Mem.length_readBytes _ _ _)
  · rw [hm]
    exact Mem.byte_overlay_ne _ _ _ _ (by rw [hbytes]; exact ha)
  · rw [hreports, hreport]
    exact congrArg (· ++ _) (congrArg Net.reports hnet)

/-- A source that decodes to nothing ends the command by a fault, which its record shows (R86, R200, R205). -/
theorem State.sectorFault_single (s : State) (e len : Nat) (c : Cmd) (h : c.Single len) (hcur : (s.engAt e).cur = some c)
    (hpend : c.pend = none) (hstart : c.start = 1) (hsector : c.sector = 0) (halone : (s.engAt e).Alone) (hpos : len ≠ 0) (hsrc : 2 ^ 55 ≤ c.src)
    (hlt : c.src < 2 ^ 64) (hroom : (s.fq c.ten).next - (s.fq c.ten).head < 1024) :
    ∃ t, exec (.sectorFault e) s = .next t ∧ t.engAt e = { s.engAt e with cur := none } ∧ (∀ k, t.coreAt k = s.coreAt k) ∧
      (t.fq c.ten).next = (s.fq c.ten).next + 1 ∧ (∀ a, a < space 5 → t.mem.byte a = s.mem.byte a) ∧
      t.mem.read (kCtrl (fqOff c.ten + 64 * ((s.fq c.ten).next % 1024)) + 8) 2 = 50 ∧
      t.mem.read (kCtrl (fqOff c.ten + 64 * ((s.fq c.ten).next % 1024)) + 16) 8 = c.src := by
  obtain ⟨hcopy, hfree⟩ := s.engCopy_nowhere e c.ten c.asid c.src c.dst len 127 hpos hsrc hlt
  let r : FaultRec := ⟨50, engSrck e, engUnit e, c.src, 1, 0, c.tag, c.jseq, c.lcore⟩
  obtain ⟨hcores, heng, hnext, hbelow, hcause, haddr⟩ := s.faultRecord_room c.ten r c.raw hroom
  let u : State := (s.faultRecord c.ten r c.raw).1
  have hfault : s.faultCmd e c 0 c.src 1 = u.endCmd e c := by
    obtain ⟨-, -, hres, -⟩ := h
    simp only [State.faultCmd, if_pos hroom, State.postResult, hres, Bool.false_eq_true, if_false]
    rfl
  obtain ⟨hleft, -, hmem, -, htabs, hcores', -⟩ := u.endCmd_leaves e c h.2.2.2.2.2.2 (by rw [heng e]; exact halone)
  refine ⟨(u.endCmd e c).moveEng e, ?_, hleft.trans (by rw [heng e]), fun k => ?_, ?_, fun a ha => ?_, ?_, ?_⟩
  · rw [s.sector_faults s e len c.src 1 c h hcur hpend hstart hsector hcopy hfree, hfault]
  · rw [State.coreAt, hcores', hcores]; rfl
  · rw [State.fq, htabs]; exact hnext
  · rw [hmem]; exact hbelow a ha
  · rw [hmem]; exact hcause
  · rw [hmem, haddr]; exact Nat.mod_eq_of_lt hlt

/-- Settles O40: the one piece of the sector is read and written, or its read faults, and the command leaves its engine. -/
theorem sectorsCopyOrFault : Obligations.SectorsCopyOrFault := by
  unfold Obligations.SectorsCopyOrFault
  intro e src off dst to_ c s x hcur hpend hstart hasking hop hcw hres hsector hrefs hssz _ hnsec hpos hlen hshd hqueue hheld
  have hsingle := c.single_of_raw hop hcw hres hssz hnsec hpos hlen hrefs
  have halone : (s.engAt e).Alone := ⟨hshd, hqueue, hheld⟩
  have hsrcfield : c.src = rawField c.raw 8 8 := cmdField_eq_rawField _ _ _
  have hdstfield : c.dst = rawField c.raw 16 8 := cmdField_eq_rawField _ _ _
  constructor
  · intro len hsaddr hdaddr hsrc hdst hoff hto hsin hdin hsopen hdopen hsws hdws hargs hseal hsclean hdclean hwatch
    refine s.sectorComplete_single e src off dst to_ len c hsingle hcur hpend hstart hsector halone hasking hwatch hdclean ?_
    rw [hsrcfield, hdstfield, hsaddr, hdaddr]
    exact s.engCopy_pads e c.ten c.asid src off dst to_ len 126 hpos.ne' hsrc hdst hoff hto hsin hdin hsopen hdopen hsws hdws hargs hseal hsclean hdclean
  · intro hhigh hroom
    rw [← hsrcfield] at hhigh ⊢
    exact s.sectorFault_single e _ c hsingle hcur hpend hstart hsector halone hpos.ne' hhigh (hsrcfield ▸ rawField_lt _ _ _) hroom

end Sys2Proof.Machine
end

section
/-! PROOFS. What comes from outside the module (O54). -/

namespace Sys2Proof.Machine

/-! CXL transactions and AtomicOps (R142, R175, R356, R357). -/

@[simp] theorem State.coreAt_updCore_self (s : State) (n : Nat) (f : Core → Core) : (s.updCore n f).coreAt n = f (s.coreAt n) := by
  rw [State.coreAt_updCore, if_pos rfl]

/-- A read of CXL memory comes back with its bytes, or with an error (R142, R175). -/
theorem cxlRead (n key k : Nat) (good : Bool) (rest : List CxlReq) (s : State) (h : (s.coreAt n).cxl = .read key k :: rest) :
    ∃ t, exec (.cxlTransactionCompletion n good) s = .next t ∧ t.mem = s.mem ∧ t.coreAt n = { s.coreAt n with
      cxl := rest, reply := if good then (s.coreAt n).reply.more (s.mem.readBytes key k) else (s.coreAt n).reply.fail false, wait := .none } := by
  refine ⟨(s.popCxl n).updCore n (fun c =>
    { c with reply := if good then c.reply.more (s.mem.readBytes key k) else c.reply.fail false, wait := .none }), ?_, rfl, ?_⟩
  · show execCxlTransactionCompletion n good s = _
    rw [execCxlTransactionCompletion, h]
  · simp [State.popCxl, h]

/-- A posted write of CXL memory is performed (R142, R175). -/
theorem cxlWrite (n key : Nat) (bytes : List (Option Byte)) (rest : List CxlReq) (s : State) (h : (s.coreAt n).cxl = .write key bytes :: rest) :
    ∃ t, exec (.cxlTransactionCompletion n true) s = .next t ∧ t.coreAt n = { s.coreAt n with cxl := rest } ∧
      ∀ a, t.mem.byte a = (if key ≤ a ∧ a < key + bytes.length then (bytes.getD (a - key) none).getD (s.mem.byte a) else s.mem.byte a) := by
  refine ⟨(s.popCxl n).setMem (s.mem.overlay key bytes), ?_, ?_, Mem.byte_overlay _ _ _⟩
  · show execCxlTransactionCompletion n true s = _
    rw [execCxlTransactionCompletion, h]
    rfl
  · simp [State.popCxl, h]

/-- A completion finds no AtomicOp while an earlier transaction of the core stands before it (R172). -/
theorem atomicopCompletion_early (n : Nat) (r : CxlReq) (rest : List CxlReq) (status : CplStatus) (s : State) (h : (s.coreAt n).cxl = r :: rest)
    (hr : r.isAtomic = false) : exec (.atomicopCompletion n status) s = .next s := by
  show execAtomicopCompletion n status s = _
  simp [execAtomicopCompletion, Core.atomicHead, h, hr]

/-- An atomic of a core that has brought nothing to its team traps alone (R330, R357). -/
theorem State.atomicTrap_alone (s : State) (n cause key k op : Nat) (v c : Word) (rest : List CxlReq)
    (hcxl : (s.coreAt n).cxl = .atomic key k op v c :: rest) (halone : (s.coreAt n).contrib = .none) :
    s.atomicTrap n cause = (s.updCore n (fun k => { k with cxl := rest.filter (fun r => !r.isAtomic) })).takeTrapK n cause
      ((s.coreAt n).rx ((s.coreAt n).iw.extractLsb' 15 5)) 3 := by
  have hea : (s.coreAt n).atomicEa = (s.coreAt n).rx ((s.coreAt n).iw.extractLsb' 15 5) := by rw [Core.atomicEa, halone]
  have hdrop : s.updCore n (fun c => { c with cxl := c.cxl.filter (fun r => !r.isAtomic) }) =
      s.updCore n (fun k => { k with cxl := rest.filter (fun r => !r.isAtomic) }) := by
    simp only [State.updCore, hcxl]
    rfl
  have hagg : ((s.updCore n (fun k => { k with cxl := rest.filter (fun r => !r.isAtomic) })).coreAt n).hasAgg = false := by
    simp [Core.hasAgg, halone]
  simp only [State.atomicTrap, hdrop, hea, hagg, Bool.false_eq_true, if_false]

theorem State.hostPerform_cores (s : State) (r : CxlReq) : (s.hostPerform r).cores = s.cores := by
  cases r <;> rfl

theorem Mem.read_lt (m : Mem) (k n : Nat) : m.read k n < 256 ^ n := by
  induction n generalizing k with
  | zero => exact Nat.one_pos
  | succ n ih =>
    have hbyte := (m.byte k).isLt
    have hrest := ih (k + 1)
    rw [Mem.read, Nat.pow_succ]
    omega

theorem two_pow_eight_mul (k : Nat) : 2 ^ (8 * k) = 256 ^ k := Nat.pow_mul 2 8 k

/-- What a completer computes fits the operation's bytes (R356). -/
theorem atomicOpValue_lt (op k old : Nat) (v c : Word) (hold : old < 2 ^ (8 * k)) : atomicOpValue op k v c old < 2 ^ (8 * k) := by
  have hmod (x : Nat) : x % 2 ^ (8 * k) < 2 ^ (8 * k) := Nat.mod_lt _ (Nat.two_pow_pos _)
  unfold atomicOpValue
  split
  · exact hmod _
  · split
    · exact hmod _
    · split
      · exact hmod _
      · exact hold

/-- An AtomicOp that its completer performs (R356, R357). -/
theorem atomicopCompletion_ok (n key k op : Nat) (v c : Word) (rest : List CxlReq) (s : State) (h : (s.coreAt n).cxl = .atomic key k op v c :: rest) :
    ∃ t, exec (.atomicopCompletion n .ok) s = .next t ∧
      t.coreAt n = { s.coreAt n with cxl := rest, reply := .value (s.mem.readBytes key k), wait := .none } ∧
      t.mem.read key k = atomicOpValue op k v c (s.mem.read key k) := by
  let r : CxlReq := .atomic key k op v c
  refine ⟨(s.hostPerform r).updCore n (fun c => { c with cxl := c.cxl.tail, reply := .value (s.hostOld r), wait := .none }), ?_, ?_, ?_⟩
  · show execAtomicopCompletion n .ok s = _
    rw [execAtomicopCompletion, Core.atomicHead, h]
    rfl
  · have hcore : (s.hostPerform r).coreAt n = s.coreAt n := rfl
    rw [State.coreAt_updCore_self, hcore, h]
    rfl
  · show (s.mem.write key k (atomicOpValue op k v c (s.mem.read key k))).read key k = _
    rw [Mem.read_write]
    exact Nat.mod_eq_of_lt (two_pow_eight_mul k ▸ atomicOpValue_lt op k _ v c (two_pow_eight_mul k ▸ Mem.read_lt _ _ _))

/-- An AtomicOp that ends in an error traps its core (R357). -/
theorem atomicopCompletion_bad (n key k op : Nat) (v c : Word) (rest : List CxlReq) (s : State) (h : (s.coreAt n).cxl = .atomic key k op v c :: rest) :
    exec (.atomicopCompletion n .unsupported) s = .next (s.atomicTrap n 27) ∧ exec (.atomicopCompletion n .error) s = .next (s.atomicTrap n 7) := by
  constructor
  · show execAtomicopCompletion n .unsupported s = _
    rw [execAtomicopCompletion, Core.atomicHead, h]
    rfl
  · show execAtomicopCompletion n .error s = _
    rw [execAtomicopCompletion, Core.atomicHead, h]
    rfl

/-- An AtomicOp without a completion traps its core with memory changed or not (R357). -/
theorem atomicopTimeout_due (n key k op since : Nat) (v c : Word) (rest : List CxlReq) (s : State)
    (h : (s.coreAt n).cxl = .atomic key k op v c :: rest) (hwait : (s.coreAt n).wait = .atomicOp since) (hdue : since + 900000 ≤ s.time.gtc) :
    ∃ u : State, exec (.atomicopTimeout n) s = .next (u.atomicTrap n 7) ∧ u.cores = s.cores ∧
      (u.mem = s.mem ∨ u.mem = (s.hostPerform (.atomic key k op v c)).mem) := by
  have hhead : (s.freeBit.2.coreAt n).atomicHead = some (.atomic key k op v c) := by
    show (s.coreAt n).atomicHead = _
    rw [Core.atomicHead, h]
    rfl
  have hrun : exec (.atomicopTimeout n) s =
      .next ((if s.freeBit.1 then s.freeBit.2.hostPerform (.atomic key k op v c) else s.freeBit.2).atomicTrap n 7) := by
    show execAtomicopTimeout n s = _
    simp only [execAtomicopTimeout, hwait, if_pos hdue, hhead]
  refine ⟨_, hrun, ?_, ?_⟩
  · split <;> rfl
  · split
    · exact .inr rfl
    · exact .inl rfl

/-! Requests of other modules (R87). -/

/-- A package-map address of the package scratchpad (R88, R92). -/
theorem localRegion_pkg (off : Nat) (h : off < 2 ^ 34) : localRegion none (((BitVec.ofNat 64 (0x20000000000 + off)).extractLsb' 0 42).toNat) = .pkg off := by
  have ha : ((BitVec.ofNat 64 (0x20000000000 + off)).extractLsb' 0 42).toNat = 0x20000000000 + off := by
    rw [BitVec.extractLsb'_toNat, BitVec.toNat_ofNat, Nat.shiftRight_zero]
    omega
  rw [ha, localRegion.eq_def, if_neg (by omega), if_pos (by omega), Nat.add_sub_cancel_left]

/-- The line of a package-scratchpad byte is no LPDDR line and no replica. -/
theorem lineOf_kPkg (ten off : Nat) (hten : ten < 16) (hoff : off < 2 ^ 34) :
    isLpddr (lineOf (kPkg ten off)) = false ∧ ∀ slice line, replicaLine slice line ≠ lineOf (kPkg ten off) := by
  constructor
  · exact decide_eq_false (by simp only [lineOf, kPkg, space]; omega)
  · intro slice line h
    simp only [replicaLine, lineOf, kPkg, space] at h; omega

/-- Nothing of a line conflicts with a request while no host holds anything (R137, R138). -/
theorem State.conflicts_quiet (s : State) (hdir : s.home.dir = []) (line lo hi except : Nat) : s.conflicts line lo hi except = [] := by
  have hnone : s.dirFind line = none := by rw [State.dirFind, hdir]; rfl
  have hneed (need : Nat) : needConflicts need 0 = false := by simp [needConflicts]
  simp [State.conflicts, State.hostHold, hnone, hneed]

theorem State.dirTouch_quiet (s : State) (hdir : s.home.dir = []) (line : Nat) : s.dirTouch line = s := by
  rw [State.dirTouch, State.dirFind, hdir]; rfl

theorem State.hostClear_quiet (s : State) (hdir : s.home.dir = []) (line lo hi : Nat) : s.hostClear line lo hi = .ok s := by
  simp only [State.hostClear, s.dirTouch_quiet hdir, s.conflicts_quiet hdir]

@[simp] theorem State.llcFind_llcPut (s : State) (l : LlcLine) : (s.llcPut l).llcFind l.line = some l := by
  simp [State.llcFind, State.llcPut]

theorem State.recallOwner_unowned (s : State) (l : LlcLine) (hov : l.ov = false) (h : s.llcFind l.line = some l) : s.recallOwner l.line = s := by
  simp [State.recallOwner, h, hov]

/-- The record of a line of the package scratchpad once it is resident: its own as it stood, or a new one (R92, R116). -/
def State.pkgRecord (s : State) (line : Nat) : LlcLine := (s.llcFind line).getD ⟨line, 32, false, s.watched line, false, 0, 0, 0⟩

theorem State.pkgRecord_line (s : State) (line : Nat) : (s.pkgRecord line).line = line := by
  unfold State.pkgRecord
  cases hfind : s.llcFind line with
  | none => rfl
  | some l => exact of_decide_eq_true (List.find?_some (p := fun m : LlcLine => decide (m.line = line)) hfind)

theorem State.pkgRecord_ov (s : State) (h : HomesQuiet s) (line : Nat) : (s.pkgRecord line).ov = false := by
  unfold State.pkgRecord
  cases hfind : s.llcFind line with
  | none => rfl
  | some l => exact h.2 l (List.mem_of_find?_eq_some hfind)

theorem State.resident_pkg (s : State) (line : Nat) (hpkg : isLpddr line = false) :
    s.resident line = .ok (s.llcPut (s.pkgRecord line), s.pkgRecord line) := by
  unfold State.resident State.pkgRecord
  cases hfind : s.llcFind line with
  | none => simp [hpkg]; rfl
  | some l => rfl

/-- A read at the home of a quiet line of the package scratchpad (R116, R124). -/
theorem State.homeRead_pkg (s : State) (key n : Nat) (h : HomesQuiet s) (hpkg : isLpddr (lineOf key) = false) :
    s.homeRead key n = .ok (s.llcPut (s.pkgRecord (lineOf key)), s.mem.read key n) := by
  have hrecall : (s.llcPut (s.pkgRecord (lineOf key))).recallOwner (lineOf key) = s.llcPut (s.pkgRecord (lineOf key)) := by
    have hput := State.recallOwner_unowned (s.llcPut (s.pkgRecord (lineOf key))) (s.pkgRecord (lineOf key)) (s.pkgRecord_ov h _) (s.llcFind_llcPut _)
    rwa [s.pkgRecord_line] at hput
  simp only [State.homeRead, s.hostClear_quiet h.1, s.resident_pkg _ hpkg, bind, Except.bind, hrecall]
  rfl

/-- A line read at its home stands in front, a resident one as it stood. -/
theorem State.readAtHome_llcPut (s : State) (line : Nat) : ReadAtHome s (s.llcPut (s.pkgRecord line)) line := by
  refine ⟨rfl, rfl, ⟨s.pkgRecord line, rfl, s.pkgRecord_line line⟩, fun l hl => ?_⟩
  have hfind := s.llcFind_llcPut (s.pkgRecord line)
  rw [s.pkgRecord_line] at hfind
  rw [hfind, State.pkgRecord, hl, Option.getD_some]

/-- The record of a line among kept and changed records, where the line's own is kept and every one keeps its line. -/
theorem find?_line_map_filter (ls : List LlcLine) (q : LlcLine → Bool) (f : LlcLine → LlcLine) (line : Nat) (hf : ∀ a, (f a).line = a.line)
    (hq : ∀ a, a.line = line → q a = true) :
    ((ls.filter q).map f).find? (fun a => decide (a.line = line)) = (ls.find? (fun a => decide (a.line = line))).map f := by
  rw [List.find?_map, List.find?_filter]
  congr 2
  funext a
  by_cases ha : a.line = line
  · simp [hf, ha, hq a ha]
  · simp [hf, ha]

/-- Dropping the replicas of a line changes no more than MIR in its record (R119, R144). -/
theorem State.llcFind_dropReplicas (s : State) (line : Nat) (l : LlcLine) (hfind : s.llcFind line = some l)
    (hrep : ∀ slice k, replicaLine slice k ≠ line) : ∃ m, (s.dropReplicas line).llcFind line = some { l with mir := m } := by
  rw [State.dropReplicas, State.dropReplicasIf]
  split
  · exact ⟨l.mir, hfind⟩
  · rw [State.llcFind, find?_line_map_filter _ _ _ _ (fun a => by split <;> rfl), ← State.llcFind, hfind, Option.map_some]
    · split
      · exact ⟨false, rfl⟩
      · exact ⟨l.mir, rfl⟩
    · intro a ha
      simp [ha, fun r : Replica => (hrep r.slice r.line).symm]

/-- A write at the home of a quiet resident line of the package scratchpad, below the ceiling (R124). -/
theorem State.homeWrite_pkg (s : State) (key : Nat) (bytes : List (Option Byte)) (l : LlcLine) (hdir : s.home.dir = [])
    (hline : l.line = lineOf key) (hfind : s.llcFind (lineOf key) = some l) (hov : l.ov = false) (hceil : l.rts + 1 ≤ s.ceil)
    (hrep : ∀ slice k, replicaLine slice k ≠ lineOf key) :
    ∃ t w, s.homeWrite key bytes 0 4 = .ok (t, w) ∧ t.mem = s.mem.overlay key bytes ∧ t.net = s.net := by
  have hres : s.resident (lineOf key) = .ok (s.llcPut l, l) := by rw [State.resident, hfind]; rfl
  have hput : (s.llcPut l).llcFind (lineOf key) = some l := by rw [← hline, State.llcFind_llcPut]
  have hrecall : (s.llcPut l).recallOwner (lineOf key) = s.llcPut l := by rw [← hline]; exact State.recallOwner_unowned _ _ hov (State.llcFind_llcPut _ _)
  obtain ⟨m, hdrop⟩ := (s.llcPut l).llcFind_dropReplicas (lineOf key) l hput hrep
  have hkeep : ((s.llcPut l).dropReplicas (lineOf key)).ceil = s.ceil ∧ ((s.llcPut l).dropReplicas (lineOf key)).mem = s.mem ∧
      ((s.llcPut l).dropReplicas (lineOf key)).net = s.net := by
    rw [State.dropReplicas, State.dropReplicasIf]
    split <;> exact ⟨rfl, rfl, rfl⟩
  obtain ⟨hceil', hmem, hnet⟩ := hkeep
  have hnote (t : State) (line : Nat) : (t.noteWrite line).mem = t.mem ∧ (t.noteWrite line).net = t.net := by
    rw [State.noteWrite]
    split <;> exact ⟨rfl, rfl⟩
  simp only [State.homeWrite, s.dirTouch_quiet hdir, s.conflicts_quiet hdir, hres, bind, Except.bind, hrecall, hdrop]
  rw [if_neg (by rw [hceil']; omega)]
  obtain ⟨hmem', hnet'⟩ := hnote ((((((s.llcPut l).dropReplicas (lineOf key)).llcPut
    { l with mir := m, wts := max (l.rts + 1) 0, rts := max (l.rts + 1) 0 }).setMem (((s.llcPut l).dropReplicas (lineOf key)).mem.overlay key bytes)).unpoison
      key bytes)) (lineOf key)
  exact ⟨_, _, rfl, hmem'.trans (congrArg (fun k : Mem => k.overlay key bytes) hmem), hnet'.trans hnet⟩

/-- Bytes of a tenant's package scratchpad have a home slice (R92). -/
theorem State.atHome_kPkg (s : State) (ten off n : Nat) (hten : ten < 16) (hoff : off < 2 ^ 34) (hroom : off + n ≤ s.pkgBytes ten) :
    s.atHome (kPkg ten off) n = true := by
  have hmod : kPkg ten off % 2 ^ 56 = off := by simp only [kPkg, space]; omega
  have htenant : kPkg ten off / 2 ^ 56 - 16 = ten := by simp only [kPkg, space]; omega
  have hlow : space 16 ≤ kPkg ten off := by simp only [kPkg, space]; omega
  have hhigh : kPkg ten off < space 32 := by simp only [kPkg, space]; omega
  rw [State.atHome, hmod, htenant, decide_eq_true hlow, decide_eq_true hhigh, decide_eq_true hroom]
  exact Bool.or_true _

/-- A request of another module that reaches a key is performed there (R87). -/
theorem remoteModuleRequest_key (ten asid n key : Nat) (ea : Word) (kind : RemoteKind) (v : Word) (s : State)
    (hgood : ¬ (n = 0 ∨ 128 < ea.toNat % 128 + n ∨ (!remoteReads kind) = true ∧ 8 < n))
    (hkey : s.remoteKey ten asid ea n (remoteAccess kind) = .ok (s, some key)) :
    exec (.remoteModuleRequest ten asid ea kind n v) s = .next (absorb (s.remotePerform key n kind (amoOperand n v))) := by
  show execRemoteModuleRequest _ _ _ _ _ _ s = _
  rw [execRemoteModuleRequest, if_neg hgood, hkey]
  rfl

/-- A request of another module for bytes of a tenant's package scratchpad, within one block (R87). -/
theorem remoteModuleRequest_pkg (ten asid off n : Nat) (kind : RemoteKind) (v : Word) (s : State) (hpos : 0 < n) (hblock : off % 128 + n ≤ 128)
    (hoff : off < 2 ^ 34) (hroom : off + n ≤ s.pkgBytes ten) (hsize : remoteReads kind = true ∨ n ≤ 8) :
    exec (.remoteModuleRequest ten asid (BitVec.ofNat 64 (0x20000000000 + off)) kind n v) s =
      .next (absorb (s.remotePerform (kPkg ten off) n kind (amoOperand n v))) := by
  refine remoteModuleRequest_key _ _ _ _ _ _ _ _ ?_ ?_
  · have hea : (BitVec.ofNat 64 (0x20000000000 + off)).toNat = 0x20000000000 + off := by
      rw [BitVec.toNat_ofNat]
      omega
    rw [hea]
    rcases hsize with h | h
    · simp only [h, Bool.not_true, Bool.false_eq_true, false_and, or_false]; omega
    · omega
  · rw [State.remoteKey, localRegion_pkg off hoff]
    simp only [if_pos hroom]

/-- A read of another module, or its check for a store, of bytes that no poison stops (R87). -/
theorem State.remotePerform_reads (s : State) (key n v : Nat) (kind : RemoteKind) (hhome : s.atHome key n = true) (h : HomesQuiet s)
    (hpkg : isLpddr (lineOf key) = false) (hreads : remoteReads kind = true) (hclean : s.poisonStops key n (remoteAccess kind) = false) :
    s.remotePerform key n kind v = .ok ((s.llcPut (s.pkgRecord (lineOf key))).sendHost (.answer (natToBytes n (s.mem.read key n)) true)) := by
  simp only [State.remotePerform, hhome, if_true, hclean, Bool.false_eq_true, if_false, s.homeRead_pkg key n h hpkg, hreads, bind, Except.bind]
  rfl

theorem Mem.read_overlay_number (m : Mem) (key n v : Nat) : (m.overlay key ((natToBytes n v).map some)).read key n = v % 256 ^ n :=
  Mem.read_of_bytes _ _ _ _ fun i hi => by
    rw [Mem.byte_overlay_list _ _ _ _ (by rwa [natToBytes_length]), natToBytes_getD _ _ _ hi]

/-- A store of another module into a resident line, below the ceiling (R87, R124). -/
theorem State.remotePerform_store (s : State) (key n v : Nat) (l : LlcLine) (hhome : s.atHome key n = true) (h : HomesQuiet s)
    (hpkg : isLpddr (lineOf key) = false) (hrep : ∀ slice k, replicaLine slice k ≠ lineOf key) (hclean : s.partPoison key n = false)
    (hfind : s.llcFind (lineOf key) = some l) (hceil : l.rts + 1 ≤ s.ceil) :
    ∃ t, s.remotePerform key n .store v = .ok t ∧ t.mem.read key n = v % 256 ^ n ∧
      t.net.outs = s.net.outs ++ [.answer (natToBytes n (s.mem.read key n)) true] := by
  have hrecord : s.pkgRecord (lineOf key) = l := by rw [State.pkgRecord, hfind, Option.getD_some]
  have hline := s.pkgRecord_line (lineOf key)
  have hov := s.pkgRecord_ov h (lineOf key)
  have hread := s.homeRead_pkg key n h hpkg
  rw [hrecord] at hline hov hread
  obtain ⟨t, w, hwrite, hmem, hnet⟩ := (s.llcPut l).homeWrite_pkg key ((natToBytes n v).map some) l h.1 hline
    (by rw [← hline, State.llcFind_llcPut]) hov hceil hrep
  have hstops : s.poisonStops key n (remoteAccess .store) = false := hclean
  refine ⟨t.sendHost (.answer (natToBytes n (s.mem.read key n)) true), ?_, ?_, ?_⟩
  · simp only [State.remotePerform, hhome, if_true, hstops, Bool.false_eq_true, if_false, hread, bind, Except.bind, remoteReads, remoteValue, hwrite]
    rfl
  · show t.mem.read key n = _
    rw [hmem]
    exact Mem.read_overlay_number _ _ _ _
  · exact congrArg (fun k : Net => k.outs ++ _) hnet

/-! Replies of other modules (R87, R182, R328). -/

/-- The oldest request of an agent is answered by the live link peer. -/
theorem remoteModuleReply_live (n : Nat) (o : Out) (rest : List Out) (data : List Byte) (status : RemoteStatus) (s : State)
    (houts : s.net.outs = o :: rest) (hask : o.askOf n = true) :
    exec (.remoteModuleReply n data ⟨s.agentInc o.peer, status⟩) s =
      .next (({ s with net := { s.net with outs := rest } } : State).replyTo o data status) := by
  show execRemoteModuleReply _ _ _ s = _
  simp [execRemoteModuleReply, houts, takeFirst, hask]

/-- A reply of a dead link peer is dropped and counted (R182, R244). -/
theorem remoteModuleReply_stale (n : Nat) (o : Out) (rest : List Out) (data : List Byte) (i : BitVec 16) (status : RemoteStatus) (s : State)
    (houts : s.net.outs = o :: rest) (hask : o.askOf n = true) (hi : i ≠ s.agentInc o.peer) :
    exec (.remoteModuleReply n data ⟨i, status⟩) s = .next (s.stale o.peer i 0) := by
  show execRemoteModuleReply _ _ _ s = _
  simp [execRemoteModuleReply, houts, takeFirst, hask, hi]

/-- A journal entry changes nothing on the way between agents, no core and no error counter. -/
theorem State.journal_keeps (s : State) (kind caps detail gacc ten : Nat) : (s.journal kind caps detail gacc ten).net = s.net ∧
    (s.journal kind caps detail gacc ten).cores = s.cores ∧ (s.journal kind caps detail gacc ten).tabs.errs = s.tabs.errs := by
  refine ⟨?_, ?_, ?_⟩ <;> simp [State.journal, State.fixTail]

/-- A stale message is counted, whether the journal takes it or not (R182, R192). -/
theorem State.stale_spec (s : State) (agent : Nat) (inc : BitVec 16) (ten : Nat) :
    (s.stale agent inc ten).net = s.net ∧ (s.stale agent inc ten).cores = s.cores ∧ CountsOne s (s.stale agent inc ten) 14 := by
  have hcount : CountsOne s (s.count cSTALE 1) 14 := countsOne_count 14 rfl
  rw [State.stale]
  split
  · refine ⟨rfl, rfl, ?_⟩
    rw [CountsOne, errCounter, State.count, Tbl.get_set_ne _ _ _ _ _ (by decide)]
    exact hcount
  · obtain ⟨hnet, hcores, herrs⟩ := (s.count cSTALE 1).journal_keeps 2 0 (agent % 65536 * 65536 + inc.toNat) (s.count cSTALE 1).time.gtc ten
    refine ⟨hnet, hcores, ?_⟩
    rw [CountsOne, errCounter, herrs]
    exact hcount

/-- A load of a core is answered (R87, R175). -/
theorem loadReply (n k : Nat) (ea : Word) (rest : List Out) (data : List Byte) (status : RemoteStatus) (s : State) (hn : n < 10000)
    (houts : s.net.outs = .loadAsk n ea k :: rest) (hmir : status ≠ .mirror) :
    ∃ t, exec (.remoteModuleReply n data ⟨s.agentInc (13000 + (ea.extractLsb' 42 12).toNat), status⟩) s = .next t ∧ t.net.outs = rest ∧ t.mem = s.mem ∧
      t.coreAt n = { s.coreAt n with
        reply := if remoteGood status then (s.coreAt n).reply.more (natToBytes k (bytesToNat data))
          else (s.coreAt n).reply.fail (decide (status = .page))
        remAsked := false, wait := .none } := by
  refine ⟨_, remoteModuleReply_live n _ rest data status s houts (decide_eq_true rfl), ?_⟩
  have hanswer : ({ s with net := { s.net with outs := rest } } : State).replyTo (.loadAsk n ea k) data status =
      ({ s with net := { s.net with outs := rest } } : State).answerCore n k data status := by
    simp [State.replyTo, Nat.not_le.mpr hn, hmir]
  rw [hanswer]
  exact ⟨rfl, rfl, State.coreAt_updCore_self _ _ _⟩

/-- A store of a core is acknowledged (R87). -/
theorem storeReply (n : Nat) (ea : Word) (bytes : List (Option Byte)) (rest : List Out) (data : List Byte) (s : State) (hn : n < 10000)
    (houts : s.net.outs = .storeAsk n ea bytes :: rest) :
    ∃ t, exec (.remoteModuleReply n data ⟨s.agentInc (13000 + (ea.extractLsb' 42 12).toNat), .ok⟩) s = .next t ∧ t.net.outs = rest ∧ t.mem = s.mem ∧
      t.coreAt n = { s.coreAt n with remStores := (s.coreAt n).remStores.tail } := by
  refine ⟨_, remoteModuleReply_live n _ rest data .ok s houts (decide_eq_true rfl), ?_⟩
  have hack : ({ s with net := { s.net with outs := rest } } : State).replyTo (.storeAsk n ea bytes) data .ok =
      ({ s with net := { s.net with outs := rest } } : State).updCore n (fun c => { c with remStores := c.remStores.tail }) := if_pos hn
  rw [hack]
  exact ⟨rfl, rfl, State.coreAt_updCore_self _ _ _⟩

/-! Dead agents and links (R182, R245). -/

/-- A dead core owns nothing, at its own end and at the homes (R182). -/
theorem coreDeclaredDead (a : Nat) (s : State) (ha : a < 5120) :
    ∃ t, exec (.agentDeclaredDead a) s = .next t ∧ (t.coreAt a).inc = (s.coreAt a).inc + 1#16 ∧ t.mem = s.mem ∧ (t.coreAt a).vb = [] ∧
      (∀ l ∈ (t.coreAt a).l1, l.owned = false) ∧ ∀ l ∈ t.home.llc, l.ov = true → l.owner ≠ a := by
  have hcore : isCore a = true := decide_eq_true ha
  have hagent : a < 10000 := by omega
  have hown (c : Core) (l : L1Line) (hl : l ∈ c.l1.filter (fun a => !a.owned)) : l.owned = false := by
    simpa using (List.mem_filter.mp hl).2
  refine ⟨(s.disown a).updCore a (fun c => { c with inc := c.inc + 1#16 }), ?_, ?_, rfl, ?_, ?_, ?_⟩
  · show execAgentDeclaredDead a s = _
    rw [execAgentDeclaredDead, if_pos hagent, if_pos hcore]
  · simp [State.disown]; rfl
  · simp [State.disown]
  · rw [State.coreAt_updCore_self, State.disown, State.coreAt_updCore_self]
    exact hown _
  · intro l hl hov howner
    obtain ⟨m, -, rfl⟩ := List.mem_map.mp hl
    by_cases hm : (m.ov && decide (m.owner = a)) = true
    · rw [if_pos hm] at hov
      exact Bool.false_ne_true hov
    · rw [if_neg hm] at hov howner
      exact hm (by rw [hov, howner, decide_eq_true rfl]; rfl)

/-- The numbers of agents that are no cores (R1, R86, R136, R182). -/
theorem isAgent_iff (a : Nat) : isAgent a = true ↔
    (10000 ≤ a ∧ a < 10320) ∨ (11000 ≤ a ∧ a < 11016) ∨ (12000 ≤ a ∧ a < 12004) ∨ (13000 ≤ a ∧ a < 13000 + 2304) := by
  have hclusters : Config.clusters = 320 := rfl
  have hmodules : Config.modules = 2304 := rfl
  simp only [isAgent, isCopyEngine, hclusters, hmodules, Bool.or_eq_true, Bool.and_eq_true, decide_eq_true_eq]
  omega

/-- The incarnation number of a dead engine, host agent or link peer rises, and no core and no byte changes (R182). -/
theorem agentDeclaredDead_known (a : Nat) (s : State) (h : isAgent a = true) :
    ∃ t, exec (.agentDeclaredDead a) s = .next t ∧ t.agentInc a = s.agentInc a + 1#16 ∧ t.mem = s.mem ∧ t.cores = s.cores := by
  have ha : ¬ a < 10000 := by rw [isAgent_iff] at h; omega
  have hinc (t : State) : t.agentInc a = Tbl.get 0#16 t.tabs.incs a := if_neg ha
  let u : State := { s with tabs := { s.tabs with incs := Tbl.set 0#16 s.tabs.incs a (Tbl.get 0#16 s.tabs.incs a + 1#16) } }
  refine ⟨if 12000 ≤ a ∧ a < 12004 then u.forgetHost (a - 12000) else u, ?_, ?_⟩
  · show execAgentDeclaredDead a s = _
    rw [execAgentDeclaredDead, if_neg ha, h]
    rfl
  · rw [hinc, hinc]
    split <;> exact ⟨Tbl.get_set_self _ _ _ _, rfl, rfl⟩

/-- A number of no agent does nothing (log 46). -/
theorem agentDeclaredDead_unknown (a : Nat) (s : State) (ha : 5120 ≤ a) (h : isAgent a = false) : exec (.agentDeclaredDead a) s = .next s := by
  show execAgentDeclaredDead a s = _
  rw [execAgentDeclaredDead, h]
  split
  · rw [if_neg (by rw [isCore, decide_eq_true_eq]; exact Nat.not_lt.mpr ha)]
  · rfl

/-- A flit that fails at a live port is counted, and its sixteenth failed replay takes the port down (R245). -/
theorem linkFlitCrcFail_live (port : Nat) (replay : Bool) (s : State) (hport : port < 36) (hup : port ∉ s.tabs.linkDown) :
    (let fails := Tbl.get 0 s.tabs.linkFails port
     ∃ t, exec (.linkFlitCrcFail port replay) s = .next t ∧ CountsOne s t 6 ∧ Tbl.get 0 t.tabs.linkFails port = (if replay then fails + 1 else 0) ∧
       (replay = true ∧ 15 ≤ fails → t.tabs.linkDown = port :: s.tabs.linkDown ∧ CountsOne s t 7) ∧
       (replay = false ∨ fails < 15 → t.tabs.linkDown = s.tabs.linkDown)) := by
  intro fails
  let k : Nat := if replay then fails + 1 else 0
  let u : State := { s.count cLCRC 1 with tabs := { (s.count cLCRC 1).tabs with linkFails := Tbl.set 0 s.tabs.linkFails port k } }
  have hlive : ¬ (Config.linkPorts ≤ port ∨ s.tabs.linkDown.contains port = true) := by
    rw [List.contains_iff_mem]
    exact fun h => h.elim (Nat.not_le.mpr hport) hup
  have hrun : exec (.linkFlitCrcFail port replay) s =
      .next (if 16 ≤ k then ({ u with tabs := { u.tabs with linkDown := port :: u.tabs.linkDown } } : State).count cLDOWN 1 else u) := by
    show execLinkFlitCrcFail port replay s = _
    rw [execLinkFlitCrcFail, if_neg hlive]
    rfl
  have hflit : CountsOne s u 6 := countsOne_count 6 rfl
  refine ⟨_, hrun, ?_⟩
  split
  · next hdown =>
    refine ⟨?_, Tbl.get_set_self _ _ _ _, fun _ => ⟨rfl, ?_⟩, fun h => ?_⟩
    · rw [CountsOne, errCounter, State.count, Tbl.get_set_ne _ _ _ _ _ (by decide)]
      exact hflit
    · have hsame : errCounter u 7 = errCounter s 7 := Tbl.get_set_ne _ _ _ _ _ (by decide)
      rw [CountsOne, ← hsame]
      exact errCounter_count _ _ _
    · exfalso
      rcases h with hflit | hfew
      · simp only [k, hflit, Bool.false_eq_true, if_false] at hdown
        omega
      · have hk : k ≤ fails + 1 := by simp only [k]; split <;> omega
        omega
  · next hfew =>
    refine ⟨hflit, Tbl.get_set_self _ _ _ _, fun ⟨hreplay, hfails⟩ => ?_, fun _ => rfl⟩
    simp only [k, hreplay, if_true] at hfew
    omega

/-- Settles O54, clause by clause. -/
theorem theOutsideAnswersAndAsks : Obligations.TheOutsideAnswersAndAsks := by
  refine ⟨fun n rest s => ⟨fun key bytes h => cxlWrite n key bytes rest s h, fun key k h => cxlRead n key k true rest s h,
      fun key k h => cxlRead n key k false rest s h⟩, fun n r rest status s => atomicopCompletion_early n r rest status s, ?_, ?_, ?_, ?_, ?_⟩
  · intro n key k op v c rest s h others ea m old
    refine ⟨atomicopCompletion_ok n key k op v c rest s h, fun halone => ?_⟩
    obtain ⟨hunsupported, herror⟩ := atomicopCompletion_bad n key k op v c rest s h
    refine ⟨?_, ?_, fun since hwait hdue => ?_⟩
    · rw [hunsupported, s.atomicTrap_alone n 27 key k op v c rest h halone]
    · rw [herror, s.atomicTrap_alone n 7 key k op v c rest h halone]
    · obtain ⟨u, hrun, hcores, hmem⟩ := atomicopTimeout_due n key k op since v c rest s h hwait hdue
      have hcore : u.coreAt n = s.coreAt n := by rw [State.coreAt, hcores]; rfl
      refine ⟨u, ?_, hcores, hmem⟩
      rw [hrun, u.atomicTrap_alone n 7 key k op v c rest (by rw [hcore, h]) (by rw [hcore, halone]), hcore]
  · intro ten asid off n v s hten hpos hblock hoff hroom hquiet ea old
    have hhome := s.atHome_kPkg ten off n hten hoff hroom
    obtain ⟨hpkg, hrep⟩ := lineOf_kPkg ten off hten hoff
    have hreads (kind : RemoteKind) (hkind : remoteReads kind = true) (hclean : s.poisonStops (kPkg ten off) n (remoteAccess kind) = false) :
        ∃ t, exec (.remoteModuleRequest ten asid ea kind n v) s = .next t ∧
          ReadAtHome s t (lineOf (kPkg ten off)) ∧ t.net.outs = s.net.outs ++ [.answer (natToBytes n old) true] := by
      refine ⟨_, remoteModuleRequest_pkg ten asid off n kind v s hpos hblock hoff hroom (.inl hkind), ?_⟩
      rw [s.remotePerform_reads _ _ _ kind hhome hquiet hpkg hkind hclean]
      exact ⟨s.readAtHome_llcPut _, rfl⟩
    refine ⟨⟨_, rfl, rfl⟩, hreads .load rfl, hreads .check rfl, fun l hsize hclean hfind hceil => ?_⟩
    obtain ⟨t, hstore, hmem, houts⟩ := s.remotePerform_store _ n (amoOperand n v) l hhome hquiet hpkg hrep hclean hfind hceil
    refine ⟨t, ?_, ?_, houts⟩
    · rw [remoteModuleRequest_pkg ten asid off n .store v s hpos hblock hoff hroom (.inr hsize), hstore]; rfl
    · rw [hmem, amoOperand, two_pow_eight_mul, Nat.mod_mod]
  · intro n ea rest data s hn inc
    refine ⟨fun k houts => ⟨loadReply n k ea rest data .ok s hn houts (by decide), fun page => ?_, fun i st hi => ?_⟩,
      fun bytes houts => storeReply n ea bytes rest data s hn houts⟩
    · cases page
      · exact loadReply n k ea rest data .access s hn houts (by decide)
      · exact loadReply n k ea rest data .page s hn houts (by decide)
    · exact ⟨_, remoteModuleReply_stale n _ rest data i st s houts (decide_eq_true rfl) hi, s.stale_spec _ _ _⟩
  · intro a s
    refine ⟨coreDeclaredDead a s, fun hknown => agentDeclaredDead_known a s ((isAgent_iff a).mpr hknown), fun ha hunknown => ?_⟩
    exact agentDeclaredDead_unknown a s ha (Bool.eq_false_iff.mpr (fun h => hunknown ((isAgent_iff a).mp h)))
  · intro port replay s
    refine ⟨fun hport => ?_, linkFlitCrcFail_live port replay s⟩
    show execLinkFlitCrcFail port replay s = _
    rw [execLinkFlitCrcFail, if_pos (.inl hport)]

end Sys2Proof.Machine
end
